-- ==== Sys2Proof/Word.lean ====
section
/-! DEFINITION. Word.lean: the words of the AM-3 (R7, R125, R126): bytes, 64-bit words, 128-bit vector words,
register numbers. Little-endian throughout (R7). -/
namespace Sys2Proof

/-- One byte of memory (R7). -/
abbrev Byte := BitVec 8

/-- The value of an x register or of a CSR: 64 bits (R125, R144). -/
abbrev Word := BitVec 64

/-- The value of a v register: 128 bits (R125, R126). -/
abbrev VWord := BitVec 128

/-- The number of an x register or of a v register in a field (R321). -/
abbrev Reg := BitVec 5

end Sys2Proof
end

