-- ==== Sys2Proof/Config.lean ====
section
/-! DEFINITION. Config.lean: what the spec leaves to the implementation or leaves open: constants without a body, so that nothing
can be proved about their values. Each is named in a log entry (notes/assumptions). -/
namespace Sys2Proof.Config

/-- The core's cycle count after a number of steps of the model: time is no part of the model, so CYCLE (R144) is free.
[DESIGN CHOICE, unsafe: log 8] -/
opaque cycleAt : Nat → Word

/-- What a counter of the memory hierarchy shows after a number of steps, by its offset in the register window: REPLAYFULL, CONFL_b and
HBMCE count what depends on time or on errors that nothing else shows (R152, R155). [DESIGN CHOICE, unsafe: log 8] -/
opaque countAt : Nat → Nat → Word

/-- A byte of a scratchpad whose bank hash has changed and that nothing has written since (R153: not defined).
[DESIGN CHOICE, safe: log 13] -/
opaque spadByte : Nat → Byte

/-- Which of the four words' values a mailbox keeps when two messages meet in it (R339), and other choices between two listed
outcomes, numbered by the counter of free values. -/
opaque freeBit : Nat → Bool

/-- Whose turn the step after a number of steps is: an issue turn of a core, or (none) an event of the device. The cores and the units
around them work side by side, and the spec gives no order between them. [DESIGN CHOICE, unsafe: log 2] -/
opaque turnAt : Nat → Option Nat

/-- Which of the events that are due is taken at a number of steps, and how many cycles have passed at a flit boundary.
[DESIGN CHOICE, unsafe: log 2] -/
opaque eventAt : Nat → Nat

/-- A free value of 64 bits, numbered by the counter of free values. -/
opaque freeWord : Nat → Word

/-- The thresholds of the free monotone function that an approximation follows within what R242 and R243 leave open: the function (0 vrcp,
1 vrsqrt, 2 vexp2, 3 vlog2, 4 vtanh, 5 verf), the lane type (4 bf16, 5 f16, 6 f32) times 2 and the sign of the result, the node. The value
it is held against is in units of 2^-600. [DESIGN CHOICE, safe: log 11] -/
opaque approx : Nat → Nat → Nat → Nat

/-- The CRC-32 that frames a flit (R27): the spec does not name its polynomial. The bytes are those of the frame: class, virtual channel,
link sequence number, flit. [DESIGN CHOICE, unsafe: log 86] -/
opaque flitCrc : List Byte → BitVec 32

/-- The ring-oscillator count of a die, fixed per part (R14). -/
opaque processCount : Nat → Word

/-- The Kenolavas configuration key, firmware key and device-certificate key held in the boot ROM (R16, R18, R20).
[DESIGN CHOICE, safe: log 14] -/
opaque configKey : List Byte

/-- The Kenolavas firmware key (R20). [DESIGN CHOICE, safe: log 14] -/
opaque firmwareKey : List Byte

/-- The Kenolavas device-certificate key (R18). [DESIGN CHOICE, safe: log 14] -/
opaque certKey : List Byte

end Sys2Proof.Config
end

