-- ==== Sys2Proof/Machine/Tab.lean ====
section
/-! DEFINITION. Machine/Tab.lean: a sparse table from numbers to plain data, as a list of pairs with one pair a key. -/
namespace Sys2Proof.Machine

/-- A sparse table: what it does not list has the reader's default. -/
abbrev Tab (α : Type) := List (Nat × α)

/-- The entry of a key, or the default. -/
def tget {α : Type} (t : Tab α) (k : Nat) (dflt : α) : α :=
  match t with
  | [] => dflt
  | (k', v) :: r => if k' = k then v else tget r k dflt

/-- The entry of a key, where the table lists it. -/
def tfind {α : Type} (t : Tab α) (k : Nat) : Option α :=
  match t with
  | [] => none
  | (k', v) :: r => if k' = k then some v else tfind r k

/-- The table with the entry of a key replaced or put in, in ascending key order. -/
def tset {α : Type} (t : Tab α) (k : Nat) (v : α) : Tab α :=
  match t with
  | [] => [(k, v)]
  | (k', v') :: r =>
    if k' = k then (k, v) :: r
    else if k < k' then (k, v) :: (k', v') :: r
    else (k', v') :: tset r k v

/-- The table without the entry of a key. -/
def tdel {α : Type} (t : Tab α) (k : Nat) : Tab α := t.filter (fun p => p.1 != k)

/-- The table with a function applied to every entry. -/
def tmap {α : Type} (t : Tab α) (f : Nat → α → α) : Tab α := t.map (fun p => (p.1, f p.1 p.2))

/-- An element put into a sorted list before the first one that is not before it. -/
def insertBy {α : Type} (le : α → α → Bool) (x : α) : List α → List α
  | [] => [x]
  | y :: r => if le x y then x :: y :: r else y :: insertBy le x r
/-- A list in order; equal elements keep their order. -/
def sortBy {α : Type} (le : α → α → Bool) : List α → List α
  | [] => []
  | x :: r => insertBy le x (sortBy le r)

end Sys2Proof.Machine
end

