-- ==== Sys2Proof/Packet.lean ====
section
/-! DEFINITION. Packet.lean: the plain data that an event of Syntax.lean brings from outside the device: a fabric packet
(R28, R50), the inputs of a Matins run (R16 to R24), a recovery image (R20, R21) and the readings of the monitors (R14). -/
namespace Sys2Proof

/-- A fabric packet: the header flit of R28, field by field, and its data flits as bytes (64 bytes a data flit).
BODY keeps its 424 bits; the fields of R50 are read from it by the accessors of Machine/PacketFields.lean. -/
structure Packet where
  kind   : BitVec 8
  len    : Nat
  dest   : BitVec 16
  origin : BitVec 16
  job    : BitVec 16
  seq    : BitVec 16
  gen    : Bool
  esc    : Bool
  hops   : BitVec 6
  body   : BitVec 424
  data   : List Byte
  deriving DecidableEq, Repr

/-- A firmware image as it stands in FMC flash or as it arrives for recovery (R20, R21): its security version, its
bytes and its ML-DSA-44 signature. `sideband` tells which path of R21 brought it. -/
structure FirmwareImage where
  sideband : Bool
  secver   : BitVec 32
  bytes    : List Byte
  sig      : List Byte
  deriving DecidableEq, Repr

/-- What the FMC's flash holds: helper data, configuration record, firmware image, certificate (R16, R18, R20). -/
structure Flash where
  helper       : List Byte := []
  configRecord : List Byte := []
  firmware     : FirmwareImage := { sideband := false, secver := 0, bytes := [], sig := [] }
  certificate  : List Byte := []
  deriving DecidableEq, Repr

/-- What a Matins run finds outside the device (R22): the outcome of the ROM self-check, the secret that the PUF yields
(R18), what the FMC has written to its flash since the last run (none: nothing), the stacks that train (R23), the ports that train
(R22 step 5), the dies whose zero fill passes and whether the counter advances (R22 steps 6, 7), the device id that the
FMC assigns (R46), and the boot ROM's bytes (measured, R19). -/
structure BootInput where
  romOk        : Bool
  rom          : List Byte
  secret       : List Byte
  flash        : Option Flash
  stackOk      : BitVec 8
  trainedPorts : List (Nat × BitVec 16)
  dieOk        : BitVec 4
  counterOk    : Bool
  deviceId     : BitVec 15
  deriving DecidableEq, Repr

/-- One refresh of the monitors (R14): temperatures in steps of 0.125 degrees (clusters 0 to 255, then the hub, then the
eight base dies), the droop of each cluster and of the hub in mV. -/
structure MonitorInput where
  temps   : List Int
  droops  : List Nat
  deriving DecidableEq, Repr

end Sys2Proof
end

