-- ==== Sys2Proof/Syntax.lean ====
section
/-! DEFINITION. Syntax.lean: the instructions of the AM-3, ONE constructor per row of spec/opcode_table.json. First the rows
with an encoding and operand fields, in the table's order: a constructor carries the fields of its encoding under the table's
names (d = rd, a = rs1, b = rs2, i = immediate, s = shift amount or stream, t = type, u = U, unit or source type, ...). Then the
instructions without operands, then the EVENTS: the rows without an encoding, each something the device does when an outside party
or the passing of time asks for it. What that party supplies (a port, a packet, a reading, the number of a thread set) stands in
the state's `ev` (EvIn, Packet.lean) when the event is executed: INVENTORY.md, Agents. -/
namespace Sys2Proof

/-- The instruction of each row of the opcode table. The docstring of a constructor cites the row's rule. -/
inductive Instr where
  /-- R330: `LUI`. -/
  | lui (d : Reg) (i : BitVec 20)
  /-- R330: `AUIPC`. -/
  | auipc (d : Reg) (i : BitVec 20)
  /-- R331: `JAL`. -/
  | jal (d : Reg) (i : BitVec 20)
  /-- R331: `JALR`. -/
  | jalr (d : Reg) (a : Reg) (i : BitVec 12)
  /-- R331: `BEQ`. -/
  | beq (a b : Reg) (i : BitVec 12)
  /-- R331: `BNE`. -/
  | bne (a b : Reg) (i : BitVec 12)
  /-- R331: `BLT`. -/
  | blt (a b : Reg) (i : BitVec 12)
  /-- R331: `BGE`. -/
  | bge (a b : Reg) (i : BitVec 12)
  /-- R331: `BLTU`. -/
  | bltu (a b : Reg) (i : BitVec 12)
  /-- R331: `BGEU`. -/
  | bgeu (a b : Reg) (i : BitVec 12)
  /-- R348: `LB`. -/
  | lb (d : Reg) (a : Reg) (i : BitVec 12)
  /-- R348: `LH`. -/
  | lh (d : Reg) (a : Reg) (i : BitVec 12)
  /-- R348: `LW`. -/
  | lw (d : Reg) (a : Reg) (i : BitVec 12)
  /-- R348: `LD`. -/
  | ld (d : Reg) (a : Reg) (i : BitVec 12)
  /-- R348: `LBU`. -/
  | lbu (d : Reg) (a : Reg) (i : BitVec 12)
  /-- R348: `LHU`. -/
  | lhu (d : Reg) (a : Reg) (i : BitVec 12)
  /-- R348: `LWU`. -/
  | lwu (d : Reg) (a : Reg) (i : BitVec 12)
  /-- R348: `SB`. -/
  | sb (b a : Reg) (i : BitVec 12)
  /-- R348: `SH`. -/
  | sh (b a : Reg) (i : BitVec 12)
  /-- R348: `SW`. -/
  | sw (b a : Reg) (i : BitVec 12)
  /-- R348: `SD`. -/
  | sd (b a : Reg) (i : BitVec 12)
  /-- R332: `FENCE`. -/
  | fence (d : Reg) (a : Reg) (m : BitVec 4) (p : BitVec 4) (s : BitVec 4)
  /-- R332: `FENCE_TSO`. -/
  | fenceTso (d : Reg) (a : Reg)
  /-- R330: `ADDI`. -/
  | addi (d : Reg) (a : Reg) (i : BitVec 12)
  /-- R330: `SLTI`. -/
  | slti (d : Reg) (a : Reg) (i : BitVec 12)
  /-- R330: `SLTIU`. -/
  | sltiu (d : Reg) (a : Reg) (i : BitVec 12)
  /-- R330: `XORI`. -/
  | xori (d : Reg) (a : Reg) (i : BitVec 12)
  /-- R330: `ORI`. -/
  | ori (d : Reg) (a : Reg) (i : BitVec 12)
  /-- R330: `ANDI`. -/
  | andi (d : Reg) (a : Reg) (i : BitVec 12)
  /-- R330: `SLLI`. -/
  | slli (d : Reg) (a : Reg) (s : BitVec 6)
  /-- R330: `SRLI`. -/
  | srli (d : Reg) (a : Reg) (s : BitVec 6)
  /-- R330: `SRAI`. -/
  | srai (d : Reg) (a : Reg) (s : BitVec 6)
  /-- R330: `CLZ`. -/
  | clz (d : Reg) (a : Reg)
  /-- R330: `CTZ`. -/
  | ctz (d : Reg) (a : Reg)
  /-- R330: `CPOP`. -/
  | cpop (d : Reg) (a : Reg)
  /-- R330: `SEXT_B`. -/
  | sextB (d : Reg) (a : Reg)
  /-- R330: `SEXT_H`. -/
  | sextH (d : Reg) (a : Reg)
  /-- R330: `RORI`. -/
  | rori (d : Reg) (a : Reg) (s : BitVec 6)
  /-- R330: `ORC_B`. -/
  | orcB (d : Reg) (a : Reg)
  /-- R330: `REV8`. -/
  | rev8 (d : Reg) (a : Reg)
  /-- R330: `ADDIW`. -/
  | addiw (d : Reg) (a : Reg) (i : BitVec 12)
  /-- R330: `SLLIW`. -/
  | slliw (d : Reg) (a : Reg) (s : BitVec 5)
  /-- R330: `SLLI_UW`. -/
  | slliUw (d : Reg) (a : Reg) (s : BitVec 6)
  /-- R330: `SRLIW`. -/
  | srliw (d : Reg) (a : Reg) (s : BitVec 5)
  /-- R330: `SRAIW`. -/
  | sraiw (d : Reg) (a : Reg) (s : BitVec 5)
  /-- R330: `RORIW`. -/
  | roriw (d : Reg) (a : Reg) (s : BitVec 5)
  /-- R330: `CLZW`. -/
  | clzw (d : Reg) (a : Reg)
  /-- R330: `CTZW`. -/
  | ctzw (d : Reg) (a : Reg)
  /-- R330: `CPOPW`. -/
  | cpopw (d : Reg) (a : Reg)
  /-- R330: `ADD`. -/
  | add (d : Reg) (a : Reg) (b : Reg)
  /-- R330: `SLL`. -/
  | sll (d : Reg) (a : Reg) (b : Reg)
  /-- R330: `SLT`. -/
  | slt (d : Reg) (a : Reg) (b : Reg)
  /-- R330: `SLTU`. -/
  | sltu (d : Reg) (a : Reg) (b : Reg)
  /-- R330: `XOR`. -/
  | xor (d : Reg) (a : Reg) (b : Reg)
  /-- R330: `SRL`. -/
  | srl (d : Reg) (a : Reg) (b : Reg)
  /-- R330: `OR`. -/
  | or (d : Reg) (a : Reg) (b : Reg)
  /-- R330: `AND`. -/
  | and (d : Reg) (a : Reg) (b : Reg)
  /-- R330: `SUB`. -/
  | sub (d : Reg) (a : Reg) (b : Reg)
  /-- R330: `SRA`. -/
  | sra (d : Reg) (a : Reg) (b : Reg)
  /-- R330: `ANDN`. -/
  | andn (d : Reg) (a : Reg) (b : Reg)
  /-- R330: `ORN`. -/
  | orn (d : Reg) (a : Reg) (b : Reg)
  /-- R330: `XNOR`. -/
  | xnor (d : Reg) (a : Reg) (b : Reg)
  /-- R330: `MUL`. -/
  | mul (d : Reg) (a : Reg) (b : Reg)
  /-- R330: `MULH`. -/
  | mulh (d : Reg) (a : Reg) (b : Reg)
  /-- R330: `MULHSU`. -/
  | mulhsu (d : Reg) (a : Reg) (b : Reg)
  /-- R330: `MULHU`. -/
  | mulhu (d : Reg) (a : Reg) (b : Reg)
  /-- R330: `DIV`. -/
  | div (d : Reg) (a : Reg) (b : Reg)
  /-- R330: `DIVU`. -/
  | divu (d : Reg) (a : Reg) (b : Reg)
  /-- R330: `REM`. -/
  | rem (d : Reg) (a : Reg) (b : Reg)
  /-- R330: `REMU`. -/
  | remu (d : Reg) (a : Reg) (b : Reg)
  /-- R330: `SH1ADD`. -/
  | sh1add (d : Reg) (a : Reg) (b : Reg)
  /-- R330: `SH2ADD`. -/
  | sh2add (d : Reg) (a : Reg) (b : Reg)
  /-- R330: `SH3ADD`. -/
  | sh3add (d : Reg) (a : Reg) (b : Reg)
  /-- R330: `MIN`. -/
  | min (d : Reg) (a : Reg) (b : Reg)
  /-- R330: `MINU`. -/
  | minu (d : Reg) (a : Reg) (b : Reg)
  /-- R330: `MAX`. -/
  | max (d : Reg) (a : Reg) (b : Reg)
  /-- R330: `MAXU`. -/
  | maxu (d : Reg) (a : Reg) (b : Reg)
  /-- R330: `ROL`. -/
  | rol (d : Reg) (a : Reg) (b : Reg)
  /-- R330: `ROR`. -/
  | ror (d : Reg) (a : Reg) (b : Reg)
  /-- R330: `ADDW`. -/
  | addw (d : Reg) (a : Reg) (b : Reg)
  /-- R330: `SLLW`. -/
  | sllw (d : Reg) (a : Reg) (b : Reg)
  /-- R330: `SRLW`. -/
  | srlw (d : Reg) (a : Reg) (b : Reg)
  /-- R330: `SUBW`. -/
  | subw (d : Reg) (a : Reg) (b : Reg)
  /-- R330: `SRAW`. -/
  | sraw (d : Reg) (a : Reg) (b : Reg)
  /-- R330: `MULW`. -/
  | mulw (d : Reg) (a : Reg) (b : Reg)
  /-- R330: `DIVW`. -/
  | divw (d : Reg) (a : Reg) (b : Reg)
  /-- R330: `DIVUW`. -/
  | divuw (d : Reg) (a : Reg) (b : Reg)
  /-- R330: `REMW`. -/
  | remw (d : Reg) (a : Reg) (b : Reg)
  /-- R330: `REMUW`. -/
  | remuw (d : Reg) (a : Reg) (b : Reg)
  /-- R330: `ADD_UW`. -/
  | addUw (d : Reg) (a : Reg) (b : Reg)
  /-- R330: `ZEXT_H`. -/
  | zextH (d : Reg) (a : Reg)
  /-- R330: `SH1ADD_UW`. -/
  | sh1addUw (d : Reg) (a : Reg) (b : Reg)
  /-- R330: `SH2ADD_UW`. -/
  | sh2addUw (d : Reg) (a : Reg) (b : Reg)
  /-- R330: `SH3ADD_UW`. -/
  | sh3addUw (d : Reg) (a : Reg) (b : Reg)
  /-- R330: `ROLW`. -/
  | rolw (d : Reg) (a : Reg) (b : Reg)
  /-- R330: `RORW`. -/
  | rorw (d : Reg) (a : Reg) (b : Reg)
  /-- R352: `AMOADD_W`. -/
  | amoaddW (d : Reg) (a : Reg) (b : Reg) (q : BitVec 1) (l : BitVec 1)
  /-- R352: `AMOADD_D`. -/
  | amoaddD (d : Reg) (a : Reg) (b : Reg) (q : BitVec 1) (l : BitVec 1)
  /-- R352: `AMOSWAP_W`. -/
  | amoswapW (d : Reg) (a : Reg) (b : Reg) (q : BitVec 1) (l : BitVec 1)
  /-- R352: `AMOSWAP_D`. -/
  | amoswapD (d : Reg) (a : Reg) (b : Reg) (q : BitVec 1) (l : BitVec 1)
  /-- R352: `AMOXOR_W`. -/
  | amoxorW (d : Reg) (a : Reg) (b : Reg) (q : BitVec 1) (l : BitVec 1)
  /-- R352: `AMOXOR_D`. -/
  | amoxorD (d : Reg) (a : Reg) (b : Reg) (q : BitVec 1) (l : BitVec 1)
  /-- R352: `AMOOR_W`. -/
  | amoorW (d : Reg) (a : Reg) (b : Reg) (q : BitVec 1) (l : BitVec 1)
  /-- R352: `AMOOR_D`. -/
  | amoorD (d : Reg) (a : Reg) (b : Reg) (q : BitVec 1) (l : BitVec 1)
  /-- R352: `AMOAND_W`. -/
  | amoandW (d : Reg) (a : Reg) (b : Reg) (q : BitVec 1) (l : BitVec 1)
  /-- R352: `AMOAND_D`. -/
  | amoandD (d : Reg) (a : Reg) (b : Reg) (q : BitVec 1) (l : BitVec 1)
  /-- R352: `AMOMIN_W`. -/
  | amominW (d : Reg) (a : Reg) (b : Reg) (q : BitVec 1) (l : BitVec 1)
  /-- R352: `AMOMIN_D`. -/
  | amominD (d : Reg) (a : Reg) (b : Reg) (q : BitVec 1) (l : BitVec 1)
  /-- R352: `AMOMAX_W`. -/
  | amomaxW (d : Reg) (a : Reg) (b : Reg) (q : BitVec 1) (l : BitVec 1)
  /-- R352: `AMOMAX_D`. -/
  | amomaxD (d : Reg) (a : Reg) (b : Reg) (q : BitVec 1) (l : BitVec 1)
  /-- R352: `AMOMINU_W`. -/
  | amominuW (d : Reg) (a : Reg) (b : Reg) (q : BitVec 1) (l : BitVec 1)
  /-- R352: `AMOMINU_D`. -/
  | amominuD (d : Reg) (a : Reg) (b : Reg) (q : BitVec 1) (l : BitVec 1)
  /-- R352: `AMOMAXU_W`. -/
  | amomaxuW (d : Reg) (a : Reg) (b : Reg) (q : BitVec 1) (l : BitVec 1)
  /-- R352: `AMOMAXU_D`. -/
  | amomaxuD (d : Reg) (a : Reg) (b : Reg) (q : BitVec 1) (l : BitVec 1)
  /-- R431: `CSRRW`. -/
  | csrrw (d : Reg) (a : Reg) (c : BitVec 12)
  /-- R431: `CSRRS`. -/
  | csrrs (d : Reg) (a : Reg) (c : BitVec 12)
  /-- R431: `CSRRC`. -/
  | csrrc (d : Reg) (a : Reg) (c : BitVec 12)
  /-- R431: `CSRRWI`. -/
  | csrrwi (d : Reg) (c : BitVec 12) (u : BitVec 5)
  /-- R431: `CSRRSI`. -/
  | csrrsi (d : Reg) (c : BitVec 12) (u : BitVec 5)
  /-- R431: `CSRRCI`. -/
  | csrrci (d : Reg) (c : BitVec 12) (u : BitVec 5)
  /-- R350: `VL`. -/
  | vl (d : Reg) (a : Reg) (i : BitVec 12)
  /-- R351: `VL_TR`. -/
  | vlTr (d : Reg) (a : Reg) (z : BitVec 2) (s : BitVec 10)
  /-- R350: `VS`. -/
  | vs (b a : Reg) (i : BitVec 12)
  /-- R371: `VADD`. -/
  | vadd (d : Reg) (a : Reg) (b : Reg) (t : BitVec 3)
  /-- R371: `VSUB`. -/
  | vsub (d : Reg) (a : Reg) (b : Reg) (t : BitVec 3)
  /-- R371: `VMUL`. -/
  | vmul (d : Reg) (a : Reg) (b : Reg) (t : BitVec 3)
  /-- R371: `VMULH`. -/
  | vmulh (d : Reg) (a : Reg) (b : Reg) (u : BitVec 1) (t : BitVec 3)
  /-- R371: `VMAC`. -/
  | vmac (d : Reg) (a : Reg) (b : Reg) (u : BitVec 1) (t : BitVec 3)
  /-- R371: `VMIN`. -/
  | vmin (d : Reg) (a : Reg) (b : Reg) (u : BitVec 1) (t : BitVec 3)
  /-- R371: `VMAX`. -/
  | vmax (d : Reg) (a : Reg) (b : Reg) (u : BitVec 1) (t : BitVec 3)
  /-- R371: `VABS`. -/
  | vabs (d : Reg) (a : Reg) (t : BitVec 3)
  /-- R371: `VAND`. -/
  | vand (d : Reg) (a : Reg) (b : Reg)
  /-- R371: `VOR`. -/
  | vor (d : Reg) (a : Reg) (b : Reg)
  /-- R371: `VXOR`. -/
  | vxor (d : Reg) (a : Reg) (b : Reg)
  /-- R371: `VSLL`. -/
  | vsll (d : Reg) (a : Reg) (b : Reg) (t : BitVec 3)
  /-- R371: `VSRL`. -/
  | vsrl (d : Reg) (a : Reg) (b : Reg) (t : BitVec 3)
  /-- R371: `VSRA`. -/
  | vsra (d : Reg) (a : Reg) (b : Reg) (t : BitVec 3)
  /-- R372: `VCMP_EQ`. -/
  | vcmpEq (d : Reg) (a : Reg) (b : Reg) (t : BitVec 3)
  /-- R372: `VCMP_NE`. -/
  | vcmpNe (d : Reg) (a : Reg) (b : Reg) (t : BitVec 3)
  /-- R372: `VCMP_LT`. -/
  | vcmpLt (d : Reg) (a : Reg) (b : Reg) (u : BitVec 1) (t : BitVec 3)
  /-- R372: `VCMP_LE`. -/
  | vcmpLe (d : Reg) (a : Reg) (b : Reg) (u : BitVec 1) (t : BitVec 3)
  /-- R374: `VFADD`. -/
  | vfadd (d : Reg) (a : Reg) (b : Reg) (t : BitVec 3)
  /-- R374: `VFSUB`. -/
  | vfsub (d : Reg) (a : Reg) (b : Reg) (t : BitVec 3)
  /-- R374: `VFMUL`. -/
  | vfmul (d : Reg) (a : Reg) (b : Reg) (t : BitVec 3)
  /-- R374: `VFMA`. -/
  | vfma (d : Reg) (a : Reg) (b : Reg) (t : BitVec 3)
  /-- R374: `VFMIN`. -/
  | vfmin (d : Reg) (a : Reg) (b : Reg) (t : BitVec 3)
  /-- R374: `VFMAX`. -/
  | vfmax (d : Reg) (a : Reg) (b : Reg) (t : BitVec 3)
  /-- R375: `VDOT`. -/
  | vdot (d : Reg) (a : Reg) (b : Reg) (u : BitVec 1) (t : BitVec 3)
  /-- R375: `VREDSUM`. -/
  | vredsum (d : Reg) (a : Reg) (u : BitVec 1) (t : BitVec 3)
  /-- R375: `VREDMAX`. -/
  | vredmax (d : Reg) (a : Reg) (u : BitVec 1) (t : BitVec 3)
  /-- R375: `VREDMIN`. -/
  | vredmin (d : Reg) (a : Reg) (u : BitVec 1) (t : BitVec 3)
  /-- R376: `VRCP`. -/
  | vrcp (d : Reg) (a : Reg) (t : BitVec 3)
  /-- R376: `VRSQRT`. -/
  | vrsqrt (d : Reg) (a : Reg) (t : BitVec 3)
  /-- R376: `VEXP2`. -/
  | vexp2 (d : Reg) (a : Reg) (t : BitVec 3)
  /-- R376: `VLOG2`. -/
  | vlog2 (d : Reg) (a : Reg) (t : BitVec 3)
  /-- R376: `VTANH`. -/
  | vtanh (d : Reg) (a : Reg) (t : BitVec 3)
  /-- R376: `VERF`. -/
  | verf (d : Reg) (a : Reg) (t : BitVec 3)
  /-- R377: `VPERM`. -/
  | vperm (d : Reg) (a : Reg) (b : Reg) (t : BitVec 3)
  /-- R377: `VZIP`. -/
  | vzip (d : Reg) (a : Reg) (b : Reg) (t : BitVec 3)
  /-- R377: `VUNZIP`. -/
  | vunzip (d : Reg) (a : Reg) (b : Reg) (t : BitVec 3)
  /-- R377: `VBCAST`. -/
  | vbcast (d : Reg) (a : Reg) (t : BitVec 3)
  /-- R377: `VEXT`. -/
  | vext (d : Reg) (a : Reg) (i : BitVec 5) (t : BitVec 3)
  /-- R377: `VINS`. -/
  | vins (d : Reg) (a : Reg) (i : BitVec 5) (t : BitVec 3)
  /-- R371: `VMV`. -/
  | vmv (d : Reg) (a : Reg)
  /-- R382: `VMX_ENC`. -/
  | vmxEnc (d : Reg) (a : Reg) (s : BitVec 1) (e : BitVec 5) (t : BitVec 3)
  /-- R382: `VMX_DEC`. -/
  | vmxDec (d : Reg) (a : Reg) (e : BitVec 5) (t : BitVec 3)
  /-- R373: `VSEL`. -/
  | vsel (d : Reg) (a : Reg) (b : Reg) (c : BitVec 5) (t : BitVec 3)
  /-- R379: `VCVT`. -/
  | vcvt (d : Reg) (a : Reg) (t : BitVec 5) (s : BitVec 1) (u : BitVec 5) (m : BitVec 3)
  /-- R380: `VTAB_ENC`. -/
  | vtabEnc (d : Reg) (a : Reg) (s : BitVec 1) (u : BitVec 5)
  /-- R380: `VTAB_DEC`. -/
  | vtabDec (d : Reg) (a : Reg) (t : BitVec 5)
  /-- R353: `LD_ACQ`. -/
  | ldAcq (d : Reg) (a : Reg)
  /-- R353: `SD_REL`. -/
  | sdRel (a : Reg) (b : Reg)
  /-- R355: `AMO_SC_SWAP`. -/
  | amoScSwap (d : Reg) (a : Reg) (b : Reg) (w : BitVec 1)
  /-- R355: `AMO_SC_ADD`. -/
  | amoScAdd (d : Reg) (a : Reg) (b : Reg) (w : BitVec 1)
  /-- R355: `AMO_SC_MIN`. -/
  | amoScMin (d : Reg) (a : Reg) (b : Reg) (u : BitVec 1) (w : BitVec 1)
  /-- R355: `AMO_SC_MAX`. -/
  | amoScMax (d : Reg) (a : Reg) (b : Reg) (u : BitVec 1) (w : BitVec 1)
  /-- R355: `AMO_SC_CAS`. -/
  | amoScCas (d : Reg) (a : Reg) (b : Reg) (w : BitVec 1)
  /-- R356: `FENCE_S`. -/
  | fenceS (d : Reg) (s : BitVec 3) (k : BitVec 2)
  /-- R357: `DEP_JOIN`. -/
  | depJoin (d : Reg) (a : Reg) (v : BitVec 1) (w : BitVec 1)
  /-- R357: `DEP_CLR`. -/
  | depClr (d : Reg) (a : Reg) (v : BitVec 1)
  /-- R357: `DEP_WAIT`. -/
  | depWait (a : Reg) (w : BitVec 1)
  /-- R358: `WAIT_ADDR`. -/
  | waitAddr (d : Reg) (a : Reg) (b : Reg) (o : BitVec 7)
  /-- R361: `BAR_INIT`. -/
  | barInit (a : Reg) (b : Reg)
  /-- R362: `BAR_ARRIVE`. -/
  | barArrive (a : Reg)
  /-- R362: `BAR_WAIT`. -/
  | barWait (a : Reg)
  /-- R359: `WAIT_ANY`. -/
  | waitAny (d : Reg) (a : Reg) (b : Reg)
  /-- R364: `RD_FWD`. -/
  | rdFwd (d : Reg) (a : Reg) (b : Reg)
  /-- R364: `RD_CAST`. -/
  | rdCast (d : Reg) (a : Reg) (b : Reg)
  /-- R366: `PEER_ERR`. -/
  | peerErr (d : Reg) (a : Reg)
  /-- R366: `PEER_ID`. -/
  | peerId (d : Reg) (a : Reg)
  /-- R366: `PEER_CLR`. -/
  | peerClr (a : Reg)
  /-- R366: `TS_GET`. -/
  | tsGet (d : Reg)
  /-- R334: `WID_GET`. -/
  | widGet (d : Reg)
  /-- R335: `NODE_CH`. -/
  | nodeCh (d : Reg) (a : Reg) (b : Reg)
  /-- R338: `CALL_AT`. -/
  | callAt (a : Reg) (b : Reg)
  /-- R339: `MSG_WAIT`. -/
  | msgWait (a : Reg) (b : Reg)
  /-- R342: `TASK_PUSH`. -/
  | taskPush (a : Reg)
  /-- R342: `TASK_POP`. -/
  | taskPop (d : Reg)
  /-- R343: `TASK_SPLIT`. -/
  | taskSplit (d : Reg) (a : Reg)
  /-- R344: `TASK_STEAL`. -/
  | taskSteal (d : Reg) (a : Reg)
  /-- R342: `TASK_CNT`. -/
  | taskCnt (d : Reg)
  /-- R345: `FOLLOW`. -/
  | follow (a : Reg)
  /-- R388: `ENG_PUSH`. -/
  | engPush (a : Reg)
  /-- R391: `ENG_QFENCE`. -/
  | engQfence (i : BitVec 5)
  /-- R392: `ENG_WAIT`. -/
  | engWait (i : BitVec 5)
  /-- R393: `ENG_STAT`. -/
  | engStat (d : Reg) (i : BitVec 5)
  /-- R397: `ENG_SAVE`. -/
  | engSave (a : Reg)
  /-- R397: `ENG_RESUME`. -/
  | engResume (a : Reg)
  /-- R394: `ACC_TAKE`. -/
  | accTake (i : BitVec 5)
  /-- R394: `ACC_GIVE`. -/
  | accGive (i : BitVec 5)
  /-- R395: `SHP_LD`. -/
  | shpLd (a : Reg) (i : BitVec 5)
  /-- R395: `SHP_ST`. -/
  | shpSt (a : Reg) (i : BitVec 5)
  /-- R395: `SHP_EVICT`. -/
  | shpEvict (i : BitVec 5)
  /-- R396: `TBL_LD`. -/
  | tblLd (a : Reg)
  /-- R386: `VACC_LD`. -/
  | vaccLd (d : Reg) (a : Reg)
  /-- R386: `VACC_ST`. -/
  | vaccSt (a : Reg) (b : Reg)
  /-- R411: `RK_CFG`. -/
  | rkCfg (a : Reg)
  /-- R413: `RK_SEND`. -/
  | rkSend (a : Reg) (b : Reg)
  /-- R415: `RK_FOLD`. -/
  | rkFold (s : BitVec 3)
  /-- R416: `RK_STAT`. -/
  | rkStat (d : Reg) (s : BitVec 3)
  /-- R417: `RK_DRAIN`. -/
  | rkDrain (s : BitVec 3)
  /-- R418: `RK_GRAD`. -/
  | rkGrad (a : Reg) (b : Reg) (s : BitVec 3)
  /-- R419: `RK_WGRAD`. -/
  | rkWgrad (a : Reg) (b : Reg) (s : BitVec 3)
  /-- R420: `WAVE_CFG`. -/
  | waveCfg (a : Reg) (s : BitVec 3)
  /-- R421: `WAVE_CLOSE_INSTR`. -/
  | waveCloseInstr (s : BitVec 3)
  /-- R422: `WAVE_WAIT`. -/
  | waveWait (s : BitVec 3)
  /-- R269: `TR_CFG`. -/
  | trCfg (a : Reg)
  /-- R273: `TR_DESC`. -/
  | trDesc (a : Reg)
  /-- R278: `TR_PATH`. -/
  | trPath (d : Reg) (a : Reg)
  /-- R279: `TR_BWD`. -/
  | trBwd (d : Reg) (a : Reg) (b : Reg)
  /-- R424: `COLL_GO`. -/
  | collGo (a : Reg)
  /-- R426: `COLL_WAIT`. -/
  | collWait (a : Reg)
  /-- R427: `COLL_STAT`. -/
  | collStat (d : Reg) (a : Reg)
  /-- R383: `STRM_CFG`. -/
  | strmCfg (a : Reg) (u : BitVec 2)
  /-- R347: `FREP`. -/
  | frep (a : Reg) (l : BitVec 4) (m : BitVec 4) (n : BitVec 4)
  /-- R384: `STRM_BIND`. -/
  | strmBind (u : BitVec 2)
  /-- R384: `STRM_END`. -/
  | strmEnd (u : BitVec 2)
  /-- R434: `CTX_SAVE`. -/
  | ctxSave (a : Reg)
  /-- R435: `CTX_LOAD`. -/
  | ctxLoad (d : Reg) (a : Reg)
  /-- R436: `SLEEP`. -/
  | sleep (a : Reg)
  /-- R439: `DBG_MARK`. -/
  | dbgMark (a : Reg)
  /-- R312: `COMPRESSED_INSTRUCTION`. -/
  | compressedInstruction (p : BitVec 16)
  /-- R430: `ECALL`. -/
  | ecall
  /-- R430: `EBREAK`. -/
  | ebreak
  /-- R340: `SUSPEND`. -/
  | suspend
  /-- R340: `YIELD`. -/
  | yield
  /-- R340: `EXIT`. -/
  | exit
  /-- R346: `FOLLOW_END`. -/
  | followEnd
  /-- R412: `RK_ENC`. -/
  | rkEnc
  /-- R433: `TRAP_RET`. -/
  | trapRet
  /-- R437: `ICACHE_INV`. -/
  | icacheInv
  /-- R440: `DBG_STOP`. -/
  | dbgStop
  /-- R22: `MATINS`. -/
  | matins
  /-- R21: `FIRMWARE_RECOVERY_IMAGE`. -/
  | firmwareRecoveryImage
  /-- R19: `ATTESTATION_REQUEST`. -/
  | attestationRequest
  /-- R19: `ATTESTATION_QUEUED_SERVE`. -/
  | attestationQueuedServe
  /-- R12: `POWER_SAMPLE`. -/
  | powerSample
  /-- R15: `MONITOR_REFRESH`. -/
  | monitorRefresh
  /-- R14: `MDROOP_READ`. -/
  | mdroopRead
  /-- R42: `REGISTER_WRITE`. -/
  | registerWrite
  /-- R33: `FLIT_BOUNDARY`. -/
  | flitBoundary
  /-- R28: `PACKET_RECEIVE`. -/
  | packetReceive
  /-- R30: `FLIT_CRC_ERROR`. -/
  | flitCrcError
  /-- R32: `ALLOWANCE_RETURN`. -/
  | allowanceReturn
  /-- R32: `ALLOWANCE_RETURN_SEND`. -/
  | allowanceReturnSend
  /-- R32: `ALLOWANCE_RETURN_TIMEOUT`. -/
  | allowanceReturnTimeout
  /-- R35: `STRIPE_CHANGE`. -/
  | stripeChange
  /-- R30: `REPLAY_REQUEST`. -/
  | replayRequest
  /-- R30: `ACKNOWLEDGE`. -/
  | acknowledge
  /-- R37: `MODE_CHANGE`. -/
  | modeChange
  /-- R43: `IDENTITY`. -/
  | identity
  /-- R29: `UNKNOWN_CONTROL_FLIT`. -/
  | unknownControlFlit
  /-- R36: `LANE_MARGIN_FAILURE`. -/
  | laneMarginFailure
  /-- R37: `TRAINING_COMPLETE`. -/
  | trainingComplete
  /-- R37: `TRAINING_FAIL`. -/
  | trainingFail
  /-- R37: `RETRAIN_COMPLETE`. -/
  | retrainComplete
  /-- R37: `RETRAIN_FAIL`. -/
  | retrainFail
  /-- R37: `SIGNAL_LOST`. -/
  | signalLost
  /-- R37: `ANNOUNCE_DARK_ENTER`. -/
  | announceDarkEnter
  /-- R37: `SIGNAL_RETURN`. -/
  | signalReturn
  /-- R37: `DARK_TIMER_EXPIRY`. -/
  | darkTimerExpiry
  /-- R37: `RELOCK_COMPLETE`. -/
  | relockComplete
  /-- R37: `RELOCK_FAIL`. -/
  | relockFail
  /-- R38: `LNK_CMD_PARK`. -/
  | lnkCmdPark
  /-- R39: `LNK_CMD_WAKE`. -/
  | lnkCmdWake
  /-- R37: `LNK_CMD_RETRAIN_PAM4`. -/
  | lnkCmdRetrainPam4
  /-- R37: `LNK_CMD_FORCE_NRZ`. -/
  | lnkCmdForceNrz
  /-- R37: `LNK_CMD_ANNOUNCE_DARK`. -/
  | lnkCmdAnnounceDark
  /-- R42: `LNK_CMD_RESERVED`. -/
  | lnkCmdReserved
  /-- R37: `LNK_EN_SET`. -/
  | lnkEnSet
  /-- R37: `LNK_EN_CLEAR`. -/
  | lnkEnClear
  /-- R38: `IDLE_PARK_EXPIRY`. -/
  | idleParkExpiry
  /-- R39: `WAKE_DEPTH_TRIGGER`. -/
  | wakeDepthTrigger
  /-- R39: `WAKE_STRIPE_CHANGE`. -/
  | wakeStripeChange
  /-- R45: `GRID_CAPTURE`. -/
  | gridCapture
  /-- R53: `PACKET_INJECT`. -/
  | packetInject
  /-- R52: `ROUTE_PACKET`. -/
  | routePacket
  /-- R61: `DEADLOCK_ESCAPE`. -/
  | deadlockEscape
  /-- R57: `SEQUENCED_PACKET_ARRIVAL`. -/
  | sequencedPacketArrival
  /-- R57: `RETRY_RESEND`. -/
  | retryResend
  /-- R63: `READ`. -/
  | read
  /-- R63: `WRITE`. -/
  | write
  /-- R63: `ATOMIC`. -/
  | atomic
  /-- R65: `READ_DATA`. -/
  | readData
  /-- R65: `WRITE_ACKNOWLEDGE`. -/
  | writeAcknowledge
  /-- R65: `ATOMIC_RESULT`. -/
  | atomicResult
  /-- R65: `PEER_TIMEOUT`. -/
  | peerTimeout
  /-- R67: `FORWARD_REQUEST`. -/
  | forwardRequest
  /-- R67: `FORWARD_DATA`. -/
  | forwardData
  /-- R68: `FORWARD_STATUS`. -/
  | forwardStatus
  /-- R69: `DRAIN_MARKER`. -/
  | drainMarker
  /-- R69: `FABRIC_DRAIN`. -/
  | fabricDrain
  /-- R115: `TASK_RECORD`. -/
  | taskRecord
  /-- R117: `RETURN_MESSAGE`. -/
  | returnMessage
  /-- R111: `PARKED_RECORD_PLACE`. -/
  | parkedRecordPlace
  /-- R79: `COLLECTIVE`. -/
  | collective
  /-- R196: `LWM_ANNOUNCE`. -/
  | lwmAnnounce
  /-- R197: `COMMIT`. -/
  | commit
  /-- R85: `REPLAY_CHECK`. -/
  | replayCheck
  /-- R87: `BAR2_ACCESS`. -/
  | bar2Access
  /-- R90: `CTX_CREATE`. -/
  | ctxCreate
  /-- R91: `CTX_DESTROY`. -/
  | ctxDestroy
  /-- R297: `CTX_RETRY_SAVE`. -/
  | ctxRetrySave
  /-- R91: `CTX_CMD_RESERVED`. -/
  | ctxCmdReserved
  /-- R92: `DOORBELL`. -/
  | doorbell
  /-- R93: `LAUNCH_ACCEPT`. -/
  | launchAccept
  /-- R94: `HOST_IRQ`. -/
  | hostIrq
  /-- R96: `CPL_GO`. -/
  | cplGo
  /-- R96: `CPL_QUIESCE_COMPLETE`. -/
  | cplQuiesceComplete
  /-- R96: `CPL_COPY_COMPLETE`. -/
  | cplCopyComplete
  /-- R96: `CPL_COPY_ERROR`. -/
  | cplCopyError
  /-- R96: `CPL_BOUND_EXCEEDED`. -/
  | cplBoundExceeded
  /-- R96: `CPL_SEAL_COMPLETE`. -/
  | cplSealComplete
  /-- R97: `CPL_RESTORE`. -/
  | cplRestore
  /-- R97: `CPL_RESTORE_COMPLETE`. -/
  | cplRestoreComplete
  /-- R96: `CPL_HOLD_RELEASE`. -/
  | cplHoldRelease
  /-- R305: `TWILIGHT_FREEZE`. -/
  | twilightFreeze
  /-- R305: `TWILIGHT_READ`. -/
  | twilightRead
  /-- R306: `SIDEBAND_DUMP`. -/
  | sidebandDump
  /-- R161: `XLT_INV`. -/
  | xltInv
  /-- R161: `XLT_INV_COMPLETE`. -/
  | xltInvComplete
  /-- R159: `TLB_WALK_COMPLETE`. -/
  | tlbWalkComplete
  /-- R153: `SPAD_HASH`. -/
  | spadHash
  /-- R162: `SPAD_GATE`. -/
  | spadGate
  /-- R162: `DSRAM_GATE`. -/
  | dsramGate
  /-- R162: `BANK_WAKE_COMPLETE`. -/
  | bankWakeComplete
  /-- R103: `LAUNCH_ADMIT`. -/
  | launchAdmit
  /-- R106: `POOL_TOPUP`. -/
  | poolTopup
  /-- R107: `DISPATCH_PLACE`. -/
  | dispatchPlace
  /-- R109: `RECORD_PICKUP`. -/
  | recordPickup
  /-- R113: `BALANCE`. -/
  | balance
  /-- R120: `LAUNCH_COMPLETE`. -/
  | launchComplete
  /-- R127: `FAR_LOAD_DATA`. -/
  | farLoadData
  /-- R129: `DEFERRED_EXECUTE`. -/
  | deferredExecute
  /-- R290: `ASYNC_TRAP_DELIVERY`. -/
  | asyncTrapDelivery
  /-- R293: `CTX_STOPPED`. -/
  | ctxStopped
  /-- R293: `CTX_SAVE_WRITTEN`. -/
  | ctxSaveWritten
  /-- R297: `CTX_SAVE_FAIL`. -/
  | ctxSaveFail
  /-- R293: `CTX_RESTORE_START`. -/
  | ctxRestoreStart
  /-- R293: `CTX_RESTORE_DONE`. -/
  | ctxRestoreDone
  /-- R295: `QUEUE_WRITEBACK`. -/
  | queueWriteback
  /-- R398: `ENTRY_START`. -/
  | entryStart
  /-- R398: `ENTRY_OVERTAKE`. -/
  | entryOvertake
  /-- R324: `ENTRY_AGE`. -/
  | entryAge
  /-- R399: `MMA`. -/
  | mma
  /-- R399: `MMAZ`. -/
  | mmaz
  /-- R400: `AZERO`. -/
  | azero
  /-- R401: `ALOAD`. -/
  | aload
  /-- R401: `ASTORE`. -/
  | astore
  /-- R391: `QUEUE_FENCE`. -/
  | queueFence
  /-- R402: `COPY`. -/
  | copy
  /-- R404: `DECOMP`. -/
  | decomp
  /-- R404: `COMPR`. -/
  | compr
  /-- R169: `GATHER`. -/
  | gather
  /-- R405: `SCATTER`. -/
  | scatter
  /-- R403: `FILL`. -/
  | fill
  /-- R406: `NZSCAN`. -/
  | nzscan
  /-- R407: `SIGNAL`. -/
  | signal
  /-- R248: `INLET_STORE`. -/
  | inletStore
  /-- R261: `WAVE_TICK`. -/
  | waveTick
  /-- R361: `BARRIER_ARRIVAL`. -/
  | barrierArrival
  /-- R358: `WAIT_WAKE`. -/
  | waitWake
  /-- R359: `WAIT_ANY_TIMEOUT`. -/
  | waitAnyTimeout
  /-- R436: `SLEEP_EXPIRY`. -/
  | sleepExpiry
  /-- R301: `BREAKPOINT_MATCH`. -/
  | breakpointMatch
  /-- R301: `DEBUG_RESUME`. -/
  | debugResume
  /-- R302: `SAMPLE_TICK`. -/
  | sampleTick
  /-- R304: `RPL_GO`. -/
  | rplGo
  /-- R173: `ACCESS_PERFORMED_AT_HOME`. -/
  | accessPerformedAtHome
  /-- R18: `POWER_REMOVAL`. -/
  | powerRemoval
  deriving DecidableEq, Repr

end Sys2Proof
end

