-- ==== Sys2Proof/Machine/CoreTypes.lean ====
section
/-! DEFINITION. Machine/CoreTypes.lean: the plain data of a thread set, of a core and of its engines and units: the registers of
R125 and R144, taint and the deferred window (R127 to R131), the repetition buffer (R140), following (R122), activations
and commit buffers (R118, R195), tiles and tokens (R132, R133), shape slots (R135), streams (R138), engine queues (R142),
the rank unit (R250, R267) and the descent unit (R276). -/
namespace Sys2Proof.Machine

/-- The two parts of a register's taint mask (R127): DMASK and JMASK. -/
structure Mask where
  d : BitVec 16 := 0
  j : BitVec 16 := 0
  deriving DecidableEq, Repr

/-- A far-load slot (R128, R292): free, outstanding for a far access, or abandoned by a pre-emption (R294). -/
inductive Slot where
  | free
  | outstanding (access : Nat)
  | abandoned (access : Nat)
  deriving DecidableEq, Repr

/-- How an instruction orders its access in the window (R180, R186, R203, R189): `total` is an amo.sc; `mark` is a dbg.mark, which keeps its
place among the local stores and accesses nothing of theirs (R302). -/
inductive AccessOrder where
  | plain
  | acquire
  | release
  | arrive
  | total
  | mark
  deriving DecidableEq, Repr

/-- The access an instruction makes, as far as its fields say it: address register and offset, bytes, whether it
writes memory, and the registers that hold its data; `wide` where its accesses lead on to other places, so that it keeps its order with
every access (R172, R205). -/
structure MemUse where
  base  : Reg
  off   : Word
  size  : Nat
  store : Bool
  order : AccessOrder := .plain
  dx    : List Reg := []
  dv    : List Reg := []
  wide  : Bool := false
  deriving DecidableEq, Repr

/-- What an instruction reads and writes, as R129 counts it: x and v registers, tiles (R386, R394), draws (R369), the
memory access (R180), whether it waits behind deferred local stores (R192), whether it places an entry in an engine queue (R190, R216) and
whether its results have empty masks; `sw` are the addresses of the elements that its writes of bound write streams store (R385), `uv` the v
registers whose binding it changes (R384), and `late` says that it waits for older writers of its destination alone (R357, R393). -/
structure Use where
  rx    : List Reg := []
  rv    : List Reg := []
  wx    : List Reg := []
  wv    : List Reg := []
  rt    : BitVec 8 := 0
  wt    : BitVec 8 := 0
  draws : Bool := false
  mem   : Option MemUse := none
  afterStores : Bool := false
  queue : Bool := false
  noMask : Bool := false
  sw    : List Word := []
  uv    : List Reg := []
  late  : Bool := false
  deriving DecidableEq, Repr
/-- The accesses of an instruction: its own, and the stores of its stream elements (R385). -/
def Use.accesses (u : Use) : List MemUse :=
  u.mem.toList ++ u.sw.map (fun a => { base := 0, off := a, size := 16, store := true })

/-- An entry of the deferred window (R129): the instruction with its staggered names (R140), its address and length, what it uses, the
masks captured at issue (R127, R357, R178) of all it reads and of its data alone (R180), the mode at issue and how many traps had not
returned then, the level at which a deferred trap holds it, 0 where none does (R131, R285), whether it has begun and keeps its thread set
from being ready (R273, R394, R395), and in an ordered launch the number that marks its place in the store log (R83). -/
structure WinEntry where
  instr : Instr
  pc    : Word
  len   : Nat
  use   : Use
  mask  : Mask := {}
  dmask : Mask := {}
  kernel : Bool := false
  depth : Nat := 0
  held  : Nat := 0
  begun : Bool := false
  mark  : Option Nat := none
  deriving DecidableEq, Repr

/-- The repetition state (R140, R141): start address, body length n, stagger mask, limit L, pass count P, pass, position, the
buffer filled so far (address, length and instruction of a position), and how many traps taken since have not returned: the
repetition is suspended while there is one. -/
structure Rep where
  start : Word
  n     : Nat
  stag  : BitVec 4
  lim   : Nat
  passes : Nat
  pass  : Nat
  pos   : Nat
  buf   : Tab (Word × Nat × Instr) := []
  depth : Nat := 0
  deriving DecidableEq, Repr

/-- An instruction that a leader's core has decoded, as its followers receive it (R122): address, length, instruction,
and the address that the leader went on to. -/
structure Broadcast where
  pc   : Word
  len  : Nat
  instr : Instr
  next : Word
  deriving DecidableEq, Repr

/-- Follow state of a follower (R122, R123): the leader, the instructions that wait, and whether it detaches at its next
instruction. -/
structure Following where
  leader : Nat
  queue  : List Broadcast := []
  detach : Bool := false
  deriving DecidableEq, Repr

/-- A continuation record: the eight words of R108. -/
structure Record where
  w0 : Word := 0
  w1 : Word := 0
  w2 : Word := 0
  w3 : Word := 0
  w4 : Word := 0
  w5 : Word := 0
  w6 : Word := 0
  w7 : Word := 0
  deriving DecidableEq, Repr

/-- The encoder state of a thread set (R247, R413): the four words of the setup block, and for a suspended rk.send its list
and slot and the stores already sent. -/
structure EncState where
  w0 : Word
  w1 : Word
  w2 : Word
  w3 : Word
  sendList : Word := 0
  sendSlot : Word := 0
  sent     : Nat := 0
  deriving DecidableEq, Repr

/-- The rank-unit CSRs of a thread set (R267), and of a stream its own copies. -/
structure RkRegs where
  n      : Word := 0
  st     : Word := 0
  emit   : Word := 0
  nanc   : Word := 0
  beyond : Word := 0
  drain  : Word := 0
  dupc   : Word := 0
  mal    : Word := 0
  stretch : Word := 0
  wave   : Word := 0
  bnd    : Word := 0
  stopn  : Word := 0
  tracen : Word := 0
  deriving DecidableEq, Repr

/-- An entry of the commit buffer (R195): an aligned 32-byte block and the bytes of it that are written. `addr` is the
program's address of the block with the device field (R83). -/
structure BufBlock where
  addr  : Word
  bytes : List (Option Byte)
  deriving DecidableEq, Repr

/-- A tile command word in its queue (R142, R388, R397): the 256 bits, the pushing thread set's data, progress, how much of the step in
progress is written (R64), the effective priority, whether its activation has ended, copied descriptors, running counts, the failure
(cause, address, device) with which it will end; for an entry held to a commit (R199), the far bytes it has written, which are folded into
the digest (R83). -/
structure Entry where
  id       : Nat
  tcw      : BitVec 256
  fence    : Option (BitVec 2) := none
  launch   : Nat
  tid      : Nat
  kernel   : Bool := false
  wid      : Word
  pc       : Word
  progress : Nat := 0
  part     : Nat := 0
  eprio    : Nat := 0
  paused   : Bool := false
  started  : Bool := false
  srBase   : BitVec 32 := 0
  srSel    : BitVec 32 := 0
  retired  : Bool := false
  srcDesc  : Option (BitVec 256) := none
  dstDesc  : Option (BitVec 256) := none
  skipped  : Nat := 0
  zfilled  : Nat := 0
  firstSkip : Nat := 0
  fold     : Bool := false
  failing  : Option (Nat × Word × Nat) := none
  wrote    : List (Word × List Byte) := []
  deriving DecidableEq, Repr

/-- What an ordered activation holds until it commits (R119, R199, R414, R425), in program order; `store` is a store of its commit to a
peer, whose old contents are to be read for the undo region first (R85). -/
inductive HeldOp where
  | record (r : Record) (target : Word) (head : Bool) (pc : Word)
  | message (dev core : Nat) (mbox : Nat) (vals : List Word) (pc : Word)
  | entry (e : Entry) (copyQueue : Bool)
  | send (pc : Word) (stores : List (Word × List Byte)) (taint : BitVec 16)
  | coll (block : List Byte) (map : List Byte) (table : List Byte) (pc : Word)
  | store (addr : Word) (bytes : List Byte)
  deriving DecidableEq, Repr

/-- What follows a commit (R118): the pending next state of the activation, with the record formed at its suspension. -/
inductive AfterCommit where
  | yield (r : Record)
  | suspend (r : Record)
  | park (mbox : Nat) (r : Record)
  | exit
  deriving DecidableEq, Repr

/-- An activation (R118): its launch, the record it was started from, and for an ordered launch the commit buffer, the
signatures, whether it waits to become irrevocable (R200), the held operations and the stores to be folded into the digest (R195
to R200, R83). -/
structure Activation where
  launch : Nat
  record : Record
  buf    : List BufBlock := []
  rsig   : BitVec 256 := 0
  wsig   : BitVec 256 := 0
  irrevocable : Bool := false
  want   : Bool := false
  held   : List HeldOp := []
  log    : List (Word × List Byte) := []
  commitDone : Bool := false
  deriving DecidableEq, Repr

/-- Whether and why a thread set is not ready (R121): idle; running; waiting for the data of a blocking far access (R128,
R355); asleep in wait.addr, wait.any or sleep; in Committing (R118); frozen in place with
TVEC 0 (R286). A thread set held in a debug stop (R301) has `stopHeld`. -/
inductive Run where
  | idle
  | running
  | blocked (access : Nat)
  | sleepWait (units : List Nat)
  | sleepAny (units : List Nat) (timeout : Bool)
  | sleepCount
  | committing (after : AfterCommit)
  | frozen
  deriving DecidableEq, Repr

/-- A deferred trap that waits for the independent window entries (R131): the address of the faulting instruction, the
cause code and the faulting address. -/
structure DefTrap where
  pc    : Word
  code  : Nat
  faddr : Word
  deriving DecidableEq, Repr

/-- The state of one thread set (R125, R144). `tdepth` counts the traps taken that have not returned, `drain` says that a trap.ret is
executing the entries that its trap held (R131, R433), `hold` that the instruction at the PC has begun and keeps the thread set (R273,
R394, R395). `anyList` is the list that a wait.any has copied, `anyOver` its timeout (R359); `mark` what a waiting instruction has fixed:
the stream, its configuration and the wave of an rk.drain or wave.wait (R417, R422); (8, context, 0) a ctx.save that has been accepted,
(9, context, 0) a ctx.load (R434, R435); `bad` which registers have a residue or parity error (R298, R299): bit r is xr, bit 32 + r is vr;
`misres` how many times in a row the next integer result will fail its residue check (R298). -/
structure Thread where
  x      : Vector Word 32 := Vector.replicate 32 0
  v      : Vector VWord 32 := Vector.replicate 32 0
  xm     : Vector Mask 32 := Vector.replicate 32 {}
  vm     : Vector Mask 32 := Vector.replicate 32 {}
  slots  : Vector Slot 16 := Vector.replicate 16 .free
  window : List WinEntry := []
  defTrap : Option DefTrap := none
  drain  : Bool := false
  tdepth : Nat := 0
  hold   : Bool := false
  pc     : Word := 0
  kernel : Bool := false
  pmode  : Bool := false
  fflags : BitVec 5 := 0
  frm    : BitVec 3 := 0
  srctr  : Word := 0
  instret : Word := 0
  wid    : Word := 0
  tstamp : Word := 0
  tvec   : Word := 0
  kscratch : Word := 0
  epc    : Word := 0
  cause  : Word := 0
  faddr  : Word := 0
  depc   : Word := 0
  rep    : Option Rep := none
  fol    : Option Following := none
  enc    : Option EncState := none
  rk     : RkRegs := {}
  mark : Option (Nat × Nat × Nat) := none
  lastWave : Vector (Option (Nat × Nat)) 8 := Vector.replicate 8 none
  act    : Option Activation := none
  run    : Run := .idle
  engCode : Nat × Nat := (0, 0)
  gatherCounts : Nat × Nat × Nat := (0, 0, 0)
  stopHeld : Bool := false
  noMatch : Bool := false
  anyList : Option (List (Word × Word)) := none
  anyOver : Bool := false
  bad    : BitVec 64 := 0
  misres : Nat := 0
  deriving DecidableEq, Repr

/-- A tile (R132): its elements, element [r][c] at key 32 r + c, an unlisted one +0 bits; the keys of those with a parity error (R299);
who holds its token (none: the engine),
and who waits for it with the number below which entries must have completed (R133, R394). -/
structure Tile where
  elems  : Tab (BitVec 32) := []
  bad    : List Nat := []
  holder : Option Nat := none
  waiters : List (Nat × Nat) := []
  deriving DecidableEq, Repr

/-- A shape slot or the decode table, with the launch that loaded it (R135). -/
structure ShapeSlot where
  desc   : BitVec 256
  launch : Nat
  deriving DecidableEq, Repr

/-- The decode table (R137): 256 E8M10 values and the launch that loaded it. -/
structure DecodeTable where
  codes  : List (BitVec 19)
  launch : Nat
  deriving DecidableEq, Repr

/-- A stream unit (R138, R139, R383, R384): the configuration, its owner, whether it is bound, the next element, and the elements of a read
stream that have been prefetched from there on. -/
structure StreamUnit where
  owner  : Nat
  base   : Word
  stride : List Int
  count  : List Nat
  write  : Bool
  bound  : Bool := false
  pos    : Nat := 0
  ahead  : List VWord := []
  deriving DecidableEq, Repr

/-- A channel event of a receive stream (R253, R262): its producer, effective band, sign and channel, and whether it lies in the
overflow area. -/
structure RankEvent where
  prod  : Nat
  band  : Nat
  sign  : Bool
  chan  : Nat
  ovf   : Bool := false
  deriving DecidableEq, Repr

/-- Receive-stream states (R263); `discard` is a wave that a rank-mode descent has used up (R275). -/
inductive StreamState where
  | open
  | folding
  | suspended
  | draining
  | discard
  deriving DecidableEq, Repr

/-- A producer in a wave (R253, R254, R421): the effective band of its latest event, whether its marker has arrived or was forced, and
how many channel events have arrived. -/
structure WaveProd where
  band   : Nat := 0
  ended  : Bool := false
  forced : Bool := false
  count  : Nat := 0
  deriving DecidableEq, Repr

/-- A wave of a receive stream (R253, R254, R261): producers, unmerged events in arrival order, the ranked sequence, whether it has
closed or was ended by rk.drain, how many events of a wave so ended have their trace entries (R264), its counts and sticky flags (R267). -/
structure Wave where
  prods    : List WaveProd := []
  unmerged : List RankEvent := []
  ranked   : List RankEvent := []
  closed   : Bool := false
  dead     : Bool := false
  traced   : Nat := 0
  beyond   : Nat := 0
  drain    : Nat := 0
  dupc     : Nat := 0
  mal      : Nat := 0
  flags    : Word := 0
  deriving DecidableEq, Repr

/-- A receive stream (R250 to R264, R420 to R422): the block copy, the falling sequence, the launch; its waves from number `first` on,
the wave in which each producer's next event belongs, how many waves have closed, the wave to be folded next; the fold in
progress: position, arrivals folded, outputs, stop bits, the thread set that has its record, the wave of that record and the flags told
to it; causes to be raised at the next rk.fold; ticks of the spiking profile. -/
structure RxStream where
  block   : List Word
  seq     : List (BitVec 16)
  launch  : Nat
  ctx     : Nat
  gen     : Nat
  waves   : List Wave := []
  first   : Nat := 0
  arrive  : List Nat := []
  closed  : Nat := 0
  fold    : Nat := 0
  state   : StreamState := .open
  folder  : Option Nat := none
  rkWave  : Nat := 0
  told    : Word := 0
  pos     : Nat := 0
  n       : Nat := 0
  y       : List (BitVec 32) := []
  stop    : Word := 0
  stopn   : Nat := 0
  bnd     : BitVec 32 := 0
  tcount  : Nat := 0
  tracen  : Nat := 0
  bound   : Bool := false
  pend    : List Nat := []
  flags   : Word := 0
  ovfPos  : Nat := 0
  period  : Nat := 1000
  ticks   : Nat := 0
  due     : Bool := false
  stretch : Nat := 0
  heldByTree : Bool := false
  deriving DecidableEq, Repr

/-- Descent-unit states (R276). -/
inductive TreeState where
  | free
  | configured
  | descending
  | partial_
  | done
  deriving DecidableEq, Repr

/-- The descent unit (R269 to R281): `runner` is the thread set whose tr.desc executes; in rank mode `node` is the record of the
node in progress and `acc` its sum and the arrivals folded into it. -/
structure TreeUnit where
  block  : List Word := []
  launch : Nat := 0
  state  : TreeState := .free
  pt     : List (BitVec 32) := []
  bound  : Bool := false
  nan    : Bool := false
  lvl    : Nat := 0
  fetch  : Nat := 0
  groups : Nat := 0
  folds  : Nat := 0
  early  : Nat := 0
  err    : Word := 0
  runner : Option Nat := none
  node   : List Byte := []
  acc    : Option (BitVec 32 × Nat) := none
  deriving DecidableEq, Repr

/-- One engine queue of a core (R142, R398): queued entries, the running one and the paused one; `writeback` holds the entries of a
restored image that wait for their write-back (R295). -/
structure EngQueue where
  queued  : List Entry := []
  running : Option Entry := none
  paused  : Option Entry := none
  writeback : List Entry := []
  deriving DecidableEq, Repr

/-- A parked return record in the waiter table (R117): its launch, mailbox offset, the record, and whether its message has
been loaded (R111). -/
structure Waiter where
  launch : Nat
  mbox   : Nat
  record : Record
  loaded : Bool := false
  deriving DecidableEq, Repr

/-- The state of one core (R132 to R142, R110, R117, R299). `onCore` says for each launch how many entries of its deque, from the head,
are on the core; `tried` are the thread sets that have had a turn since the last issue and could not issue (R121). `rxSaved` are receive
streams of Saved contexts, which go on taking arrivals (R264): stream i of the launch n has the number 8 n + 8 + i. -/
structure Core where
  tiles  : Vector Tile 8 := Vector.replicate 8 {}
  shapes : Vector (Option ShapeSlot) 32 := Vector.replicate 32 none
  table  : Option DecodeTable := none
  streams : Vector (Option StreamUnit) 4 := Vector.replicate 4 none
  mq     : EngQueue := {}
  cq     : EngQueue := {}
  tree   : TreeUnit := {}
  rx     : Vector (Option RxStream) 8 := Vector.replicate 8 none
  rxSaved : Tab RxStream := []
  deques : Tab (List Record) := []
  onCore : Tab Nat := []
  waiters : List Waiter := []
  lastIssued : Nat := 3
  tried  : List Nat := []
  regRep : Word := 0
  regUe  : Word := 0
  deriving DecidableEq, Repr

end Sys2Proof.Machine
end

