-- ==== Sys2Proof/Machine/HubTypes.lean ====
section
/-! DEFINITION. Machine/HubTypes.lean: the plain data of the parts around the cores: launches and allotments (R100 to R120), contexts
and the host block (R87 to R98, R287), far accesses on their way (R173, R178), translation (R159, R161), clusters and
dies (R162, R171, R361), link ports (R25 to R45), the fabric (R46 to R71), collectives (R72 to R81), the package (R12 to
R24) and the debug block (R300 to R304), and what comes with an event (EvIn). -/
namespace Sys2Proof.Machine

/-! Launches -/

/-- What a launch holds on one used core (R103, R104): TCM offset in 4 KiB units, first physical tile, thread sets. -/
structure CoreAllot where
  core : Nat
  tcm  : Nat
  tile : Nat
  ts   : List Nat
  deriving DecidableEq, Repr

/-- What a launch holds in one used cluster (R103, R104): scratchpad offset in 64 KiB units. -/
structure ClusterAllot where
  cluster : Nat
  spad    : Nat
  deriving DecidableEq, Repr

/-- The state of a phase of an ordered launch in check mode (R85). -/
inductive PhaseState where
  | running
  | unlogged
  | replay
  | replayCheck
  | stopped
  deriving DecidableEq, Repr

/-- A launch from its acceptance on (R100 to R120): `seq` is its acceptance sequence number, `packet` the 32 words,
`next` the next identifier not yet dealt to each cluster, `pools` the dealt items of each cluster's dispatcher as
(first, one past the last); `foldLater` are committed activations (phase, index, stores) some of whose copy entries still
run (R199): an entry stands in the list as its number with no bytes. `phase` is the phase of the latest commit, `phaseOpen` says that
it has not been recorded or compared yet (R85); `phaseRecords` are the core and original record of its commits, `replayRecords`
those still to be replayed. -/
structure Launch where
  seq      : Nat
  ctx      : Nat
  packet   : List Word
  seed     : Word
  kernel   : Bool
  admitted : Bool := false
  cores    : List CoreAllot := []
  clusters : List ClusterAllot := []
  next     : Tab Nat := []
  pools    : Tab (List Nat) := []
  poolRecords : Tab (List Record) := []
  live     : Nat := 0
  imageOff : Nat := 0
  imageLen : Nat := 0
  dirSlot  : Nat := 0
  lwm      : Option (Nat × Nat) := some (0, 0)
  digest   : Tab (BitVec 128) := []
  foldLater : List (Nat × Nat × List (Word × List Byte)) := []
  phase    : Nat := 0
  phaseState : PhaseState := .running
  phaseOpen : Bool := false
  undoPos  : Nat := 0
  replayRecords : List (Nat × Record) := []
  phaseRecords : List (Nat × Record) := []
  stopped  : Bool := false
  debugDrain : Bool := false
  deriving DecidableEq, Repr

/-! Far accesses -/

/-- Operations of atomics (R50, R333, R355). -/
inductive AmoOp where
  | swap | add | and | or | xor | min | max | minu | maxu | cas
  deriving DecidableEq, Repr

/-- Where the value of a far access goes (R127, R128): an x register, extended from `bits` bits, signed or not; a v register;
nowhere. -/
inductive Dest where
  | none
  | x (d : Reg) (bits : Nat) (signed : Bool)
  | v (d : Reg)
  deriving DecidableEq, Repr

/-- A piece of a far access (R175): the first key at its home, its place among the access's bytes, its length, whether it has
been performed, the cause if it failed there (0: none), how far its address lies from the access's where that is not its place (R351, R248),
and at a peer whether its request has left. -/
structure Piece where
  key  : Nat
  pos  : Nat
  len  : Nat
  done : Bool := false
  fail : Nat := 0
  off  : Option Word := none
  sent : Bool := false
  deriving DecidableEq, Repr

/-- What a far access does at its home. -/
inductive FarKind where
  | load
  | store
  | atomic (op : AmoOp) (operand cmp : Word) (sc : Bool)
  | forward (cast : Bool)
  | record
  | message
  deriving DecidableEq, Repr

/-- A far access of a thread set from its issue until it has been performed or has failed, and for a load until its data has been written
(R128, R173, R178). `dev` is 0 for this device and n + 1 for device n; `taint` holds the slots it waits for; `sent` says that a peer
request has left; `acq` marks an ld.acq; `withheld` that an inlet has not taken all of a store (R262); `own` says that whoever sent it
takes the result and reports the failure itself (a unit, or a blocking read); `agent` is the AGENT of its fault record (R288); `job` is
the tag of its request where it is not its context's (R96); `overlay` are bytes taken from the commit buffer (R195); `data` are the bytes
of a store or, once performed, of a load. -/
structure Far where
  id     : Nat
  tid    : Nat
  ctx    : Nat
  kernel : Bool
  wid    : Word
  pc     : Word
  kind   : FarKind
  addr   : Word
  pieces : List Piece
  data   : List Byte
  dest   : Dest
  slot   : Option Nat
  taint  : BitVec 16
  dev    : Nat := 0
  sent   : Bool := false
  tag    : Option (BitVec 16) := none
  performed : Bool := false
  fail   : Nat := 0
  live   : Bool := true
  retired : Bool := false
  acq    : Bool := false
  own    : Bool := false
  withheld : Bool := false
  agent  : Nat := 0
  job    : Option (BitVec 16) := none
  overlay : List (Nat × Byte) := []
  deriving DecidableEq, Repr

/-! Contexts -/

/-- A peer slot (R66). -/
structure PeerSlot where
  dev    : BitVec 15 := 0
  used   : Bool := false
  sticky : Bool := false
  deriving DecidableEq, Repr

/-- Save and restore states of a context (R293). -/
inductive SaveState where
  | running
  | stopping
  | writing
  | saved
  | restoring
  | saveFailed
  deriving DecidableEq, Repr

/-- What a save keeps of a core for the launches of the context (R292): tiles by number, shape slots, table, stream units,
queue entries in the order of their images (running, paused, queued), descent unit. Deques, waiters and pools stay in their
tables, keyed by launch; receive streams stand in the core's `rxSaved`. -/
structure SavedCore where
  core   : Nat
  tiles  : List (Nat × Tile) := []
  shapes : List (Nat × ShapeSlot) := []
  table  : Option DecodeTable := none
  streams : List (Nat × StreamUnit) := []
  tree   : Option TreeUnit := none
  mq     : List Entry := []
  cq     : List Entry := []
  deriving DecidableEq, Repr

/-- The image of a Saved context (R292, R294): thread sets, cores, and the far loads that were abandoned. The bytes of its local
memories stand in the context area. -/
structure SavedCtx where
  threads  : Tab Thread := []
  cores    : List SavedCore := []
  loads    : List Far := []
  deriving DecidableEq, Repr

/-- A fault record that waits for its delivery as an asynchronous trap (R290): its code and its address in the ring. -/
structure PendingFault where
  code : Nat
  addr : Word
  deriving DecidableEq, Repr

/-- A context (R89 to R94, R287, R291, R293, R365): `abandoned` are the far loads that a save has left outstanding; `restoreWanted` that
a restore waits for its offsets, `restoreErr` that the last one failed (R435); `dump` that a dump of it waits
for its save (R306), true if it is to stay Saved. [DESIGN CHOICE, unsafe: log 4] -/
structure Ctx where
  live    : Bool := false
  dberr   : Bool := false
  saveFailed : Bool := false
  status  : Nat := 0
  job     : BitVec 16 := 0
  lqlog   : BitVec 5 := 4
  area    : Word := 0
  alen    : Word := 0
  ptroot  : Word := 0
  lqBase  : Word := 0
  lqHead  : BitVec 32 := 0
  doorbell : BitVec 32 := 0
  apbase  : Word := 0
  frBase  : Word := 0
  frCtl   : Word := 0
  frProd  : BitVec 32 := 0
  frCons  : Word := 0
  frLost  : Word := 0
  crTable : Word := 0
  seed    : Word := 0
  slots   : Vector PeerSlot 64 := Vector.replicate 64 {}
  save    : SaveState := .running
  saves   : Nat := 0
  image   : Option SavedCtx := none
  faults  : List PendingFault := []
  abandoned : List Far := []
  restoreWanted : Bool := false
  restoreErr : Bool := false
  dump    : Option Bool := none
  deriving DecidableEq, Repr

/-! Translation -/

/-- A translation as the TLBs hold it (R156, R159): context, first virtual page (in 64 KiB), its length in such pages, the
physical address, and the rights of bits [7:1] of the leaf entry. -/
structure TlbEntry where
  ctx    : Nat
  vpage  : Nat
  pages  : Nat
  phys   : Nat
  rights : BitVec 8
  deriving DecidableEq, Repr

/-- A walk, or a request that waits for one (R159): who joined it (core numbers). -/
structure Walk where
  ctx   : Nat
  vpage : Nat
  die   : Nat
  cores : List Nat
  tids  : List Nat
  deriving DecidableEq, Repr

/-- A miss that has no place among its core's four translations or its cluster's thirty-two requests (R159). -/
structure Miss where
  tid   : Nat
  core  : Nat
  ctx   : Nat
  vpage : Nat
  deriving DecidableEq, Repr

/-- An invalidation written to XLT_INV (R161): how many of the running walks started before it, and the number from which on accesses
are later than it. -/
structure Inv where
  all   : Bool
  ctx   : Nat
  vpage : Nat
  walks : Nat
  mark  : Nat
  deriving DecidableEq, Repr

/-- The translation caches (R159): entries most recently used first; `walks` and `wait` stand in the order of arrival, and the first
sixty-four walks of a die run. -/
structure Xlt where
  micro   : Tab (List TlbEntry) := []
  cluster : Tab (List TlbEntry) := []
  die     : Tab (List TlbEntry) := []
  walks   : List Walk := []
  wait    : List Miss := []
  failed  : List (Nat × Nat × Nat × Nat) := []
  invs    : List Inv := []
  done    : BitVec 32 := 0
  deriving DecidableEq, Repr

/-! Clusters and dies -/

/-- A barrier (R361): holder context (none: Free), instance, count, phase, arrivals of the round and of the next. -/
structure Barrier where
  holder : Option Nat := none
  inst   : BitVec 16 := 0
  count  : Nat := 0
  phase  : Bool := false
  cur    : Nat := 0
  next   : Nat := 0
  deriving DecidableEq, Repr

/-- A barrier arrival on its way to its unit (R362, R204): the cluster it was sent in, the sender, the identifier. -/
structure BarSent where
  cluster : Nat
  tid    : Nat
  ctx    : Nat
  wid    : Word
  pc     : Word
  id     : Word
  retired : Bool := false
  deriving DecidableEq, Repr

/-- A cluster (R153, R162, R171, R361, R14). `epoch` counts the changes of the bank hash that have taken effect (R153); `full` is
REPLAYFULL, `confl` holds CONFL_b. -/
structure Cluster where
  m1     : BitVec 6 := 0
  m2     : BitVec 6 := 0
  pend   : Option (BitVec 6 × BitVec 6) := none
  epoch  : Nat := 0
  gate   : Word := 0
  off    : Word := 0
  wake   : Word := 0
  xmiss  : Word := 0
  xmerge : Word := 0
  full   : Word := 0
  confl  : Tab Word := []
  barriers : Tab Barrier := []
  icache : Tab (BitVec 16) := []
  temp   : BitVec 16 := 0
  droop  : Nat := 0
  deriving DecidableEq, Repr

/-- A die (R12, R13, R14, R162, R171). -/
structure Die where
  gate   : BitVec 10 := 0
  off    : BitVec 10 := 0
  wake   : BitVec 10 := 0
  walks  : Word := 0
  wmerge : Word := 0
  hbmce  : Word := 0
  hbmue  : Word := 0
  fraction : Nat := 16
  thrcyc : Word := 0
  deriving DecidableEq, Repr

/-- Who has an access in a replay queue (R152, R163): a thread set with its instruction's address, a piece of a far access, an engine or
unit, a packet of a peer, a delivery of a three-party read, a function of the host, or the hub with bytes to store. -/
inductive Requester where
  | thread (tid : Nat) (pc : Word)
  | piece (id : Nat) (j : Nat)
  | unit (tid : Nat)
  | packet (origin : BitVec 16) (tag : Nat)
  | forward (adev : BitVec 16) (atag : Nat) (cdev : BitVec 16)
  | host (fn : Nat)
  | hub (bytes : List Byte)
  deriving DecidableEq, Repr

/-- An access in a replay queue: its bytes by their keys. -/
structure Arrived where
  who : Requester
  key : Nat
  len : Nat
  deriving DecidableEq, Repr

/-! Links -/

/-- States of a port (R37). -/
inductive PortState where
  | training | up | retrain | dark | relock | down
  deriving DecidableEq, Repr

/-- A flit on a channel (R27, R28): the header of a packet, or its data flit number n. -/
inductive Flit where
  | header (p : Packet)
  | data (n : Nat) (p : Packet)
  deriving DecidableEq, Repr

/-- Why a stripe change is sent: a fallback (R36), a park (R38), the end of a wake (R39). -/
inductive StripeWhy where
  | fallback | park | wake
  deriving DecidableEq, Repr

/-- Control flits (R29), with their fields. A stripe change that waits has its purpose; a wake's mask is formed when it is sent. -/
inductive Control where
  | allowance (slots : List Nat)
  | stripe (mask : BitVec 16) (why : StripeWhy)
  | replay (seq : BitVec 16)
  | ack (seq : BitVec 16)
  | mode (nrz : Bool)
  | identity (dev : BitVec 16) (port : Nat) (slots : Nat)
  deriving DecidableEq, Repr

/-- What a port has put on the line, in order (R33): for the outside to carry. Each flit has the mask on which it travels (R34) and
its link sequence number (R27). -/
inductive Sent where
  | flit (mask : BitVec 16) (vc : Nat) (seq : BitVec 16) (f : Flit)
  | control (mask : BitVec 16) (seq : BitVec 16) (c : Control) (stripeSeq : BitVec 8)
  | training
  deriving DecidableEq, Repr

/-- One channel of a port (R31, R32): packets that wait with the input by which each came (0: this device; p + 1: port p), how many flits
of the head have been sent, the allowance, slots freed and
not yet returned, the packets received and not yet forwarded. -/
structure Channel where
  egress : List (Nat × Packet) := []
  sentOfHead : Nat := 0
  allowance : Nat := 0
  freed  : Nat := 0
  ingress : List Packet := []
  held   : Nat := 0
  deriving DecidableEq, Repr

/-- A link port (R25 to R45). `wakeWait` says that a wake's stripe change waits to be sent, `replayRuns` how many requests in a row have
named the flit `replayOf` (R36), `darkSince` the step in which the port entered Dark (R44). -/
structure Port where
  darklim : BitVec 16 := 0x0032
  wakeen  : Bool := false
  idlepark : Bool := false
  en      : Bool := true
  active  : BitVec 16 := 0
  parked  : BitVec 16 := 0
  failed  : BitVec 16 := 0
  cmderr  : Nat := 0
  waking  : Bool := false
  nrz     : Bool := false
  state   : PortState := .training
  keep    : BitVec 16 := 0xFFFF
  wakedepth : BitVec 8 := 0x30
  idle    : BitVec 32 := 0x000186A0
  note    : Word := 0
  peer    : Option (BitVec 16 × BitVec 7 × BitVec 16) := none
  flits   : Vector Word 4 := Vector.replicate 4 0
  stall   : Vector Word 4 := Vector.replicate 4 0
  retries : Word := 0
  fallbacks : Word := 0
  stripes : Word := 0
  wakes   : Word := 0
  darkcyc : Word := 0
  proterr : Word := 0
  chans   : Vector Channel 4 := Vector.replicate 4 {}
  control : List Control := []
  replay  : List (BitVec 16 × Nat × Flit) := []
  resend  : List (BitVec 16 × Nat × Flit) := []
  seq     : BitVec 16 := 0
  rxSeq   : BitVec 16 := 0
  rxBad   : Bool := false
  rxMask  : BitVec 16 := 0
  stripeSeq : BitVec 8 := 0
  rr      : Nat := 0
  announce : Bool := false
  sigLost : Bool := false
  parkWait : Bool := false
  wakeWait : Bool := false
  replayOf : BitVec 16 := 0
  replayRuns : Nat := 0
  darkSince : Option Nat := none
  wakeAfterPark : Bool := false
  newPeer : Bool := false
  drained : Bool := false
  markers : BitVec 4 := 0
  sent    : List Sent := []
  deriving DecidableEq, Repr

/-! Fabric -/

/-- An order stream at the origin (R56, R57): the next number, and the packets not yet acknowledged, oldest first. -/
structure OutStream where
  next  : BitVec 12 := 0
  unacked : List Packet := []
  deriving DecidableEq, Repr

/-- An entry of the order table at the target (R57): the expected number and the packets held in the reorder store. -/
structure InStream where
  expected : BitVec 12
  held : List Packet := []
  deriving DecidableEq, Repr

/-- A request of this device that awaits its response (R64, R65): the packet, the far access that it belongs to (none: given up), its
context, whether it was answered with retry, and whether it may be sent again (R57). -/
structure Request where
  pkt    : Packet
  access : Option Nat
  piece  : Nat := 0
  ctx    : Nat
  retry  : Bool := false
  again  : Bool := false
  deriving DecidableEq, Repr

/-- A delivery of a three-party read at the owner (R67): the next unit; one whose units have all been sent is kept until its tag is used
again. -/
structure Delivery where
  adev   : BitVec 16
  atag   : BitVec 16
  job    : BitVec 16
  ctx    : Nat
  src    : Nat
  dst    : Nat
  cdev   : BitVec 16
  ring   : Nat
  bytes  : Nat
  done   : Nat := 0
  unit   : Nat := 0
  member : Option Nat := none
  deriving DecidableEq, Repr

/-- A delivery as destination C sees it (R67, R68): its ring and destination once a unit has told them, the units written with their
bytes, how many units it has, the unit that failed with its cause, the member index that B has told, whether its record is written. -/
structure Arrival where
  adev : BitVec 16
  atag : BitVec 16
  ring : Option Nat := none
  first : Option Nat := none
  got : Tab Nat := []
  total : Option Nat := none
  fail : Option (Nat × Nat) := none
  member : Option Nat := none
  told : Bool := false
  deriving DecidableEq, Repr

/-- The fabric block and the router (R46 to R71): `router` are packets with their input, `inject` those that wait for injection, `deliver`
those that have arrived for this device, `serve` sequenced ones in the order in which they are to be performed (R57), `forwards` the
accepted three-party reads of this device by tag (R68). -/
structure Fabric where
  id      : BitVec 15 := 0
  adthr   : BitVec 8 := 0x10
  dltime  : BitVec 16 := 0x0064
  peertmo : BitVec 8 := 0x0A
  adapt   : Bool := true
  cur     : Bool := false
  drainPort : BitVec 7 := 0
  dstat   : BitVec 80 := 0
  note    : Word := 0
  geninj  : Vector Word 2 := Vector.replicate 2 0
  genej   : Vector Word 2 := Vector.replicate 2 0
  escmoves : Word := 0
  noroute : Word := 0
  hopdrop : Word := 0
  ordretry : Word := 0
  nonmin  : Word := 0
  groups  : Tab (Word × Word) := []
  members : Tab Word := []
  jobs    : Tab Word := []
  mcast   : Tab (BitVec 16) := []
  lfsr    : BitVec 32 := 0x1D872B41
  out     : List ((BitVec 16 × BitVec 16 × BitVec 4) × OutStream) := []
  order   : List ((BitVec 16 × BitVec 16 × BitVec 4) × InStream) := []
  requests : List Request := []
  router  : List (Nat × Packet) := []
  inject  : List Packet := []
  deliver : List Packet := []
  serve   : List Packet := []
  forwards : Tab Far := []
  deliveries : List Delivery := []
  arrivals : List Arrival := []
  nextTag : BitVec 16 := 0
  deriving DecidableEq, Repr

/-! Collectives -/

/-- One rank of a collective instance on this device (R72 to R80): the copies of block, map and table, the identity of its issuer, the
elements of INBUF once read, those that have arrived by direction and sending rank, the bytes of OUTBUF once known. `phase` is
that of R427; 5 is a rank that is complete while others of its instance are in flight, 7 one that a commit has handed to the
hub and that waits under R72. `log` is 1 while the hash of the tree is to
be written, 2 while that write is on its way (R81); `code` is the cause of a failure. -/
structure CollRank where
  id     : Nat
  collid : BitVec 16
  rank   : Nat
  job    : BitVec 16
  ctx    : Nat
  launch : Nat
  tid    : Nat
  wid    : Word
  pc     : Word
  kernel : Bool
  block  : List Word
  map    : List Nat
  table  : List (List Nat)
  own    : List Nat := []
  got    : List (Nat × Nat × Tab Nat) := []
  out    : Option (List Byte) := none
  phase  : Nat := 0
  log    : Nat := 0
  written : Nat := 0
  code   : Nat := 0
  clash  : Bool := false
  retired : Bool := false
  deriving DecidableEq, Repr

/-! Package, debug -/

/-- Where a device stands between power-up and ready (R15, R21, R22, R305). -/
inductive Power where
  | off
  | stopped (step : Nat)
  | waitImage
  | ready
  | frozen
  deriving DecidableEq, Repr

/-- Thermal states (R15). -/
inductive Thermal where
  | normal | warm | hot
  deriving DecidableEq, Repr

/-- What the device puts out to the host and to the FMC, in order (R15, R19, R22, R94, R305, R306). [DEDUCED, safe: log 119] -/
inductive Output where
  | vector (fn vec : Nat)
  | ready
  | bootFailure (step : Nat) (which : Nat)
  | flashWrite (image : FirmwareImage)
  | counterWrite (value : Nat)
  | warning (on : Bool)
  | trip
  | attestation (report : List Byte) (sig : List Byte)
  | hostRead (data : List Byte)
  | readout (data : List Byte)
  | dump (c : Nat)
  | busy
  | image (dest : Word) (header : List Byte) (body : List (Nat × Byte))
  deriving DecidableEq, Repr

/-- The package: power, boot, identity, monitors, attestation (R12 to R24): `flash` is the FMC's flash and `counter` its monotonic counter,
which outlast the device's power; `window` the bytes that the host has written to the recovery window (R21). -/
structure Package where
  power   : Power := .ready
  boot    : BootInput := {
    romOk := false, rom := [], secret := [], flash := none, stackOk := 0, trainedPorts := [], dieOk := 0, counterOk := false, deviceId := 0 }
  flash   : Flash := {}
  window  : Tab Byte := []
  pwrlim  : Nat := 0
  features : BitVec 32 := 0
  serial  : List Byte := []
  seed    : List Byte := []
  counter : Nat := 0
  slots   : Vector (List Byte) 4 := Vector.replicate 4 []
  signing : Option (BitVec 256) := none
  queue   : List (BitVec 256) := []
  thermal : Thermal := .normal
  temps   : List Int := []
  hubTemp : BitVec 16 := 0
  hubDroop : Nat := 0
  deriving DecidableEq, Repr

/-- The stop that is held (R301). -/
structure DebugStop where
  code : Nat
  tid  : Nat
  mode : Nat
  launch : Nat
  deriving DecidableEq, Repr

/-- The debug block (R300 to R304). -/
structure Debug where
  en      : Bool := false
  mode    : BitVec 2 := 0
  stop    : Option DebugStop := none
  lastCode : Nat := 0
  lastTid : Nat := 0
  view    : BitVec 14 := 0
  sampBase : Word := 0
  sampCtl : Word := 0
  sampPos : Nat := 0
  trcBase : Word := 0
  trcCtl  : Word := 0
  bps     : Vector (Word × Word) 8 := Vector.replicate 8 (0, 0)
  elogBase : Word := 0
  elogCtl : Word := 0
  rplCount : BitVec 32 := 0
  rplFirst : BitVec 31 := 0
  rplRunning : Bool := false
  rplDone : Bool := false
  rplEntries : BitVec 32 := 0
  rplDest : Word := 0
  snapshot : List (Tab (BitVec 32)) := []
  log     : List (BitVec 256 × Word × Word × Nat) := []
  deriving DecidableEq, Repr

/-- States of a Compline run (R89, R96). -/
inductive CplState where
  | idle | quiesce | copy | sealing | hold | resume | restore
  deriving DecidableEq, Repr

/-- What the device knows of the contexts of an image that it has written, by the image's header: their registers, launches, deques,
waiters, receive streams and barriers (R97). -/
structure CplKept where
  header   : List Byte := []
  ctxs     : Tab Ctx := []
  launches : List Launch := []
  deques   : Tab (Tab (List Record)) := []
  waiters  : Tab (List Waiter) := []
  streams  : Tab (Tab RxStream) := []
  barriers : Tab (Tab Barrier) := []
  devBarriers : Tab Barrier := []
  deriving DecidableEq, Repr

/-- The Compline engine (R95 to R98): the contexts that the run has saved, the commands that wait for its end (context, whether it is a
destroy), the header in the making, the memories as copied, the next unit to send to a buddy. -/
structure Cpl where
  state  : CplState := .idle
  cpjob  : BitVec 16 := 0
  hold   : Bool := false
  tier   : Bool := false
  dest   : Word := 0
  status : Nat := 0
  images : BitVec 32 := 0
  held   : List Nat := []
  waiting : List (Nat × Bool) := []
  header : List Byte := []
  body   : List (Nat × Byte) := []
  pos    : Nat := 0
  kept   : List CplKept := []
  deriving DecidableEq, Repr

/-- The counter grid (R45). -/
structure Grid where
  base : Word := 0
  int  : BitVec 32 := 0
  seq  : Word := 0
  skipped : Word := 0
  deriving DecidableEq, Repr

/-- What the outside party (or the unit that keeps the time) supplies with an event. `n`, `k` and `m` are the numbers the event names, in
the order in which the event's meaning says what they are (a port, a context, a cluster, a core, a thread set, a launch, an access ...);
the other fields carry its data: `own` marks what the device goes on with by itself, `kept` is what an image of another device says of its
contexts (R97). A field the event does not use is ignored. -/
structure EvIn where
  n     : Nat := 0
  k     : Nat := 0
  m     : Nat := 0
  word  : Word := 0
  flag  : Bool := false
  pkt   : Packet := { kind := 0, len := 0, dest := 0, origin := 0, job := 0, seq := 0, gen := false, esc := false,
                      hops := 0, body := 0, data := [] }
  bytes : List Byte := []
  image : FirmwareImage := { sideband := false, secver := 0, bytes := [], sig := [] }
  boot  : BootInput := { romOk := false, rom := [], secret := [], flash := none, stackOk := 0, trainedPorts := [], dieOk := 0,
                         counterOk := false, deviceId := 0 }
  readings : MonitorInput := { temps := [], droops := [] }
  own   : Bool := false
  kept  : CplKept := {}
  deriving DecidableEq, Repr

end Sys2Proof.Machine
end

