-- ==== Sys2Proof/Machine/State.lean ====
section
/-! DEFINITION. Machine/State.lean: the state of an AM-3 device, all of it plain data, the reasons a step can stop, and the
state right after Matins (R24). -/
namespace Sys2Proof.Machine

/-- The reasons for which a step of the model ends in a fault. -/
inductive Fault where
  /-- Raised by no instruction of the table: the spec gives every failure an exception, a fault record or a completion
  word (R282, R283), and a device without power is a next state in which nothing acts. Safe. -/
  | stuck
  deriving DecidableEq, Repr

/-- The reasons for which a step of the model refuses an instruction. -/
inductive Refusal where
  /-- Raised by Dispatch.lean alone, for an instruction that has no meaning yet. Safe. -/
  | notModelled (mnemonic : String)
  deriving DecidableEq, Repr

/-- The state of the device. A table (`Tab`) lists what differs from the reset value of its entries. `mem` lists the bytes of
all memories by their key (Memory.lean). The fields under "the model's own" are explained in INVENTORY.md. -/
structure State where
  threads : Tab Thread := []
  cores   : Tab Core := []
  clusters : Tab Cluster := []
  dies    : Tab Die := []
  mem     : List Host.Cell := []
  poison  : List Nat := []
  replay  : List Arrived := []
  far     : List Far := []
  xlt     : Xlt := {}
  launches : List Launch := []
  nextSeq : Nat := 0
  ctxs    : Tab Ctx := []
  devBarriers : Tab Barrier := []
  barSent : List BarSent := []
  ports   : Tab Port := []
  fabric  : Fabric := {}
  coll    : List CollRank := []
  staged  : List Packet := []
  grid    : Grid := {}
  cpl     : Cpl := {}
  pkg     : Package := {}
  dbg     : Debug := {}
  outputs : List Output := []
  posted  : List (Instr × EvIn) := []
  -- the model's own
  cur     : Nat := 0
  ilen    : Nat := 4
  winRun  : Option WinEntry := none
  ev      : EvIn := {}
  pending : List (Instr × EvIn) := []
  steps   : Nat := 0
  freeCount : Nat := 0
  nextId  : Nat := 0
  turn    : Option Nat := none
  wakes   : List Nat := []
  deriving DecidableEq, Repr

/-- The device right after Matins (R24): every SRAM byte, register, taint mask and accumulator element zero, no context. -/
def State.reset : State := {}

end Sys2Proof.Machine
end

