-- ==== Sys2Proof/Machine/Memory.lean ====
section
/-! DEFINITION. Machine/Memory.lean: the bytes of all memories of a device (R146, R150) as one list of cells. The key of a byte of
HBM5 or die SRAM is its physical address (R150); of a TCM or scratchpad byte, its address in the all-TCM or all-scratchpad window
(R147 rows 4 and 5). The ranges are disjoint. A scratchpad whose bank hash has changed e times has its keys 2^48 * e further up
(R153). -/
namespace Sys2Proof.Machine

/-- Base keys of the homes (R147, R150). -/
def tcmBase : Nat := 0xFFF000000000
/-- The first scratchpad key (R147). -/
def spadBase : Nat := 0xFFF100000000
/-- The first address of the register window (R147). -/
def regBase : Nat := 0xFFF200000000
/-- One past the register window. -/
def regEnd : Nat := 0xFFF210000000
/-- Die SRAM of die 0 (R150). -/
def sramBase : Nat := 0x10000000000
/-- Keys of one scratchpad epoch (R153). -/
def epochSpan : Nat := 0x1000000000000

/-- What a byte that nothing has written reads as: zero in SRAM (R24), zero in HBM5 (DESIGN CHOICE, log 5), a free value in a
scratchpad whose bank hash has changed (R153). [DESIGN CHOICE, safe: log 13] -/
def unlisted (k : Nat) : Byte := if k < epochSpan then 0 else Config.spadByte k

/-- The byte at a key. -/
def memGet (m : List Host.Cell) (k : Nat) : Byte :=
  match m with
  | [] => unlisted k
  | (k', b) :: r => if k' = k then b else memGet r k

/-- The memory with the byte at a key written, in canonical form. -/
def memPut (m : List Host.Cell) (k : Nat) (b : Byte) : List Host.Cell :=
  match m with
  | [] => if b = unlisted k then [] else [(k, b)]
  | (k', b') :: r =>
    if k < k' then (if b = unlisted k then (k', b') :: r else (k, b) :: (k', b') :: r)
    else if k = k' then (if b = unlisted k then r else (k, b) :: r)
    else (k', b') :: memPut r k b

/-- The canonical form: keys strictly rising, and no cell that holds what an unlisted key reads as. -/
abbrev Memory.wf (m : List Host.Cell) : Prop :=
  m.Pairwise (fun a b => a.1 < b.1) ∧ ∀ c ∈ m, c.2 ≠ unlisted c.1

/-- n bytes from a key upward. -/
def memGets (m : List Host.Cell) (k n : Nat) : List Byte :=
  match n with
  | 0 => []
  | n + 1 => memGet m k :: memGets m (k + 1) n

/-- Bytes written from a key upward. -/
def memPuts (m : List Host.Cell) (k : Nat) (bs : List Byte) : List Host.Cell :=
  match bs with
  | [] => m
  | b :: r => memPuts (memPut m k b) (k + 1) r

/-- n zero bytes written from a key upward (R105, R162). Where an unlisted byte reads zero the cells are dropped. -/
def memZero (m : List Host.Cell) (k n : Nat) : List Host.Cell :=
  if k + n ≤ epochSpan then m.filter (fun c => !(k ≤ c.1 && c.1 < k + n))
  else memPuts m k (List.replicate n 0)

/-- [a, a + n) cut at the multiples of u: (first, length) of each part, ascending. -/
def cuts (a n u : Nat) : List (Nat × Nat) :=
  (List.range ((a + n + u - 1) / u - a / u)).map (fun i =>
    let lo := if i = 0 then a else (a / u + i) * u
    (lo, min (a + n) ((a / u + i + 1) * u) - lo))

/-- Whether two accesses touch a common 8-byte word (R176). -/
def sameWords (a n b m : Nat) : Bool := a / 8 < (b + m + 7) / 8 && b / 8 < (a + n + 7) / 8

/-- The value of little-endian bytes (R7). -/
def leNat (bs : List Byte) : Nat :=
  match bs with
  | [] => 0
  | b :: r => b.toNat + 256 * leNat r

/-- The low n bytes of a number, lowest first (R7). -/
def natBytes (n v : Nat) : List Byte :=
  match n with
  | 0 => []
  | n + 1 => BitVec.ofNat 8 v :: natBytes n (v / 256)

/-- The first 64-bit word of little-endian bytes. -/
def leWord (bs : List Byte) : Word := BitVec.ofNat 64 (leNat (bs.take 8))

/-- The 64-bit words of little-endian bytes, n of them. -/
def leWords (n : Nat) (bs : List Byte) : List Word :=
  match n with
  | 0 => []
  | n + 1 => leWord bs :: leWords n (bs.drop 8)

/-- The bytes of 64-bit words. -/
def wordsBytes (ws : List Word) : List Byte := ws.flatMap (fun w => natBytes 8 w.toNat)
/-- A word with its bits below n zero. [DEDUCED, unsafe: log 68] -/
def lowClear (v : Word) (n : Nat) : Word := v &&& ~~~(BitVec.ofNat 64 (2 ^ n - 1))
/-- A field of a word. -/
def fieldOf (n : Nat) (v : Word) (lo : Nat) : BitVec n := BitVec.ofNat n (v.toNat / 2 ^ lo)
/-- A truth value as a bit at a place. -/
def bitAt (b : Bool) (i : Nat) : Nat := if b then 2 ^ i else 0
/-- Bytes cut or filled with zeros to n. -/
def fitBytes (n : Nat) (bs : List Byte) : List Byte := bs.take n ++ List.replicate (n - bs.length) 0

/-- Bits hi to lo of a word, as a number: the manual's [hi:lo]. -/
def bitsOf {w : Nat} (x : BitVec w) (hi lo : Nat) : Nat := x.toNat / 2 ^ lo % 2 ^ (hi + 1 - lo)

/-- Bit i of a word. -/
def bitOf {w : Nat} (x : BitVec w) (i : Nat) : Bool := x.toNat / 2 ^ i % 2 == 1

/-- The range of R150 in which a physical address lies: (first, one past the last), or none. -/
def physRange (p : Nat) : Option (Nat × Nat) :=
  if p < 0xC000000000 then some (p / 0x1800000000 * 0x1800000000, p / 0x1800000000 * 0x1800000000 + 0x1800000000)
  else if sramBase ≤ p ∧ p < sramBase + 4 * 0x40000000 then
    let d := (p - sramBase) / 0x40000000
    if (p - sramBase) % 0x40000000 < 0x28000000 then some (sramBase + d * 0x40000000, sramBase + d * 0x40000000 + 0x28000000)
    else none
  else none

/-- Whether n bytes from p lie wholly inside one range of R150. -/
def physOk (p n : Nat) : Bool :=
  match physRange p with
  | some (_, e) => p + n ≤ e
  | none => false

/-- Whether a key is a byte of HBM5. -/
def isHbm (k : Nat) : Bool := k < 0xC000000000
/-- Whether a key is a byte of die SRAM. -/
def isSram (k : Nat) : Bool := sramBase ≤ k && k < sramBase + 0x100000000
/-- Whether a key is a byte of a TCM. -/
def isTcm (k : Nat) : Bool := tcmBase ≤ k && k < tcmBase + 0x20000000
/-- Whether a key is a byte of a scratchpad. -/
def isSpad (k : Nat) : Bool := spadBase ≤ k % epochSpan && k % epochSpan < spadBase + 0x40000000
/-- Whether an address is in the register window. -/
def isReg (k : Nat) : Bool := regBase ≤ k && k < regEnd

/-- The cluster of a global core number (R10). -/
def clusterOfCore (g : Nat) : Nat := g / 16
/-- The die of a global core number (R10). -/
def dieOfCore (g : Nat) : Nat := g / 1024
/-- The core of a thread set number: thread set t of core g has number 4 g + t. -/
def coreOf (tid : Nat) : Nat := tid / 4

/-- The cluster's record. -/
def State.cluster (s : State) (c : Nat) : Cluster := tget s.clusters c {}
/-- The state with a cluster's record replaced. -/
def State.setCluster (s : State) (c : Nat) (v : Cluster) : State := { s with clusters := tset s.clusters c v }
/-- The die's record. -/
def State.die (s : State) (d : Nat) : Die := tget s.dies d {}
/-- The state with a die's record replaced. -/
def State.setDie (s : State) (d : Nat) (v : Die) : State := { s with dies := tset s.dies d v }
/-- The core's record. -/
def State.core (s : State) (g : Nat) : Core := tget s.cores g {}
/-- The state with a core's record replaced. -/
def State.setCore (s : State) (g : Nat) (v : Core) : State := { s with cores := tset s.cores g v }
/-- The context's record. -/
def State.ctx (s : State) (c : Nat) : Ctx := tget s.ctxs c {}
/-- The state with a context's record replaced. -/
def State.setCtx (s : State) (c : Nat) (v : Ctx) : State := { s with ctxs := tset s.ctxs c v }

/-- The key of a scratchpad byte (R147 row 5, R153). -/
def spadKey (s : State) (c off : Nat) : Nat := spadBase + c * 0x400000 + off + (s.cluster c).epoch * epochSpan
/-- The key of a TCM byte (R147 row 4). -/
def tcmKey (g off : Nat) : Nat := tcmBase + g * 0x20000 + off

/-- The bank of a scratchpad offset (R151). -/
def spadBank (c : Cluster) (a : Nat) : Nat :=
  ((a / 8 % 64) ^^^ ((a / 512 % 64) &&& c.m1.toNat)) ^^^ ((a / 32768 % 64) &&& c.m2.toNat)

/-- The unit that a check word protects (R146, R155): its first key and its bytes. -/
def unitOf (k : Nat) : Nat × Nat := if isHbm k then (k / 32 * 32, 32) else (k / 8 * 8, 8)

/-- Whether a key lies in a bank or segment that is off, or that is waking (R162, R163): 0 on, 1 waking, 2 off.
[DESIGN CHOICE, unsafe: log 66] -/
def gateState (s : State) (k : Nat) : Nat :=
  if isSpad k then
    let c := s.cluster ((k % epochSpan - spadBase) / 0x400000)
    let b := spadBank c ((k % epochSpan - spadBase) % 0x400000)
    if bitOf c.wake b then 1 else if bitOf c.off b then 2 else 0
  else if isSram k then
    let d := s.die ((k - sramBase) / 0x40000000)
    let g := (k - sramBase) % 0x40000000 / 0x4000000
    if bitOf d.wake g then 1 else if bitOf d.off g then 2 else 0
  else 0

/-- The keys of an access that a gate or a check word decides on: the first key of each 8-byte word it touches. -/
def wordsOf (k n : Nat) : List Nat := (List.range ((k + n + 7) / 8 - k / 8)).map (fun i => (k / 8 + i) * 8)

/-- Whether an access must wait for a waking bank or segment (R163). [DEDUCED, unsafe: log 24] -/
def homeWaits (s : State) (k n : Nat) : Bool := (wordsOf k n).any (fun w => gateState s w == 1)

/-- The cause with which an access fails at its home, if any: 0x14 for a bank or segment that is off (R163), 0x61 for an
uncorrectable error, which only a store of the whole unit survives (R146). [DESIGN CHOICE, unsafe: log 10] -/
def homeFails (s : State) (k n : Nat) (reads : Bool) : Option Nat :=
  if (wordsOf k n).any (fun w => gateState s w == 2) then some 0x14
  else if (wordsOf k n).any (fun w =>
      s.poison.contains (unitOf w).1 && (reads || !(k ≤ (unitOf w).1 && (unitOf w).1 + (unitOf w).2 ≤ k + n))) then some 0x61
  else none

/-- The thread sets asleep on a 16-byte unit that a write of n bytes at k touches (R358). [DEDUCED, safe: log 110] -/
def wokenBy (s : State) (k n : Nat) : List Nat :=
  let hit := fun (us : List Nat) => us.any (fun u => u < k + n && k < u + 16)
  s.threads.filterMap (fun p =>
    match p.2.run with
    | .sleepWait us => if hit us then some p.1 else none
    | .sleepAny us _ => if hit us then some p.1 else none
    | _ => none)

/-- A write performed at its home: the bytes stand, a unit it covers whole loses its error (R146), the sleepers on its units
are to be woken (R358). -/
def memWrite (s : State) (k : Nat) (bs : List Byte) : State :=
  let n := bs.length
  let covered := fun u => decide (k ≤ u) && decide (u + (unitOf u).2 ≤ k + n)
  { s with
    mem := memPuts s.mem k bs
    poison := s.poison.filter (fun u => !covered u)
    wakes := s.wakes ++ (wokenBy s k n).filter (fun t => !s.wakes.contains t) }

/-- The bytes at a home. -/
def memRead (s : State) (k n : Nat) : List Byte := memGets s.mem k n

end Sys2Proof.Machine
end

