-- ==== Sys2Proof/Machine/LaunchFields.lean ====
section
/-! DEFINITION. Machine/LaunchFields.lean: the fields of a launch packet (R100) and of a continuation record (R108), and the look-ups
from a thread set to its launch, context and allotments (R102 to R104). -/
namespace Sys2Proof.Machine

/-- Word i of a launch packet. -/
def Launch.word (l : Launch) (i : Nat) : Word := l.packet.getD i 0
/-- ORDERED. -/
def Launch.ordered (l : Launch) : Bool := bitOf (l.word 0) 55
/-- SPEC. -/
def Launch.spec (l : Launch) : Bool := bitOf (l.word 0) 54
/-- DMODE. -/
def Launch.dmode (l : Launch) : Nat := bitsOf (l.word 0) 53 52
/-- DEVNEUTRAL. -/
def Launch.devNeutral (l : Launch) : Bool := bitOf (l.word 0) 51
/-- NOTIFY. -/
def Launch.notify (l : Launch) : Bool := bitOf (l.word 0) 50
/-- CALLIN. -/
def Launch.callin (l : Launch) : Bool := bitOf (l.word 0) 49
/-- ENTRY, as an address. -/
def Launch.entry (l : Launch) : Nat := bitsOf (l.word 0) 47 2 * 4
/-- NITEMS. -/
def Launch.nitems (l : Launch) : Nat := (l.word 1).toNat
/-- CRLVL. -/
def Launch.crlvl (l : Launch) : Nat := bitsOf (l.word 2) 59 56
/-- CLVL. -/
def Launch.clvl (l : Launch) : Nat := bitsOf (l.word 2) 55 52
/-- NLEV. -/
def Launch.nlev (l : Launch) : Nat := bitsOf (l.word 2) 50 48
/-- WIDTHi. -/
def Launch.width (l : Launch) (i : Nat) : Nat := bitsOf (l.word 2) (8 * i + 7) (8 * i)
/-- BALINT as written. -/
def Launch.balint (l : Launch) : Nat := bitsOf (l.word 3) 47 32
/-- ACCT. -/
def Launch.acct (l : Launch) : Nat := bitsOf (l.word 3) 28 25
/-- TSETS. -/
def Launch.tsets (l : Launch) : Nat := bitsOf (l.word 3) 24 22
/-- CORES. -/
def Launch.ncores (l : Launch) : Nat := bitsOf (l.word 3) 21 17
/-- CLCOUNT. -/
def Launch.clcount (l : Launch) : Nat := bitsOf (l.word 3) 16 8
/-- CLBASE. -/
def Launch.clbase (l : Launch) : Nat := bitsOf (l.word 3) 7 0
/-- DQTCM. -/
def Launch.dqtcm (l : Launch) : Nat := bitsOf (l.word 4) 43 33
/-- EVSH. -/
def Launch.evsh (l : Launch) : Nat := bitsOf (l.word 4) 32 21
/-- SPU. -/
def Launch.spu (l : Launch) : Nat := bitsOf (l.word 4) 12 6
/-- TCMU. -/
def Launch.tcmu (l : Launch) : Nat := bitsOf (l.word 4) 5 0
/-- DQBASE. -/
def Launch.dqbase (l : Launch) : Nat := bitsOf (l.word 5) 47 6 * 64
/-- DQSRAM. -/
def Launch.dqsram (l : Launch) : Nat := bitsOf (l.word 6) 31 0
/-- PRIO. -/
def Launch.prio (l : Launch) : Nat := bitsOf (l.word 7) 35 32
/-- GRAIN. -/
def Launch.grain (l : Launch) : Nat := bitsOf (l.word 7) 31 0
/-- DTAB. -/
def Launch.dtab (l : Launch) : Word := l.word 12
/-- NPH. -/
def Launch.nph (l : Launch) : Nat := bitsOf (l.word 13) 31 0
/-- DSALT. -/
def Launch.dsalt (l : Launch) : Word := l.word 14
/-- UNDO. -/
def Launch.undo (l : Launch) : Word := l.word 15
/-- UNDOLEN. -/
def Launch.undolen (l : Launch) : Nat := (l.word 16).toNat
/-- DONEADDR. -/
def Launch.doneaddr (l : Launch) : Word := l.word 17

/-- KIND of a record (R108). -/
def Record.kind (r : Record) : Nat := bitsOf r.w0 55 52
/-- PRIO of a record. -/
def Record.prio (r : Record) : Nat := bitsOf r.w0 51 48
/-- ENTRY of a record, as an address. -/
def Record.entry (r : Record) : Word := BitVec.ofNat 64 (bitsOf r.w0 47 2 * 4)
/-- PHASE of a record's timestamp. -/
def Record.phase (r : Record) : Nat := bitsOf r.w2 63 32
/-- INDEX of a record's timestamp. -/
def Record.index (r : Record) : Nat := bitsOf r.w2 31 0
/-- RDEV of a record. -/
def Record.rdev (r : Record) : Nat := bitsOf r.w7 63 48
/-- RCORE of a record. -/
def Record.rcore (r : Record) : Nat := bitsOf r.w7 47 36
/-- RTS of a record. -/
def Record.rts (r : Record) : Nat := bitsOf r.w7 35 32
/-- MBOX of a record. -/
def Record.mbox (r : Record) : Nat := bitsOf r.w7 31 0

/-- The eight words of a record. -/
def Record.words (r : Record) : List Word := [r.w0, r.w1, r.w2, r.w3, r.w4, r.w5, r.w6, r.w7]
/-- A record from its 64 bytes (R108). -/
def recordOf (bs : List Byte) : Record :=
  match leWords 8 bs with
  | [a, b, c, d, e, f, g, h] => { w0 := a, w1 := b, w2 := c, w3 := d, w4 := e, w5 := f, w6 := g, w7 := h }
  | _ => {}

/-- The checks of R108 on a record that a program builds: reserved bits of w0, KIND and, for a call record, RTS and MBOX. -/
def Record.valid (r : Record) : Bool :=
  bitsOf r.w0 63 56 == 0 && bitsOf r.w0 1 0 == 0 && r.kind < 4 && r.rts < 4 &&
  (r.kind != 3 || (r.mbox % 32 == 0 && r.mbox < 0x20000))

/-- The thread set's record. -/
def State.thread (s : State) (tid : Nat) : Thread := tget s.threads tid {}
/-- The state with a thread set's record replaced. -/
def State.setThread (s : State) (tid : Nat) (t : Thread) : State := { s with threads := tset s.threads tid t }
/-- The thread set whose instruction is executed. -/
def State.th (s : State) : Thread := s.thread s.cur
/-- The state with that thread set's record replaced. -/
def State.setTh (s : State) (t : Thread) : State := s.setThread s.cur t

/-- The launch with an acceptance sequence number. -/
def State.launch (s : State) (n : Nat) : Option Launch := s.launches.find? (fun l => l.seq == n)
/-- The state with a launch replaced. -/
def State.setLaunch (s : State) (l : Launch) : State :=
  { s with launches := s.launches.map (fun l' => if l'.seq == l.seq then l else l') }
/-- The launch whose activation a thread set runs. -/
def launchOf (s : State) (tid : Nat) : Option Launch := ((s.thread tid).act).bind (fun a => s.launch a.launch)
/-- The context of a thread set; 0 where it runs nothing. -/
def ctxOf (s : State) (tid : Nat) : Nat := match launchOf s tid with | some l => l.ctx | none => 0
/-- Whether a thread set runs an ordered launch. -/
def inOrdered (s : State) (tid : Nat) : Bool := match launchOf s tid with | some l => l.ordered | none => false
/-- What a launch holds on a core. -/
def Launch.onCore (l : Launch) (g : Nat) : Option CoreAllot := l.cores.find? (fun a => a.core == g)
/-- What a launch holds in a cluster. -/
def Launch.inCluster (l : Launch) (c : Nat) : Option ClusterAllot := l.clusters.find? (fun a => a.cluster == c)
/-- ACCT of a thread set's launch, and its first physical tile on the thread set's core (R132). -/
def tilesOf (s : State) (tid : Nat) : Nat × Nat :=
  match launchOf s tid with
  | some l => (l.acct, match l.onCore (coreOf tid) with | some a => a.tile | none => 0)
  | none => (0, 0)

/-- The own-TCM allotment of a launch on a core: first byte in the TCM, bytes a program may touch (R104: without the TCM
deque tier). -/
def tcmAllot (l : Launch) (g : Nat) : Option (Nat × Nat) :=
  (l.onCore g).map (fun a => (a.tcm * 4096, l.tcmu * 4096 - l.dqtcm * 64))
/-- The scratchpad allotment of a launch in a cluster. -/
def spadAllot (l : Launch) (c : Nat) : Option (Nat × Nat) :=
  (l.inCluster c).map (fun a => (a.spad * 65536, l.spu * 65536))

/-! ## The image of a launch in its context area (R292) -/

/-- The bytes of one used core's part. -/
def Launch.corePart (l : Launch) : Nat := 16384 + 65536 + 4096 * (l.tsets + l.acct + l.tcmu) + 4096 * ((l.evsh + 1023) / 1024)
/-- The bytes of one used cluster's part. -/
def Launch.clusterPart (l : Launch) : Nat := 4096 + l.spu * 65536
/-- The bytes of the image. -/
def Launch.imageSize (l : Launch) : Nat := 16384 + l.clcount * l.clusterPart + l.clcount * l.ncores * l.corePart
/-- The offset in the image of the part of a cluster. -/
def Launch.clusterOff (l : Launch) (c : Nat) : Nat := 16384 + (c - l.clbase) * l.clusterPart
/-- The offset in the image of the part of a core. -/
def Launch.coreOff (l : Launch) (g : Nat) : Nat :=
  16384 + l.clcount * l.clusterPart + ((g / 16 - l.clbase) * l.ncores + g % 16) * l.corePart
/-- The first key of a context's area. -/
def areaBase (x : Ctx) : Nat := bitsOf x.area 47 16 * 65536
/-- The first key of a launch's image: CTX_AREA is device-physical (R89, R90). -/
def imageBase (s : State) (l : Launch) : Nat := areaBase (s.ctx l.ctx) + l.imageOff
/-- Whether a launch's context is Saved (R293). -/
def launchSaved (s : State) (l : Launch) : Bool := (s.ctx l.ctx).image.isSome
/-- Whether a launch holds its allotments: not while its context is Saved (R293). -/
def Launch.holds (l : Launch) (s : State) : Bool :=
  l.admitted && (!launchSaved s l || (s.ctx l.ctx).save == .restoring)
/-- The key of byte o of a launch's TCM allotment on a core: in the image while the context is Saved (R293). -/
def tcmByte (s : State) (l : Launch) (g b o : Nat) : Nat :=
  if launchSaved s l then imageBase s l + l.coreOff g + 81920 + 4096 * (l.tsets + l.acct) + o else tcmKey g (b + o)
/-- The key of byte o of a launch's scratchpad allotment in a cluster. -/
def spadByteKey (s : State) (l : Launch) (c b o : Nat) : Nat :=
  if launchSaved s l then imageBase s l + l.clusterOff c + 4096 + o else spadKey s c (b + o)

/-- The clusters that a launch uses. -/
def Launch.useClusters (l : Launch) : List Nat := (List.range l.clcount).map (fun i => l.clbase + i)
/-- The first part of a launch's image: admission, live count, for each cluster the next item and the lengths of its pools, and the call
records in the pools. [DESIGN CHOICE, unsafe: log 53] -/
def launchPart (l : Launch) : List Byte :=
  let cs := l.useClusters
  fitBytes 0x100 (natBytes 8 (if l.admitted then 1 else 0) ++ natBytes 8 l.live) ++
  fitBytes 0x2000 (cs.flatMap (fun c => natBytes 8 c ++ natBytes 8 (tget l.next c 0) ++ natBytes 8 (tget l.pools c []).length ++
    natBytes 8 (tget l.poolRecords c []).length)) ++
  fitBytes 0x1F00 (cs.flatMap (fun c => (tget l.poolRecords c []).flatMap (fun r => wordsBytes r.words)))
/-- The launch's own part written, and the items of its pools to its clusters' blocks. [DESIGN CHOICE, unsafe: log 53] -/
def imageLaunch (s : State) (l : Launch) : State :=
  l.useClusters.foldl (fun s c => memWrite s (imageBase s l + l.clusterOff c) (fitBytes 0x1000 ((tget l.pools c []).flatMap (natBytes 8))))
    (memWrite s (imageBase s l) (launchPart l))
/-- The part of a launch of a Saved context brought up to date (R124). -/
def refreshLaunch (s : State) (seq : Nat) : State :=
  match s.launch seq with
  | some l => if launchSaved s l then imageLaunch s l else s
  | none => s

/-- Whether a byte of an all-TCM or all-scratchpad window lies inside the allotment of a resident launch of a context (R149), below the
deque tier at the top of its TCM (R104). -/
def windowByte (s : State) (ctx k : Nat) : Bool :=
  s.launches.any (fun l => l.admitted && !launchSaved s l && l.ctx == ctx &&
    (match (if isTcm k then tcmAllot l ((k - tcmBase) / 0x20000) else spadAllot l ((k % epochSpan - spadBase) / 0x400000)) with
     | some (b, len) =>
       let o := if isTcm k then (k - tcmBase) % 0x20000 else (k % epochSpan - spadBase) % 0x400000
       decide (b ≤ o) && decide (o < b + len)
     | none => false))
/-- Whether every byte of a range of one of the windows does: allotments begin and end at multiples of 64 bytes. -/
def windowAllowed (s : State) (ctx k n : Nat) : Bool := (cuts k n 64).all (fun p => windowByte s ctx p.1)

end Sys2Proof.Machine
end

