-- ==== Sys2Proof/Machine/Translate.lean ====
section
/-! DEFINITION. Machine/Translate.lean: translation (R156 to R161) and the decoding of an address (R147, R48). -/
namespace Sys2Proof.Machine

/-! Rights: bits of a leaf entry (R156). -/
/-- RD. -/
def rightRD : Nat := 1
/-- WR. -/
def rightWR : Nat := 2
/-- EX. -/
def rightEX : Nat := 3
/-- PRD. -/
def rightPRD : Nat := 4
/-- PWR. -/
def rightPWR : Nat := 5
/-- FSRC. -/
def rightFSRC : Nat := 6
/-- FDST. -/
def rightFDST : Nat := 7

/-- One level of a walk (R156, R157): the entry at a table address; `page` is the size of a leaf here, `table` that of the next
table (0 at the last level). -/
def walkLevel (s : State) (addr page table : Nat) : Except Nat (Bool × Nat × BitVec 8) :=
  match homeFails s addr 8 true with
  | some c => .error c
  | none =>
    let e := leWord (memRead s addr 8)
    let a := bitsOf e 47 8 * 256
    if !bitOf e 63 || bitsOf e 61 48 != 0 || bitOf e 0 then .error 0x10
    else if bitOf e 62 then
      if a % page == 0 && physOk a page then .ok (true, a, BitVec.ofNat 8 e.toNat) else .error 0x10
    else if table == 0 || bitsOf e 7 1 != 0 then .error 0x10
    else if a % table == 0 && physOk a table then .ok (false, a, 0) else .error 0x10

/-- The table addresses that a walk of a virtual address reads, as far as it comes. -/
def walkPath (s : State) (c : Nat) (va : Nat) : List Nat :=
  let a0 := bitsOf (s.ctx c).ptroot 47 21 * 0x200000 + va / 0x40000000 % 0x40000 * 8
  match walkLevel s a0 0x40000000 4096 with
  | .ok (false, t1, _) =>
    let a1 := t1 + va / 0x200000 % 512 * 8
    (match walkLevel s a1 0x200000 256 with
     | .ok (false, t2, _) => [a0, a1, t2 + va / 0x10000 % 32 * 8]
     | _ => [a0, a1])
  | _ => [a0]
/-- A walk of a context's tables for a virtual address (R156, R157). The cause is 0x10 where R157 says it fails. -/
def walkTables (s : State) (c : Nat) (va : Nat) : Except Nat TlbEntry :=
  let root := bitsOf (s.ctx c).ptroot 47 21 * 0x200000
  if !physOk root 0x200000 then .error 0x10
  else do
    let (leaf0, a0, r0) ← walkLevel s (root + va / 0x40000000 % 0x40000 * 8) 0x40000000 4096
    if leaf0 then .ok { ctx := c, vpage := va / 0x40000000 * 0x4000, pages := 0x4000, phys := a0, rights := r0 }
    else
      let (leaf1, a1, r1) ← walkLevel s (a0 + va / 0x200000 % 512 * 8) 0x200000 256
      if leaf1 then .ok { ctx := c, vpage := va / 0x200000 * 32, pages := 32, phys := a1, rights := r1 }
      else
        let (_, a2, r2) ← walkLevel s (a1 + va / 0x10000 % 32 * 8) 0x10000 0
        .ok { ctx := c, vpage := va / 0x10000, pages := 1, phys := a2, rights := r2 }

/-- Whether a TLB entry maps a page of a context. -/
def TlbEntry.maps (e : TlbEntry) (c vpage : Nat) : Bool := e.ctx == c && e.vpage ≤ vpage && vpage < e.vpage + e.pages

/-- The physical address of a virtual address under an entry. -/
def TlbEntry.physOf (e : TlbEntry) (va : Nat) : Nat := e.phys + (va - e.vpage * 0x10000)

/-- Keep at most `ways` entries of each set, the most recently used first (R159, R160). -/
def trimSets (ways sets : Nat) (l : List TlbEntry) : List TlbEntry :=
  l.foldl (fun acc e => if (acc.filter (fun x => x.vpage % sets == e.vpage % sets)).length < ways then acc ++ [e] else acc) []

/-- An entry put in front of a TLB level, in place of an entry that maps the same page. -/
def tlbInsert (ways sets : Nat) (l : List TlbEntry) (e : TlbEntry) : List TlbEntry :=
  trimSets ways sets (e :: l.filter (fun x => !(x.maps e.ctx e.vpage || e.maps x.ctx x.vpage)))

/-- The state with an entry in the micro-TLB of a core (32 entries, fully associative). -/
def fillMicro (s : State) (g : Nat) (e : TlbEntry) : State :=
  { s with xlt := { s.xlt with micro := tset s.xlt.micro g (tlbInsert 32 1 (tget s.xlt.micro g []) e) } }
/-- The state with an entry in a cluster TLB (1,024 entries, 8 ways). -/
def fillCluster (s : State) (c : Nat) (e : TlbEntry) : State :=
  { s with xlt := { s.xlt with cluster := tset s.xlt.cluster c (tlbInsert 8 128 (tget s.xlt.cluster c []) e) } }
/-- The state with an entry in a die TLB (16,384 entries, 16 ways). -/
def fillDie (s : State) (d : Nat) (e : TlbEntry) : State :=
  { s with xlt := { s.xlt with die := tset s.xlt.die d (tlbInsert 16 1024 (tget s.xlt.die d []) e) } }

/-- The answer of a translation that a thread set asks for: an entry, a failure, or a walk that is still running. -/
inductive Xlated where
  | hit (s : State) (e : TlbEntry)
  | fail (s : State) (code : Nat)
  | miss (s : State)

/-- A look-up in the three levels for a core, filling the lower ones (R159). -/
def tlbLookup (s : State) (g c vpage : Nat) : Option (State × TlbEntry) :=
  match (tget s.xlt.micro g []).find? (fun e => e.maps c vpage) with
  | some e => some (fillMicro s g e, e)
  | none =>
    match (tget s.xlt.cluster (clusterOfCore g) []).find? (fun e => e.maps c vpage) with
    | some e => some (fillMicro (fillCluster s (clusterOfCore g) e) g e, e)
    | none =>
      match (tget s.xlt.die (dieOfCore g) []).find? (fun e => e.maps c vpage) with
      | some e =>
        let cl := s.cluster (clusterOfCore g)
        let s := s.setCluster (clusterOfCore g) { cl with xmiss := cl.xmiss + 1 }
        some (fillMicro (fillCluster (fillDie s (dieOfCore g) e) (clusterOfCore g) e) g e, e)
      | none => none

/-- The walks that a core waits for. -/
def coreWalks (s : State) (g : Nat) : List Walk := s.xlt.walks.filter (fun w => w.die == dieOfCore g && w.cores.contains g)
/-- The walks that a core's cluster has requested. -/
def clusterWalks (s : State) (g : Nat) : List Walk :=
  s.xlt.walks.filter (fun w => w.die == dieOfCore g && w.cores.any (fun g' => clusterOfCore g' == clusterOfCore g))
/-- Whether a core has fewer than 4 translations outstanding (R159). -/
def corePlace (s : State) (g : Nat) : Bool := decide ((coreWalks s g).length < 4)
/-- Whether a miss joins a request for its page: its core's, or, with a place of the core, its cluster's (R159). -/
def missJoins (s : State) (g c vpage : Nat) : Bool :=
  let page := fun (w : Walk) => w.ctx == c && w.vpage == vpage
  (coreWalks s g).any page || (corePlace s g && (clusterWalks s g).any page)
/-- Whether a miss has a place (R159): it joins a request, or its core has a place and its cluster one of its 32. -/
def missFits (s : State) (g c vpage : Nat) : Bool :=
  missJoins s g c vpage || (corePlace s g && decide ((clusterWalks s g).length < 32))
/-- Whether a miss that takes a place must wait behind others: of its core, or of its cluster for the cluster's places. -/
def missBehind (s : State) (g : Nat) : Bool :=
  s.xlt.wait.any (fun m => m.core == g || (clusterOfCore m.core == clusterOfCore g && corePlace s m.core))
/-- A miss that has a place joins a request of its core, of its cluster or a walk, or asks for a walk (R159), with the counters of R171. -/
def joinWalk (s : State) (tid g c vpage : Nat) : State :=
  let cl := clusterOfCore g; let d := dieOfCore g
  let mine := fun (w : Walk) => w.ctx == c && w.vpage == vpage && w.die == d
  let bump := fun (s : State) (f : Cluster → Cluster) => s.setCluster cl (f (s.cluster cl))
  match s.xlt.walks.find? mine with
  | some w =>
    if w.tids.contains tid then s
    else
      let s := { s with xlt := { s.xlt with walks := s.xlt.walks.map (fun w' =>
        if mine w' then { w' with tids := w'.tids ++ [tid], cores := if w'.cores.contains g then w'.cores else w'.cores ++ [g] } else w') } }
      if w.cores.contains g then s
      else if w.cores.any (fun g' => clusterOfCore g' == cl) then bump s (fun k => { k with xmerge := k.xmerge + 1 })
      else
        let s := bump s (fun k => { k with xmiss := k.xmiss + 1 })
        s.setDie d { s.die d with wmerge := (s.die d).wmerge + 1 }
  | none =>
    let s := { s with xlt := { s.xlt with walks := s.xlt.walks ++ [{ ctx := c, vpage := vpage, die := d, cores := [g], tids := [tid] }] } }
    let s := bump s (fun k => { k with xmiss := k.xmiss + 1 })
    if (s.xlt.walks.filter (fun w => w.die == d)).length ≤ 64 then s.setDie d { s.die d with walks := (s.die d).walks + 1 } else s
/-- A miss on a core: it joins, or waits for a place in the order of arrival. -/
def missed (s : State) (tid g c vpage : Nat) : State :=
  if s.xlt.wait.any (fun m => m.tid == tid) then s
  else if missJoins s g c vpage || (missFits s g c vpage && !missBehind s g) then joinWalk s tid g c vpage
  else { s with xlt := { s.xlt with wait := s.xlt.wait ++ [{ tid := tid, core := g, ctx := c, vpage := vpage }] } }
/-- Misses that wait take the places that have become free, in order: one whose page has meanwhile been filled hits and waits no more. -/
def admitMisses (l : List Miss) (s : State) : State :=
  match l with
  | [] => s
  | m :: r =>
    let left := fun (s : State) => { s with xlt := { s.xlt with wait := s.xlt.wait.erase m } }
    admitMisses r (match tlbLookup s m.core m.ctx m.vpage with
      | some (s, _) => left s
      | none => if missFits s m.core m.ctx m.vpage then joinWalk (left s) m.tid m.core m.ctx m.vpage else s)
/-- What a thread set or unit has asked of the TLBs forgotten: its access has been given up (R160). -/
def forgetMisses (s : State) (tid : Nat) : State :=
  { s with xlt := { s.xlt with
      failed := s.xlt.failed.filter (fun f => f.1 != tid), wait := s.xlt.wait.filter (fun m => m.tid != tid)
      walks := s.xlt.walks.map (fun (w : Walk) => { w with tids := w.tids.filter (fun t => t != tid) }) } }
/-- Whether a thread set waits for a translation (R159). -/
def xltWaits (s : State) (tid : Nat) : Bool := s.xlt.wait.any (fun m => m.tid == tid) || s.xlt.walks.any (fun w => w.tids.contains tid)

/-- The translation of a virtual address for a thread set, an engine or a unit, by the TLBs of a core (R159, R160): it waits for a walk, and
takes a walk's failure at the access that joined it. [DEDUCED, unsafe: log 114] -/
def xlateOn (s : State) (tid g c va : Nat) : Xlated :=
  let vpage := va / 0x10000
  match s.xlt.failed.find? (fun f => f.1 == tid && f.2.1 == c && f.2.2.1 == vpage) with
  | some f => .fail { s with xlt := { s.xlt with failed := s.xlt.failed.filter (fun x => !(x.1 == tid)) } } f.2.2.2
  | none =>
    match tlbLookup s g c vpage with
    | some (s, e) => .hit s e
    | none => .miss (missed s tid g c vpage)
/-- As `xlateOn`, for a thread set. -/
def xlateThread (s : State) (tid c va : Nat) : Xlated := xlateOn s tid (coreOf tid) c va

/-- The targets of R147. -/
inductive Target where
  | peer (dev : Nat) (va : Nat)
  | ownTcm (off : Nat)
  | ownSpad (off : Nat)
  | window (key : Nat)
  | register (addr : Nat)
  | translated (va : Nat)
  | nowhere
  deriving DecidableEq, Repr

/-- The device field of an address (R48). -/
def deviceField (a : Word) : Nat := a.toNat / 0x1000000000000
/-- Bits [47:0] of an address. -/
def addr48 (a : Word) : Nat := a.toNat % 0x1000000000000

/-- The decoding of an address by R147 and R48: the first row that matches. -/
def decodeAddr (s : State) (a : Word) : Target :=
  let df := deviceField a; let x := addr48 a
  if 0x8000 < df then .nowhere
  else if df != 0 && df != s.fabric.id.toNat + 1 then (if x < 0xFFF000000000 then .peer (df - 1) x else .nowhere)
  else if 0xFFFFFFFE0000 ≤ x then .ownTcm (x - 0xFFFFFFFE0000)
  else if 0xFFFFFF800000 ≤ x ∧ x ≤ 0xFFFFFFBFFFFF then .ownSpad (x - 0xFFFFFF800000)
  else if tcmBase ≤ x ∧ x < tcmBase + 0x20000000 then .window x
  else if spadBase ≤ x ∧ x < spadBase + 0x40000000 then .window x
  else if isReg x then .register x
  else if 0xFFF000000000 ≤ x then .nowhere
  else .translated x

/-! The bank hash of a scratchpad (R151, R153). -/

/-- Whether a launch is resident in a cluster: it holds its allotments there. -/
def clusterUsed (s : State) (c : Nat) : Bool := s.launches.any (fun l => l.holds s && (l.inCluster c).isSome)
/-- Masks written take effect: what the scratchpad holds is not defined from then on. -/
def applyHash (s : State) (c : Nat) (m : BitVec 6 × BitVec 6) : State :=
  let k := s.cluster c
  s.setCluster c { k with m1 := m.1, m2 := m.2, pend := none, epoch := if k.m1 = m.1 ∧ k.m2 = m.2 then k.epoch else k.epoch + 1 }
/-- Pending masks take effect in the clusters that no launch uses any more (R153). -/
def settleHash (s : State) (cs : List Nat) : State :=
  cs.foldl (fun s c => match (s.cluster c).pend with
    | some m => if clusterUsed s c then s else applyHash s c m
    | none => s) s

/-- The key behind a window address: a scratchpad whose bank hash has changed has its own keys (R153). -/
def windowKey (s : State) (x : Nat) : Nat :=
  if isSpad x then spadKey s ((x - spadBase) / 0x400000) ((x - spadBase) % 0x400000) else x

/-- The key ranges behind n bytes of a window: scratchpads of two clusters may have changed their hash at different times. -/
def windowKeys (s : State) (x n : Nat) : List (Nat × Nat) :=
  if isSpad x then (cuts x n 0x400000).map (fun p => (windowKey s p.1, p.2)) else [(x, n)]

/-- The class of an access is local when its address lies in the own-TCM or own-scratchpad window (R147, R148). -/
def isLocalAddr (s : State) (a : Word) : Bool :=
  match decodeAddr s a with
  | .ownTcm _ | .ownSpad _ => true
  | _ => false

/-- The key of n bytes of a thread set's own TCM or scratchpad window, or cause 0x11 beyond the allotment (R104). -/
def localKey (s : State) (tid : Nat) (a : Word) (n : Nat) : Except Nat Nat :=
  match launchOf s tid with
  | none => .error 0x11
  | some l =>
    match decodeAddr s a with
    | .ownTcm o =>
      match tcmAllot l (coreOf tid) with
      | some (b, len) => if o + n ≤ len then .ok (tcmKey (coreOf tid) (b + o)) else .error 0x11
      | none => .error 0x11
    | .ownSpad o =>
      match spadAllot l (clusterOfCore (coreOf tid)) with
      | some (b, len) => if o + n ≤ len then .ok (spadKey s (clusterOfCore (coreOf tid)) (b + o)) else .error 0x11
      | none => .error 0x11
    | _ => .error 0x11

/-- The key of n bytes of an own window of a launch on a core, or 0x11 (R104): in the image while the context is Saved. -/
def launchKey (s : State) (l : Launch) (g : Nat) (a : Word) (n : Nat) : Except Nat Nat :=
  match decodeAddr s a with
  | .ownTcm o =>
    match tcmAllot l g with
    | some (b, len) => if o + n ≤ len then .ok (tcmByte s l g b o) else .error 0x11
    | none => .error 0x11
  | .ownSpad o =>
    match spadAllot l (clusterOfCore g) with
    | some (b, len) => if o + n ≤ len then .ok (spadByteKey s l (clusterOfCore g) b o) else .error 0x11
    | none => .error 0x11
  | _ => .error 0x11

/-- Whether an address lies in the own-TCM or own-scratchpad window of an allotment and n bytes from it fit (R337, R359). -/
def inOwnAllot (s : State) (tid : Nat) (a : Word) (n : Nat) : Bool :=
  match localKey s tid a n with
  | .ok _ => true
  | .error _ => false

end Sys2Proof.Machine
end

