-- ==== Sys2Proof/Machine/Faults.lean ====
section
/-! DEFINITION. Machine/Faults.lean: accesses that agents of the device make at once (R158, R287), registered inlets (R248), vectors
(R94), fault records (R287 to R290) and peer slots (R66). -/
namespace Sys2Proof.Machine

/-- The keys of n bytes at a virtual address of a context, page by page, for an agent that walks without a TLB: the first failing
page gives its cause and address. [DEDUCED, unsafe: log 63] -/
def hubKeys (s : State) (c va n : Nat) (rights : List Nat) : Except (Nat × Nat) (List (Nat × Nat)) :=
  (cuts va n 0x10000).mapM (fun p =>
    match walkTables s c p.1 with
    | .error k => .error (k, p.1)
    | .ok e => if rights.all (fun r => bitOf e.rights r) then .ok (e.physOf p.1, p.2) else .error (0x11, p.1))

/-- Bytes put at a list of (key, length), one part after the other. -/
def putKeys (s : State) (ks : List (Nat × Nat)) (bs : List Byte) : State :=
  match ks with
  | [] => s
  | (k, n) :: r => putKeys (memWrite s k (bs.take n)) r (bs.drop n)

/-! ## Replay queues (R152, R163) -/

/-- Whether an access in a replay queue is still to be performed: an access that has been given up is passed over.
[DEDUCED, unsafe: log 24] -/
def Requester.live (s : State) (r : Requester) : Bool :=
  match r with
  | .thread tid pc =>
    let t := s.thread tid
    t.run == .running && !t.stopHeld && (s.ctx (ctxOf s tid)).save == .running && (t.pc == pc || t.window.any (fun e => e.pc == pc))
  | .piece id j => s.far.any (fun f => f.id == id && !f.performed && f.fail == 0 && (f.pieces[j]?).any (fun p => !p.done))
  | .unit tid =>
    let c := s.core ((tid - 0x4000) / 8)
    if 0x400000 ≤ tid then s.coll.any (fun c => c.id + 0x400000 == tid && decide (c.phase ≤ 4))
    else if tid % 8 = 0 then c.mq.running.isSome else if tid % 8 = 1 then c.cq.running.isSome else false
  | .packet o tag =>
    s.ctxs.all (fun p => p.2.save == .running || p.2.save == .saved || p.2.save == .saveFailed) &&
    (s.fabric.serve ++ s.fabric.deliver).any (fun p => p.origin == o && bitsOf p.body 362 347 == tag)
  | .forward a t c => s.fabric.deliveries.any (fun d => d.adev == a && d.atag.toNat == t && d.cdev == c && decide (d.done < d.bytes))
  | .host c => s.posted.any (fun p => p.1 == .bar2Access && p.2.n == c)
  | .hub _ => true
/-- Whether some key ranges share an 8-byte word with an access in a queue. -/
def Arrived.meets (a : Arrived) (ks : List (Nat × Nat)) : Bool := ks.any (fun k => sameWords a.key a.len k.1 k.2)
/-- The hub's stores at the front of their words' queues performed. -/
def flushHub (l before : List Arrived) (s : State) : State :=
  match l with
  | [] => s
  | a :: r =>
    match a.who with
    | .hub bs =>
      if homeWaits s a.key a.len || before.any (fun b => b.meets [(a.key, a.len)]) then flushHub r (before ++ [a]) s
      else flushHub r before { memWrite s a.key bs with replay := s.replay.erase a }
    | _ => flushHub r (before ++ [a]) s
/-- Accesses that have been given up leave their queues, and the hub's stores that stand in front are performed. -/
def settleReplay (s : State) : State :=
  if s.replay.isEmpty then s
  else
    let l := s.replay.filter (fun a => a.who.live s)
    flushHub l [] { s with replay := l }
/-- Whether an access still waits at one of some key ranges. -/
def queuedOn (s : State) (ks : List (Nat × Nat)) : Bool := s.replay.any (fun a => a.who.live s && a.meets ks)
/-- Whether an access to some key ranges must wait at their homes: a bank or segment is waking, or an access that arrived before it is
still to be performed on one of its words (R152, R163). -/
def mustQueue (s : State) (who : Requester) (ks : List (Nat × Nat)) : Bool :=
  ks.any (fun k => homeWaits s k.1 k.2) ||
  ((s.replay.filter (fun a => a.who.live s)).takeWhile (fun a => !(a.who == who && a.meets ks))).any (fun a => a.who != who && a.meets ks)
/-- The words of an access that enter the replay queues of scratchpad banks, counted (R152, R171). -/
def countConflicts (s : State) (k n : Nat) : State :=
  (wordsOf k n).foldl (fun s w =>
    if isSpad w then
      let c := (w % epochSpan - spadBase) / 0x400000
      let b := spadBank (s.cluster c) ((w % epochSpan - spadBase) % 0x400000)
      s.setCluster c { s.cluster c with confl := tset (s.cluster c).confl b (tget (s.cluster c).confl b 0 + 1) }
    else s) s
/-- The access in its queue, behind what has arrived before. -/
def queueUp (s : State) (who : Requester) (ks : List (Nat × Nat)) : State :=
  let l := s.replay.filter (fun a => a.who.live s)
  if l.any (fun a => a.who == who && a.meets ks) then { s with replay := l }
  else ks.foldl (fun s k => countConflicts s k.1 k.2) { s with replay := l ++ ks.map (fun k => { who := who, key := k.1, len := k.2 }) }
/-- An access arrives at its home, or is tried again there: whether it waits. One that does not wait leaves its queue. -/
def arrive (s : State) (who : Requester) (ks : List (Nat × Nat)) : State × Bool :=
  if s.replay.isEmpty && !ks.any (fun k => homeWaits s k.1 k.2) then (s, false)
  else
    let s := settleReplay s
    if mustQueue s who ks then (queueUp s who ks, true)
    else
      let l := s.replay.filter (fun a => !(a.who == who && a.meets ks))
      (flushHub l [] { s with replay := l }, false)
/-- A store of the hub at some keys: it waits where another access waits before it, and nobody else looks before the wake has ended. -/
def hubStore (s : State) (ks : List (Nat × Nat)) (bs : List Byte) : State :=
  if queuedOn s ks then
    { s with replay := s.replay ++ (ks.foldl (fun (acc : List Arrived × List Byte) k =>
        (acc.1 ++ [{ who := .hub (acc.2.take k.2), key := k.1, len := k.2 }], acc.2.drop k.2)) ([], bs)).1 }
  else putKeys s ks bs
/-- Whether a walk for n bytes of a context must wait for a waking segment that holds a table (R156, R163). -/
def tablesWait (s : State) (c va n : Nat) : Bool :=
  (cuts (va % 2 ^ 48) n 0x10000).any (fun p => (walkPath s c p.1).any (fun a => homeWaits s a 8 || queuedOn s [(a, 8)]))

/-! ## Accesses of the hub -/

/-- The bytes at a list of (key, length), or the cause with which the read fails at a home (R146, R163). -/
def readKeys (s : State) (ks : List (Nat × Nat)) : Except Nat (List Byte) :=
  match ks.findSome? (fun p => homeFails s p.1 p.2 true) with
  | some c => .error c
  | none => .ok (ks.flatMap (fun p => memRead s p.1 p.2))

/-- A write of bytes at a list of (key, length): nothing is written where a part fails at its home. -/
def writeKeys (s : State) (ks : List (Nat × Nat)) (bs : List Byte) : Except Nat State :=
  match ks.findSome? (fun p => homeFails s p.1 p.2 false) with
  | some c => .error c
  | none => .ok (putKeys s ks bs)

/-- An uncorrectable error of HBM5 counted (R155). -/
def countUe (s : State) (ks : List (Nat × Nat)) (code : Nat) : State :=
  match ks.find? (fun k => code == 0x61 && isHbm k.1 && homeFails s k.1 k.2 true == some 0x61) with
  | some (k, _) => s.setDie (k / 0x3000000000) { s.die (k / 0x3000000000) with hbmue := (s.die (k / 0x3000000000)).hbmue + 1 }
  | none => s

/-- INLET of a receive stream (R250). -/
def RxStream.inlet (r : RxStream) : Word := r.block.getD 4 0

/-- Whether a stream's inlet covers a virtual address of a context (R248): INLET may carry this device's own field (R48). -/
def RxStream.covers (r : RxStream) (s : State) (c va : Nat) : Bool :=
  r.ctx == c && (deviceField r.inlet == 0 || deviceField r.inlet == s.fabric.id.toNat + 1) &&
  decide (addr48 r.inlet ≤ va) && decide (va < addr48 r.inlet + 4096)
/-- The core and stream whose registered inlet covers a virtual address of a context. -/
def inletAt (s : State) (c va : Nat) : Option (Nat × Nat) :=
  s.cores.findSome? (fun p =>
    (List.range 8).findSome? (fun i =>
      match p.2.rx.toList.getD i none with
      | some r => if r.covers s c va then some (p.1, i) else none
      | none => none) |>.or
    ((p.2.rxSaved.find? (fun x => x.2.covers s c va)).map (fun x => (p.1, x.1))))

/-- A write by a hub agent of a context in translated space (R287, R120, R365): a device field that names another device, a window
or an inlet makes it fail. -/
def hubWrite (s : State) (c : Nat) (a : Word) (bs : List Byte) : Except Nat State :=
  match decodeAddr s a with
  | .translated va =>
    match inletAt s c va with
    | some _ => .error 0x11
    | none =>
      match hubKeys s c va bs.length [rightWR] with
      | .error (k, _) => .error k
      | .ok ks =>
        match ks.findSome? (fun p => homeFails s p.1 p.2 false) with
        | some k => .error k
        | none => .ok (hubStore s ks bs)
  | _ => .error 0x10

/-- Where a read by a hub agent of a context lies: in translated space, or inside an allotment of the context through the all-TCM or
all-scratchpad window (R149). -/
def hubPlace (s : State) (c : Nat) (a : Word) (n : Nat) : Except Nat (List (Nat × Nat)) :=
  match decodeAddr s a with
  | .translated va =>
    if (inletAt s c va).isSome then .error 0x11
    else (match hubKeys s c va n [rightRD] with | .error (k, _) => .error k | .ok ks => .ok ks)
  | .window x => if windowAllowed s c x n then .ok (windowKeys s x n) else .error 0x11
  | .ownTcm _ | .ownSpad _ | .register _ => .error 0x11
  | _ => .error 0x10
/-- Whether it has to wait for a waking home, or for an access that waits there (R163). -/
def hubWaits (s : State) (c : Nat) (a : Word) (n : Nat) : Bool :=
  tablesWait s c (addr48 a) n ||
  (match hubPlace s c a n with
   | .ok ks => ks.any (fun k => homeWaits s k.1 k.2) || queuedOn s ks
   | .error _ => false)
/-- A read by a hub agent of a context. -/
def hubRead (s : State) (c : Nat) (a : Word) (n : Nat) : Except Nat (List Byte) :=
  match hubPlace s c a n with
  | .error k => .error k
  | .ok ks => readKeys s ks

/-- An uncorrectable error that a hub agent's access has met, in a table or at its home, counted (R155). -/
def hubUe (s : State) (c : Nat) (a : Word) (n code : Nat) : State :=
  countUe s ((cuts (addr48 a) n 0x10000).flatMap (fun p => (walkPath s c p.1).map (fun k => (k, 8))) ++
    (match hubPlace s c a n with | .ok ks => ks | .error _ => [])) code

/-- A vector of a function is raised (R94). -/
def raiseVector (s : State) (fn vec : Nat) : State := { s with outputs := s.outputs ++ [.vector fn vec] }

/-- What a fault record says (R288). `tid` none sets NOTS. -/
structure FaultInfo where
  dev     : Nat
  tid     : Option Nat := none
  unit    : Nat := 0
  retired : Bool := false
  agent   : Nat
  code    : Nat
  addr    : Word := 0
  wid     : Word := 0
  opc     : Nat := 0
  detail  : Nat := 0
  pc      : Word := 0
  ext     : List Byte := []
  deriving DecidableEq, Repr

/-- The 32 bytes of a fault record (R288). -/
def FaultInfo.bytes (f : FaultInfo) : List Byte :=
  let core := match f.tid with | some t => coreOf t | none => 0
  let ts := match f.tid with | some t => t % 4 | none => 0
  let w0 := f.dev % 0x8000 * 2 ^ 48 + core * 2 ^ 36 + ts * 2 ^ 32 + f.unit % 0x4000 * 2 ^ 16 +
    (if f.ext.isEmpty then 0 else 2 ^ 15) + (if f.retired then 2 ^ 14 else 0) + (if f.tid.isNone then 2 ^ 13 else 0) +
    f.agent % 16 * 2 ^ 8 + f.code % 128
  natBytes 8 w0 ++ natBytes 8 f.addr.toNat ++ natBytes 8 f.wid.toNat ++
    natBytes 8 (f.opc % 256 * 2 ^ 56 + f.detail % 256 * 2 ^ 48 + addr48 f.pc)

/-- 2^FRLOG (R287). -/
def ringSize (k : Nat) : Nat := if 4 ≤ k && k ≤ 16 then 2 ^ k else 16

/-- The address of record n of a context's fault ring. -/
def ringSlot (x : Ctx) (n : Nat) : Word := x.frBase + BitVec.ofNat 64 (32 * (n % ringSize (bitsOf x.frCtl 4 0)))

/-- A fault record placed in a context's ring by the rules of R289 (a context that is not live has none); a record with RETIRED waits for
its delivery (R290). -/
def writeFault (s : State) (c : Nat) (f : FaultInfo) : State :=
  let x := s.ctx c
  let need := if f.ext.isEmpty then 1 else 2
  let used := (x.frProd.toNat + 0x100000000 - x.frCons.toNat % 0x100000000) % 0x100000000
  let lost := fun (_ : Unit) => raiseVector (s.setCtx c { x with frLost := x.frLost + 1 }) c 0
  if !x.live then s
  else if x.frBase = 0 || ringSize (bitsOf x.frCtl 4 0) < used + need then lost ()
  else
    let parts := if f.ext.isEmpty then [f.bytes] else [f.bytes, f.ext]
    let put := parts.foldl (fun (acc : Except Nat (State × Nat)) b =>
      match acc with
      | .error k => .error k
      | .ok (s', n) => match hubWrite s' c (ringSlot x n) b with | .error k => .error k | .ok s'' => .ok (s'', n + 1))
      (.ok (s, x.frProd.toNat))
    match put with
    | .error k =>
      let s' := hubUe s c (ringSlot x x.frProd.toNat) (32 * need) k
      raiseVector (s'.setCtx c { s'.ctx c with frLost := (s'.ctx c).frLost + 1 }) c 0
    | .ok (s', _) =>
      let x' := s'.ctx c
      let pend := if f.retired then [{ code := f.code, addr := ringSlot x x.frProd.toNat : PendingFault }] else []
      let s' := s'.setCtx c { x' with frProd := x'.frProd + BitVec.ofNat 32 need, faults := x'.faults ++ pend }
      if used = 0 then raiseVector s' c 0 else s'

/-- The device id of this device. -/
def ownId (s : State) : Nat := s.fabric.id.toNat

/-- The peer slot of a device in a context, taken at the first access (R66): the state and the slot's number. -/
def takePeerSlot (s : State) (c dev : Nat) : State × Nat :=
  let x := s.ctx c
  match (List.range 63).find? (fun i => (x.slots.toList.getD i {}).used && (x.slots.toList.getD i {}).dev.toNat == dev) with
  | some i => (s, i)
  | none =>
    match (List.range 63).find? (fun i => !(x.slots.toList.getD i {}).used) with
    | some i => (s.setCtx c { x with slots := x.slots.setIfInBounds i { dev := BitVec.ofNat 15 dev, used := true } }, i)
    | none =>
      let p := x.slots.toList.getD 63 {}
      (s.setCtx c { x with slots := x.slots.setIfInBounds 63 { p with used := true } }, 63)

/-- The sticky bit of a device's peer slot set (R65). -/
def setSticky (s : State) (c dev : Nat) : State :=
  let (s, i) := takePeerSlot s c dev
  let x := s.ctx c
  s.setCtx c { x with slots := x.slots.setIfInBounds i { x.slots.toList.getD i {} with used := true, sticky := true } }

/-- The bitmap of sticky bits of a context (R187). -/
def stickyMap (s : State) (c : Nat) : Word :=
  BitVec.ofNat 64 ((List.range 64).foldl (fun n i => if ((s.ctx c).slots.toList.getD i {}).sticky then n + 2 ^ i else n) 0)

end Sys2Proof.Machine
end

