-- ==== Sys2Proof/Machine/Ops.lean ====
section
/-! DEFINITION. Machine/Ops.lean: the named operations of the core over registers, masks and the window (R125 to R131), taking a trap and
the freeze (R284, R286), the return (R433), stream operands (R139, R385), and the frames in which every instruction is executed:
`issueD` (may be deferred, R129), `issueN` (never deferred, R130), `issueB` (branches, R331). -/
namespace Sys2Proof.Machine

/-! ## Registers and masks -/

/-- A thread set's x register: x0 reads zero (R125). -/
def Thread.getX (t : Thread) (r : Reg) : Word := if r = 0 then 0 else t.x.get r.toFin
/-- A thread set's v register. -/
def Thread.getV (t : Thread) (r : Reg) : VWord := t.v.get r.toFin
/-- The masks of an x register: those of x0 are zero (R125). -/
def Thread.maskX (t : Thread) (r : Reg) : Mask := if r = 0 then {} else t.xm.get r.toFin
/-- The masks of a v register. -/
def Thread.maskV (t : Thread) (r : Reg) : Mask := t.vm.get r.toFin
/-- A write of an x register with its masks: x0 discards it (R125). An error of the register is gone (R298). -/
def Thread.putX (t : Thread) (r : Reg) (v : Word) (m : Mask) : Thread :=
  if r = 0 then t
  else { t with x := t.x.set r.toNat v r.isLt, xm := t.xm.set r.toNat m r.isLt, bad := t.bad &&& ~~~(BitVec.twoPow 64 r.toNat) }
/-- A write of a v register with its masks. -/
def Thread.putV (t : Thread) (r : Reg) (v : VWord) (m : Mask) : Thread :=
  { t with v := t.v.set r.toNat v r.isLt, vm := t.vm.set r.toNat m r.isLt, bad := t.bad &&& ~~~(BitVec.twoPow 64 (32 + r.toNat)) }

/-- The x register of the thread set whose instruction is executed. -/
def rdX (s : State) (r : Reg) : Word := s.th.getX r
/-- The v register of that thread set. -/
def rdV (s : State) (r : Reg) : VWord := s.th.getV r
/-- Its x register written. -/
def wrX (s : State) (m : Mask) (r : Reg) (v : Word) : State := s.setTh (s.th.putX r v m)
/-- Its v register written. -/
def wrV (s : State) (m : Mask) (r : Reg) (v : VWord) : State := s.setTh (s.th.putV r v m)

/-- The OR of two pairs of masks (R127). -/
def Mask.or (a b : Mask) : Mask := { d := a.d ||| b.d, j := a.j ||| b.j }
/-- The taint: DMASK OR JMASK (R127). -/
def Mask.taint (m : Mask) : BitVec 16 := m.d ||| m.j
/-- The mask without some bits. -/
def Mask.clear (m : Mask) (b : BitVec 16) : Mask := { d := m.d &&& ~~~b, j := m.j &&& ~~~b }
/-- The bit of a far-load slot. -/
def slotBit (i : Nat) : BitVec 16 := BitVec.ofNat 16 (2 ^ i)
/-- A slot's bit gone from every mask of the thread set, those captured in the window included (R127, R357). -/
def Thread.clearBit (t : Thread) (b : BitVec 16) : Thread :=
  { t with
    xm := t.xm.map (fun m => m.clear b)
    vm := t.vm.map (fun m => m.clear b)
    window := t.window.map (fun e => { e with mask := e.mask.clear b, dmask := e.dmask.clear b }) }
/-- The bits of the slots that are outstanding (R128). -/
def Thread.outstanding (t : Thread) : BitVec 16 :=
  (List.range 16).foldl (fun b i => match t.slots.toList.getD i .free with | .free => b | _ => b ||| slotBit i) 0

/-- The core of the executing thread set. -/
def State.myCore (s : State) : Nat := coreOf s.cur
/-- That core's record. -/
def State.co (s : State) : Core := s.core s.myCore
/-- The state with that core's record replaced. -/
def State.setCo (s : State) (c : Core) : State := s.setCore s.myCore c
/-- The cluster of the executing thread set. -/
def State.myCluster (s : State) : Nat := clusterOfCore s.myCore
/-- The context of the executing thread set. -/
def State.myCtx (s : State) : Nat := ctxOf s s.cur
/-- The address of the instruction that executes, in its turn or from the window. -/
def State.pcNow (s : State) : Word := match s.winRun with | some e => e.pc | none => s.th.pc

/-- The mode of the instruction that executes: from the window, that of its issue. -/
def State.kernelNow (s : State) : Bool := match s.winRun with | some e => e.kernel | none => s.th.kernel

/-- A fresh number of an access, walk or queue entry. [DESIGN CHOICE, safe: log 7] -/
def freshId (s : State) : State × Nat := ({ s with nextId := s.nextId + 1 }, s.nextId)
/-- A free value of 64 bits. -/
def freshWord (s : State) : State × Word := ({ s with freeCount := s.freeCount + 1 }, Config.freeWord s.freeCount)
/-- A free choice. -/
def freshBit (s : State) : State × Bool := ({ s with freeCount := s.freeCount + 1 }, Config.freeBit s.freeCount)

/-- 32 free bytes. -/
def freshBytes (s : State) : State × List Byte :=
  (List.range 4).foldl (fun (acc : State × List Byte) _ => let (s, w) := freshWord acc.1; (s, acc.2 ++ natBytes 8 w.toNat)) (s, [])

/-! ## Pending registers and deferral -/

/-- The window entries that an instruction defers behind: in the handler not those that its trap, or an earlier one, holds (R131, R433). -/
def Thread.entries (t : Thread) : List WinEntry := t.window.filter (fun e => e.held == 0 || !t.kernel || decide (t.tdepth < e.held))
/-- Whether an entry does not wait for an older one: after a deferred trap for none that is held, and where it was issued in the handler for
none that was held then (R131). -/
def passesHeld (t : Thread) (e o : WinEntry) : Bool := o.held != 0 && (t.defTrap.isSome || (e.kernel && decide (o.held ≤ e.depth)))
/-- The older entries that an entry of the window waits for. -/
def Thread.olderOf (t : Thread) (e : WinEntry) : List WinEntry := (t.window.takeWhile (fun x => x != e)).filter (fun o => !passesHeld t e o)

/-- Whether an outstanding far access is still to write an x register (R129). -/
def farPendX (s : State) (tid : Nat) (r : Reg) : Bool :=
  s.far.any (fun f => f.tid == tid && f.live && (match f.dest with | .x d _ _ => d == r | _ => false))
/-- Whether an outstanding far access is still to write a v register. -/
def farPendV (s : State) (tid : Nat) (r : Reg) : Bool :=
  s.far.any (fun f => f.tid == tid && f.live && (match f.dest with | .v d => d == r | _ => false))

/-- Whether one of some x registers and one of others are the same, x0 apart. -/
def meetX (a b : List Reg) : Bool := a.any (fun r => r != 0 && b.contains r)
/-- Whether one of some v registers and one of others are the same. -/
def meetV (a b : List Reg) : Bool := a.any (fun r => b.contains r)

/-- Whether an instruction's registers, stream bindings, tiles, draws or queue entries conflict with an older entry's (R129, R384, R369,
R386, R216). -/
def conflicts (u o : Use) : Bool :=
  if u.late then meetX u.wx o.wx || meetV u.wv o.wv
  else
  meetX (u.rx ++ u.wx) o.wx || meetX u.wx o.rx || meetV (u.rv ++ u.wv) o.wv || meetV u.wv o.rv ||
  meetV (u.rv ++ u.wv ++ u.uv) o.uv || meetV u.uv (o.rv ++ o.wv) ||
  ((u.rt ||| u.wt) &&& o.wt) != 0 || (u.wt &&& o.rt) != 0 || (u.draws && o.draws) || (u.queue && o.queue)

/-- The homes that n bytes at an address reach (R176): the key ranges behind it. -/
def homesOf (s : State) (a : Word) (n : Nat) : List (Nat × Nat) :=
  match decodeAddr s a with
  | .ownTcm _ | .ownSpad _ => (match localKey s s.cur a n with | .ok k => [(k, n)] | .error _ => [])
  | .window x => windowKeys s x n
  | .register x => [(x, n)]
  | .translated va => (cuts va n 0x10000).filterMap (fun p =>
      match walkTables s s.myCtx p.1 with | .ok e => some (e.physOf p.1, p.2) | .error _ => none)
  | .peer d va => [(2 ^ 64 * (d + 1) + va, n)]
  | .nowhere => []
/-- Whether two accesses touch a common 8-byte word of a home (R176). -/
def sameHomes (s : State) (a : Word) (n : Nat) (b : Word) (m : Nat) : Bool :=
  (homesOf s a n).any (fun p => (homesOf s b m).any (fun q => sameWords p.1 p.2 q.1 q.2))

/-- The stream unit i bound to the executing thread set (R139). -/
def boundUnit (s : State) (i : Nat) : Option StreamUnit :=
  match s.co.streams.toList.getD i none with
  | some u => if u.bound && u.owner == s.cur then some u else none
  | none => none
/-- Whether a v register is a bound read stream. -/
def isReadStream (s : State) (r : Reg) : Bool :=
  match boundUnit s r.toNat with | some u => !u.write | none => false
/-- The address of an element of a stream's pattern (R383). -/
def StreamUnit.addr (u : StreamUnit) (e : Nat) : Word :=
  let c0 := u.count.getD 0 1; let c1 := u.count.getD 1 1
  u.base + BitVec.ofInt 64 ((e % c0 : Nat) * u.stride.getD 0 0 + (e / c0 % c1 : Nat) * u.stride.getD 1 0 + (e / c0 / c1 : Nat) * u.stride.getD 2 0)
/-- The number of elements of a stream. -/
def StreamUnit.total (u : StreamUnit) : Nat := u.count.getD 0 1 * u.count.getD 1 1 * u.count.getD 2 1
/-- The elements that far loads on their way will store (R385): a write stream's next one, while its register awaits data. -/
def pendStores (s : State) : List Word :=
  (List.range 4).filterMap (fun i =>
    match boundUnit s i with
    | some u => if u.write && farPendV s s.cur (BitVec.ofNat 5 i) then some (u.addr u.pos) else none
    | none => none)
/-- The addresses of the elements that an instruction's writes of bound write streams store (R385): behind those of older writers. -/
def streamStores (s : State) (wv : List Reg) : List Word :=
  wv.eraseDups.filterMap (fun r =>
    match boundUnit s r.toNat with
    | some u =>
      let e := u.pos + (s.th.window.filter (fun o => o.use.wv.contains r && !o.use.sw.isEmpty)).length + (if farPendV s s.cur r then 1 else 0)
      if u.write && decide (e < u.total) then some (u.addr e) else none
    | none => none)
/-- A use with the bound read streams it reads counted as written, and the elements of the write streams it writes (R385). -/
def streamUse (s : State) (u : Use) : Use :=
  { u with wv := u.wv ++ u.rv.filter (fun r => isReadStream s r), sw := streamStores s u.wv }

/-- Whether an access's address register is still to be written, by a far load or by an older entry (R180). -/
def addrPends (s : State) (older : List WinEntry) (m : MemUse) : Bool :=
  (m.base != 0 && farPendX s s.cur m.base) || older.any (fun o => meetX [m.base] o.use.wx)
/-- Whether an access of the entries of a list meets a condition, which is told the entries up to its own and whether its address is
pending; `older` are the entries before the list's head. -/
def anyAccess (s : State) (older l : List WinEntry) (f : List WinEntry → MemUse → Bool → Bool) : Bool :=
  match l with
  | [] => false
  | e :: r => e.use.accesses.any (fun m => f (older ++ [e]) m (addrPends s older m)) || anyAccess s (older ++ [e]) r f
/-- The address of an access as its register stands. -/
def useAddr (s : State) (m : MemUse) : Word := rdX s m.base + m.off
/-- Whether an access is held by the accesses of older entries, or by stream elements on their way (R180, R185, R353, R385). -/
def memHeld (s : State) (l : List WinEntry) (mu : MemUse) : Bool :=
  anyAccess s [] l (fun upto em pend =>
    if em.order == .mark then mu.store && (mu.wide || addrPends s upto mu || isLocalAddr s (useAddr s mu))
    else em.order != .arrive &&
    (em.order == .acquire || em.order == .total || pend || addrPends s upto mu || em.wide || mu.wide ||
     sameHomes s (useAddr s em) em.size (useAddr s mu) mu.size)) ||
  (pendStores s).any (fun a => mu.wide || addrPends s l mu || sameHomes s a 16 (useAddr s mu) mu.size)

/-- Whether an earlier ld.acq of the thread set still awaits its data (R353). -/
def acquireOut (s : State) : Bool := s.far.any (fun f => f.tid == s.cur && f.live && f.acq)

/-- Whether a far access has been performed or has failed. -/
def Far.over (f : Far) : Bool := f.performed || f.fail != 0 || !f.live

/-- The die of a key (R10, R150). [DESIGN CHOICE, unsafe: log 65] -/
def dieOfKey (k : Nat) : Nat :=
  if isHbm k then k / 0x3000000000
  else if isSram k then (k - sramBase) / 0x40000000
  else if isTcm k then (k - tcmBase) / 0x20000 / 1024
  else (k % epochSpan - spadBase) / 0x400000 / 64
/-- Whether a home lies in a scope (R174): 0 thread and 1 core, 2 cluster, 3 die, 4 device, 5 job. -/
def inScope (g scope dev k : Nat) : Bool :=
  if scope = 5 then true
  else if dev != 0 then false
  else
    match scope with
    | 4 => true
    | 3 => !isReg k && dieOfKey k == dieOfCore g
    | 2 => (isTcm k && (k - tcmBase) / 0x20000 / 16 == clusterOfCore g) || (isSpad k && (k % epochSpan - spadBase) / 0x400000 == clusterOfCore g)
    | _ => isTcm k && (k - tcmBase) / 0x20000 == g
/-- Whether an ordering access waits for earlier accesses to a home (R186, R189, R203): sd.rel for all, bar.arrive for those in its
barrier's scope, amo.sc for those on the device of its word. [DEDUCED, safe: log 20] -/
def MemUse.covers (s : State) (m : MemUse) (dev k : Nat) : Bool :=
  match m.order with
  | .release => true
  | .arrive => inScope s.myCore (if bitOf (useAddr s m) 15 then 4 else 2) dev k
  | .total => dev == (match decodeAddr s (useAddr s m) with | .peer d _ => d + 1 | _ => 0)
  | _ => false
/-- Whether some n bytes at an address lie at a home that an ordering access covers; an address that leads nowhere is to be found out
first. -/
def MemUse.coversAt (s : State) (m : MemUse) (a : Word) (n : Nat) : Bool :=
  (homesOf s a n).isEmpty || (homesOf s a n).any (fun k => m.covers s (k.1 / 2 ^ 64) (k.1 % 2 ^ 64))
/-- Whether an ordering access must wait in the window: some earlier access that it covers has not been performed (R186, R189, R203). -/
def releaseHeld (s : State) (l : List WinEntry) (m : MemUse) : Bool :=
  s.far.any (fun f => f.tid == s.cur && !f.over && f.pieces.any (fun p => !p.done && m.covers s f.dev p.key)) ||
  anyAccess s [] l (fun _ em pend => em.order != .arrive && em.order != .mark && (pend || em.wide || m.coversAt s (useAddr s em) em.size)) ||
  (pendStores s).any (fun a => m.coversAt s a 16)
/-- Whether an access of an instruction cannot be performed before the entries of a list (R180, R186, R353). -/
def accessHeld (s : State) (l : List WinEntry) (m : MemUse) : Bool :=
  (m.order != .arrive && m.order != .mark && (acquireOut s || memHeld s l m)) ||
  ((m.order == .release || m.order == .arrive || m.order == .total) && releaseHeld s l m)
/-- Whether an earlier local-class store is still to be performed (R192): one in the window, or a stream's element on its way. -/
def localStoreHeld (s : State) (l : List WinEntry) : Bool :=
  anyAccess s [] l (fun _ em pend => em.store && (em.order == .mark || pend || em.wide || isLocalAddr s (useAddr s em))) || !(pendStores s).isEmpty

/-- Whether an instruction with this use cannot execute before the entries of a list (R129, R180, R186, R192, R353). -/
def blockedBy (s : State) (l : List WinEntry) (u : Use) : Bool :=
  u.rx.any (fun r => r != 0 && farPendX s s.cur r) || u.rv.any (fun r => farPendV s s.cur r) ||
  (!u.late && (u.wx.any (fun r => r != 0 && farPendX s s.cur r) || u.wv.any (fun r => farPendV s s.cur r))) ||
  u.uv.any (fun r => farPendV s s.cur r) ||
  l.any (fun o => conflicts u o.use) || u.accesses.any (fun m => accessHeld s l m) || (u.afterStores && localStoreHeld s l)

/-- The masks an instruction gives to what it writes (R127): those of all it reads, a read stream apart, and for a load those of
the data of deferred stores to its word (R180). -/
def useMask (s : State) (u : Use) : Mask :=
  let t := s.th
  let m := u.rx.foldl (fun m r => m.or (t.maskX r)) {}
  let m := u.rv.foldl (fun m r => if isReadStream s r then m else m.or (t.maskV r)) m
  match u.mem with
  | some mu =>
    if mu.store && !mu.wide then m
    else t.entries.foldl (fun m e =>
      let m := match e.use.mem with
        | some em => if em.store && (mu.wide || em.wide || sameHomes s (useAddr s em) em.size (useAddr s mu) mu.size) then m.or e.dmask else m
        | none => m
      if e.use.sw.any (fun a => mu.wide || sameHomes s a 16 (useAddr s mu) mu.size) then m.or e.mask else m) m
  | none => m

/-- The masks of the registers that hold a store's data (R180). -/
def dataMask (s : State) (u : Use) : Mask :=
  match u.mem with
  | some mu => mu.dv.foldl (fun m r => m.or (s.th.maskV r)) (mu.dx.foldl (fun m r => m.or (s.th.maskX r)) {})
  | none => {}

/-! ## Following -/

/-- Whether an outstanding far access of a thread set touches an 8-byte word of a key range (R176). -/
def farTouches (s : State) (tid k n : Nat) : Bool :=
  s.far.any (fun f => f.tid == tid && !f.over && f.pieces.any (fun p => !p.done && sameWords p.key p.len k n))

/-- Every follower of a leader detaches (R123): it goes on by its own fetch. -/
def detachFollowers (s : State) (leader : Nat) : State :=
  if s.threads.any (fun p => match p.2.fol with | some f => f.leader == leader | none => false) then
    { s with threads := tmap s.threads (fun _ (t : Thread) =>
        match t.fol with
        | some f => if f.leader == leader then { t with fol := if f.queue.isEmpty then none else some { f with detach := true } } else t
        | none => t) }
  else s

/-- An issued instruction is broadcast to the leader's followers (R122). -/
def tellFollowers (s : State) (b : Broadcast) : State :=
  if s.threads.any (fun p => match p.2.fol with | some f => f.leader == s.cur | none => false) then
    { s with threads := tmap s.threads (fun _ (t : Thread) =>
        match t.fol with
        | some f => if f.leader == s.cur && !f.detach then { t with fol := some { f with queue := f.queue ++ [b] } } else t
        | none => t) }
  else s

/-! ## Issue -/

/-- Why an instruction's effect does not go through: a trap (cause, faulting address), or a wait, after which it is executed again
from its start. The state is that which the stop leaves. -/
inductive Stop where
  | trap (s : State) (code : Nat) (faddr : Word)
  | wait (s : State)

/-- An effect: the state after it, or a stop. -/
abbrev Eff := Except Stop State

/-- A precise trap that changes nothing else. [DEDUCED, unsafe: log 93] -/
def trapE {α : Type} (s : State) (code : Nat) (faddr : Word := 0) : Except Stop α := .error (.trap s code faddr)
/-- The instruction waits. -/
def waitE {α : Type} (s : State) : Except Stop α := .error (.wait s)

/-- The position after an instruction of a repetition body (R140): the next address and the repetition state. -/
def repNext (r : Rep) (pc : Word) (len : Nat) : Word × Option Rep :=
  if r.pos + 1 < r.n then (pc + BitVec.ofNat 64 len, some { r with pos := r.pos + 1 })
  else if r.pass + 1 < r.passes then (r.start, some { r with pos := 0, pass := r.pass + 1 })
  else (pc + BitVec.ofNat 64 len, none)

/-- An instruction as its body holds it, before it was staggered (R140). -/
def unstaggered (t : Thread) (i : Instr) : Instr :=
  match t.rep with
  | some r => if r.depth = 0 then (match tfind r.buf r.pos with | some (_, _, i') => i' | none => i) else i
  | none => i
/-- The issue of an instruction: the PC goes on, to a target or in sequence (R140), and the followers are told (R122). -/
def issued (s : State) (i : Instr) (target : Option Word := none) : State :=
  let t := s.th
  let n : Word × Option Rep :=
    match target with
    | some a => (a, t.rep)
    | none =>
      match t.rep with
      | none => (t.pc + BitVec.ofNat 64 s.ilen, none)
      | some r => if r.depth = 0 then repNext r t.pc s.ilen else (t.pc + BitVec.ofNat 64 s.ilen, some r)
  tellFollowers (s.setTh { t with pc := n.1, rep := n.2, noMatch := false, hold := false }) { pc := t.pc, len := s.ilen, instr := unstaggered t i, next := n.1 }

/-- The count of executed instructions (INSTRET, R144). -/
def counted (s : State) : State := s.setTh { s.th with instret := s.th.instret + 1 }

/-- Whether a log entry marks the place of stores that are not known yet (R83). -/
def isMark (id : Nat) (p : Word × List Byte) : Bool := p.2.isEmpty && p.1.toNat == id
/-- The place of a deferred instruction in the store log of an ordered activation. -/
def logPlace (s : State) : State × Option Nat :=
  if inOrdered s s.cur then
    let (s, id) := freshId s
    (s.setTh { s.th with act := s.th.act.map (fun (a : Activation) => { a with log := a.log ++ [(BitVec.ofNat 64 id, [])] }) }, some id)
  else (s, none)
/-- An instruction enters the deferred window (R129). -/
def enterWindow (s : State) (i : Instr) (u : Use) : State :=
  let (s, mark) := logPlace s
  let e : WinEntry := {
    instr := i, pc := s.th.pc, len := s.ilen, use := u, mask := useMask s u, dmask := dataMask s u, kernel := s.th.kernel, depth := s.th.tdepth, mark := mark }
  let m := if u.noMask then {} else e.mask
  let t := s.th
  let t := u.wx.foldl (fun (t : Thread) r => if r = 0 then t else { t with xm := t.xm.set r.toNat m r.isLt }) t
  let t := u.wv.foldl (fun (t : Thread) r => { t with vm := t.vm.set r.toNat m r.isLt }) t
  s.setTh { t with window := t.window ++ [e] }

/-! ## Streams (R138, R139) -/

/-- The core's stream unit i replaced. -/
def setUnit (s : State) (i : Nat) (u : Option StreamUnit) : State :=
  s.setCo { s.co with streams := s.co.streams.setIfInBounds i u }
/-- A stream moved past an element: its binding ends after the last (R139). -/
def stepUnit (s : State) (i : Nat) (u : StreamUnit) : State :=
  setUnit s i (if u.pos + 1 < u.total then some { u with pos := u.pos + 1, ahead := u.ahead.drop 1 } else none)
/-- Whether an access of the executing thread set to 16 bytes, a write or a read, must wait for older accesses of it (R176, R180, R186): for
far ones to the words, for a ld.acq, and for older window entries. -/
def streamHeld (s : State) (a : Word) (k : Nat) (write : Bool) : Bool :=
  farTouches s s.cur k 16 || acquireOut s ||
  memHeld s (match s.winRun with | some e => s.th.olderOf e | none => s.th.entries) { base := 0, off := a, size := 16, store := write }
/-- The element at a stream's next place, where it can be read or written now: its key, or a stop. -/
def streamKey16 (s : State) (u : StreamUnit) (write : Bool) : Except Stop (State × Nat) :=
  match localKey s s.cur (u.addr u.pos) 16 with
  | .error c => trapE s c (u.addr u.pos)
  | .ok k =>
    if streamHeld s (u.addr u.pos) k write then waitE s
    else match arrive s (.thread s.cur s.pcNow) [(k, 16)] with
      | (s, true) => waitE s
      | (s, false) => match homeFails s k 16 (!write) with | some c => trapE s c (u.addr u.pos) | none => .ok (s, k)

/-- The next elements of the read streams that an instruction reads, one each, into their registers: what has been prefetched, else what
memory holds now (R139, R385). -/
def streamReads (s : State) (rv : List Reg) : Eff :=
  (rv.eraseDups).foldlM (init := s) (fun s r =>
    match boundUnit s r.toNat with
    | some u =>
      if u.write then .ok s
      else match u.ahead with
        | v :: _ => .ok (stepUnit (wrV s {} r v) r.toNat u)
        | [] => do
          let (s, k) ← streamKey16 s u false
          .ok (stepUnit (wrV s {} r (BitVec.ofNat 128 (leNat (memRead s k 16)))) r.toNat u)
    | none => .ok s)

/-- The values written to bound write streams, stored as their next elements (R139, R385); a value that a far access is still to bring is
stored when it comes. -/
def streamWrites (s : State) (wv : List Reg) : Eff :=
  (wv.eraseDups).foldlM (init := s) (fun s r =>
    match boundUnit s r.toNat with
    | some u =>
      if !u.write || farPendV s s.cur r then .ok s
      else do
        let (s, k) ← streamKey16 s u true
        .ok (stepUnit (memWrite s k (natBytes 16 (rdV s r).toNat)) r.toNat u)
    | none => .ok s)

/-- Bound read streams of a core prefetch, each at most one element, and only where a free choice says so: up to 8 ahead of the next
(R139, R385). An element that cannot be read stays for the instruction that reads it. [DESIGN CHOICE, safe: log 92] -/
def prefetchOn (s : State) (g : Nat) : State :=
  if (s.core g).streams.all (fun u => match u with | some x => x.write || !x.bound | none => true) then s
  else
    (List.range 4).foldl (fun s i =>
      match (s.core g).streams.toList.getD i none with
      | some u =>
        let e := u.pos + u.ahead.length
        let (s, b) := freshBit s
        if !b || u.write || !u.bound || 8 ≤ u.ahead.length || u.total ≤ e then s
        else match localKey s u.owner (u.addr e) 16 with
          | .error _ => s
          | .ok k =>
            if homeWaits s k 16 || (homeFails s k 16 true).isSome then s
            else
              let u' := { u with ahead := u.ahead ++ [BitVec.ofNat 128 (leNat (memRead s k 16))] }
              s.setCore g { s.core g with streams := (s.core g).streams.setIfInBounds i (some u') }
      | none => s) s

/-- What a stop leaves, with the stream operands that were read for it taken back. -/
def undoStreams (s s2 : State) : State :=
  let s2 := s2.setCo { s2.co with streams := s.co.streams }
  s2.setTh { s2.th with v := s.th.v, vm := s.th.vm, bad := s.th.bad }
/-- An effect with its stream operands: a stop leaves no element taken or stored. -/
def perform (s : State) (u : Use) (eff : State → Eff) : Eff := do
  let s1 ← streamReads s u.rv
  match eff s1 with
  | .error (.trap s2 c a) => if u.rv.any (fun r => isReadStream s r) then .error (.trap (undoStreams s s2) c a) else .error (.trap s2 c a)
  | .error (.wait s2) => if u.rv.any (fun r => isReadStream s r) then .error (.wait (undoStreams s s2)) else .error (.wait s2)
  | .ok s2 =>
    match streamWrites s2 u.wv with
    | .ok s3 => .ok s3
    | .error (.trap _ c a) => .error (.trap s c a)
    | .error (.wait s3) => .error (.wait { s with replay := s3.replay })

/-! ## Traps -/

/-- CAUSE (R144). -/
def causeWord (async defer : Bool) (code : Nat) : Word :=
  BitVec.ofNat 64 ((if async then 2 ^ 63 else 0) + (if defer then 2 ^ 62 else 0) + code % 128)

/-- A descent that a thread set executes is abandoned: the level in progress is discarded (R274, R277). -/
def abandonTree (s : State) (tid : Nat) : State :=
  let u := (s.core (coreOf tid)).tree
  if u.state = .descending && u.runner == some tid then
    s.setCore (coreOf tid) { s.core (coreOf tid) with tree := { u with state := .partial_, runner := none, node := [], acc := none } }
  else s
/-- A fold that a thread set executes is suspended: the next rk.fold on the stream continues it (R263, R415). -/
def abandonFold (s : State) (tid : Nat) : State :=
  let c := s.core (coreOf tid)
  let mine := fun (x : RxStream) => x.folder == some tid && x.state == .folding
  if c.rx.any (fun r => r.any mine) then
    s.setCore (coreOf tid) { c with rx := c.rx.map (fun r => r.map (fun (x : RxStream) => if mine x then { x with state := .suspended } else x)) }
  else s
/-- What a thread set has asked of its core's units, where it leaves the instruction that waits for them: the descent, the fold, and its
places among those that wait for tile tokens (R133, R277, R415). -/
def leaveUnits (s : State) (tid : Nat) : State :=
  let s := abandonFold (abandonTree s tid) tid
  let c := s.core (coreOf tid)
  if c.tiles.any (fun t => t.waiters.any (fun w => w.1 == tid)) then
    s.setCore (coreOf tid) { c with tiles := c.tiles.map (fun (t : Tile) => { t with waiters := t.waiters.filter (fun w => w.1 != tid) }) }
  else s

/-- Taking a trap (R284): EPC, CAUSE and FADDR are written, DEPC only where the trap is deferred, the mode becomes kernel and the PC
goes to TVEC. A code is the cause and, from bit 7 on, the DETAIL of R288. A repetition is suspended (R141) and following ends (R123); a
descent or fold that the thread set was executing is left (R277, R415), a breakpoint that was passed over counts again (R440). With TVEC
0 the thread set freezes in place (R286): a fault record with the cause is placed and vector 0 raised. -/
def takeTrapAs (s : State) (async defer : Bool) (code : Nat) (faddr epc depc : Word) : State :=
  let s := leaveUnits (forgetMisses s s.cur) s.cur
  let t := s.th
  let t := { t with epc := epc, cause := causeWord async defer code, faddr := faddr, depc := if defer then depc else t.depc,
                    drain := false, hold := false, defTrap := none, fol := none, anyList := none, anyOver := false, mark := none, noMatch := false }
  if t.tvec = 0 then
    let s1 := detachFollowers (s.setTh { t with run := .frozen }) s.cur
    let s2 := writeFault s1 s.myCtx { dev := ownId s, tid := some s.cur, agent := 0, code := code % 128, detail := code / 128, addr := faddr, wid := t.wid, pc := epc }
    if s2.outputs.length = s1.outputs.length then raiseVector s2 s.myCtx 0 else s2
  else
    detachFollowers (s.setTh { t with
      pmode := t.kernel, kernel := true, pc := t.tvec, run := .running, tdepth := t.tdepth + 1
      rep := t.rep.map (fun r => { r with depth := r.depth + 1, buf := [] }) }) s.cur

/-- A precise trap of the instruction at the PC (R284). -/
def takeTrap (s : State) (code : Nat) (faddr : Word := 0) : State := takeTrapAs s false false code faddr s.th.pc 0

/-- Whether two entries access a common word, of which one at least is written: the later one keeps its place behind the other (R176). -/
def sameAccess (s : State) (x h : WinEntry) : Bool :=
  x.use.accesses.any (fun a => h.use.accesses.any (fun b =>
    (a.store || b.store) && sameHomes s (useAddr s a) a.size (useAddr s b) b.size))
/-- Hold at a level the faulting entry and every later entry that depends on it, or that R129 or R176 keeps behind one that is so held
(R131): what an earlier trap holds stays as it is. -/
def holdFrom (s : State) (n : Nat) (l held : List WinEntry) (e : WinEntry) : List WinEntry :=
  match l with
  | [] => []
  | x :: r =>
    if x == e && held.isEmpty then { x with held := n } :: holdFrom s n r [x] e
    else if x.held == 0 && held.any (fun h => conflicts x.use h.use || sameAccess s x h) then
      { x with held := n } :: holdFrom s n r (held ++ [x]) e
    else x :: holdFrom s n r held e

/-- A trap that has returned: the count of those that have not, and the repetition's (R141, R285). -/
def Thread.untrap (t : Thread) : Thread := { t with tdepth := t.tdepth - 1, rep := t.rep.map (fun r => { r with depth := r.depth - 1 }) }

/-- A window entry that raises a trap when it executes (R131): it and its dependants are held, and the thread set stops issuing. One that a
trap.ret executes takes its trap at once, in place of that return: the others stay held, and DEPC stays (R433).
[DEDUCED, unsafe: log 17] -/
def deferTrap (s : State) (e : WinEntry) (code : Nat) (faddr : Word) : State :=
  let t := s.th
  if t.drain then takeTrapAs (s.setTh t.untrap) false true code faddr e.pc t.depc
  else s.setTh { t with window := holdFrom s (t.tdepth + 1) t.window [] e, defTrap := some { pc := e.pc, code := code, faddr := faddr } }

/-- The deferred trap taken once the independent entries have executed (R131). -/
def takeDeferred (s : State) (d : DefTrap) : State := takeTrapAs s false true d.code d.faddr d.pc s.th.pc

/-- Whether a trap.ret executes an entry: its own trap holds it, or one that has returned and left it (R131, R433). -/
def Thread.drains (t : Thread) (e : WinEntry) : Bool := decide (max 1 t.tdepth ≤ e.held)
/-- trap.ret once the held entries have executed (R285, R433): with DEFER the PC is DEPC, else it is EPC; the mode is PMODE.
[DEDUCED, unsafe: log 15] -/
def trapReturn (s : State) : State :=
  let t := s.th.untrap
  if bitOf t.cause 62 then
    s.setTh { t with drain := false, cause := t.cause &&& ~~~(BitVec.ofNat 64 (2 ^ 62)), pc := t.depc, kernel := t.pmode }
  else s.setTh { t with pc := t.epc, kernel := t.pmode }

/-! ## The frames in which instructions execute -/

/-- Whether a debug stop holds every thread set and engine of the device (R301 mode 2). -/
def State.allStopped (s : State) : Bool := match s.dbg.stop with | some x => x.mode == 2 | none => false

/-- The executing window entry leaves the window. -/
def leaveWindow (s : State) (e : WinEntry) : State :=
  let t := { s.th with window := s.th.window.erase e }
  let t := match e.mark with
    | some id => { t with act := t.act.map (fun (a : Activation) => { a with log := a.log.filter (fun p => !isMark id p) }) }
    | none => t
  { s.setTh t with winRun := none }

/-- The end of an instruction executed in its turn: it is counted and the PC goes on. -/
def finish (s : State) (i : Instr) (target : Option Word := none) : State := issued (counted s) i target

/-- The end of an instruction that has placed the PC itself: it is counted, its followers execute it, and where it was a suspension point
they detach (R123, R339). -/
def finishJump (s : State) (i : Instr) (pc : Word) : State :=
  let s := counted (s.setTh { s.th with noMatch := false, hold := false })
  let s1 := tellFollowers s { pc := pc, len := s.ilen, instr := unstaggered s.th i, next := s.th.pc }
  if s1.th.run == .running then s1 else detachFollowers s1 s.cur
/-- The end of a trap.ret (R433). [DEDUCED, unsafe: log 15] -/
def endReturn (s : State) : State := finishJump (trapReturn { s with ilen := 4 }) .trapRet s.th.pc

/-- As `settle`, for an instruction that places the PC itself. -/
def settleJump (i : Instr) (pc : Word) (r : Eff) : Host.Outcome State Fault Refusal :=
  match r with
  | .ok s => .next (finishJump s i pc)
  | .error (.trap s c a) => .next (takeTrap s c a)
  | .error (.wait s) => .next s

/-- Whether an instruction keeps its thread set from being ready from the cycle in which it executes until it ends (R273, R394 to R396,
R411): nothing else of the thread set executes while it waits, in its turn or in the window. -/
def holdsThread (i : Instr) : Bool :=
  match i with
  | .trDesc _ | .accTake _ | .shpLd _ _ | .shpSt _ _ | .tblLd _ | .rkCfg _ => true
  | _ => false
/-- A result that ends an instruction in its turn. -/
def settle (i : Instr) (r : Eff) : Host.Outcome State Fault Refusal :=
  match r with
  | .ok s => .next (finish s i)
  | .error (.trap s c a) => .next (takeTrap s c a)
  | .error (.wait s) => .next (if holdsThread i then s.setTh { s.th with hold := true } else s)

/-- An entry of the window marked as begun. -/
def beginEntry (s : State) (e : WinEntry) : State :=
  if holdsThread e.instr then s.setTh { s.th with window := s.th.window.map (fun x => if x == e then { x with begun := true } else x) } else s
/-- The entry of a window that has begun and waits. -/
def Thread.begun (t : Thread) : Option WinEntry := t.window.find? (fun e => e.begun)

/-- The execution of a window entry (R129): it is counted and leaves the window; a trap is deferred (R131). -/
def settleDeferred (e : WinEntry) (r : Eff) : Host.Outcome State Fault Refusal :=
  match r with
  | .ok s => .next (counted (leaveWindow s e))
  | .error (.trap s c a) => .next (deferTrap { s with winRun := none } e c a)
  | .error (.wait s) => .next (beginEntry { s with winRun := none } e)

/-! ## Register errors (R298, R299) -/

/-- Whether a free thread set of its core holds a copy of a thread set's registers: the lowest-numbered free one copies the
lowest-numbered used one, and so on (R299). -/
def copyOf (s : State) (tid : Nat) : Bool :=
  let used := s.launches.flatMap (fun l => match l.onCore (coreOf tid) with
    | some a => if l.admitted && !launchSaved s l then a.ts else []
    | none => [])
  used.contains (tid % 4) &&
  decide (((List.range (tid % 4)).filter (fun t => used.contains t)).length < ((List.range 4).filter (fun t => !used.contains t)).length)
/-- Whether the executing thread set's registers have a copy. -/
def hasCopy (s : State) : Bool := copyOf s s.cur
/-- The registers that an instruction reads and that have an error. A v register bound to a read stream is not read (R139). -/
def readErrors (s : State) (rx rv : List Reg) : List Nat :=
  ((rx.filter (fun r => r != 0)).map (fun (r : Reg) => r.toNat) ++ (rv.filter (fun r => !isReadStream s r)).map (fun (r : Reg) => 32 + r.toNat)).eraseDups.filter
    (fun k => s.th.bad.getLsbD k)
/-- The errors of some registers repaired from their copies, and counted. -/
def repaired (s : State) (ks : List Nat) : State :=
  let s := s.setTh { s.th with bad := ks.foldl (fun b k => b &&& ~~~(BitVec.twoPow 64 k)) s.th.bad }
  s.setCo { s.co with regRep := s.co.regRep + BitVec.ofNat 64 ks.length }
/-- The registers that an instruction reads checked: an error is repaired where there is a copy, else 0x60 is raised and counted.
[DEDUCED, unsafe: log 125] -/
def checkRegs (s : State) (rx rv : List Reg) : Eff :=
  let ks := readErrors s rx rv
  if ks.isEmpty then .ok s
  else if hasCopy s then .ok (repaired s ks)
  else trapE (s.setCo { s.co with regUe := s.co.regUe + 1 }) 0x60

/-- The residue check of an integer result (R298): a first mismatch executes the instruction again, a second raises 0x60 and is counted.
[DESIGN CHOICE, unsafe: log 10] -/
def checkResult (s : State) (u : Use) : Eff :=
  if s.th.misres = 0 || u.mem.isSome || u.wx.all (fun r => r == 0) then .ok s
  else
    let s1 := s.setTh { s.th with misres := 0 }
    if s.th.misres = 1 then .ok s1 else trapE (s1.setCo { s1.co with regUe := s1.co.regUe + 1 }) 0x60
/-- The checks of an instruction's registers and of its result. -/
def checkUse (s : State) (u : Use) : Eff := do checkResult (← checkRegs s u.rx u.rv) u

/-- The frame of an instruction that may be deferred (R129): `u` is what it reads and writes, the effect receives the masks of what
it writes. From the window (`winRun`) the masks are those captured at issue. -/
def issueD (i : Instr) (u : Use) (eff : Mask → State → Eff) (s : State) : Host.Outcome State Fault Refusal :=
  match s.winRun with
  | some e => settleDeferred e (do perform (← checkUse s u) u (eff e.mask))
  | none =>
    if blockedBy s s.th.entries (streamUse s u) then
      .next (if 16 ≤ s.th.window.length then s else issued (enterWindow s i (streamUse s u)) i)
    else settle i (do perform (← checkUse s u) u (eff (useMask s u)))

/-- Whether the thread set is inside a repetition body that an instruction of R141 ends with 0x01. [DEDUCED, unsafe: log 21] -/
def inRep (s : State) : Bool := match s.th.rep with | some r => r.depth == 0 | none => false

/-- Cause 0x01 of R141: the repetition ends. -/
def repTrap (s : State) : State := takeTrap (s.setTh { s.th with rep := none }) 0x01

/-- The frame of an instruction that is never deferred (R130): it waits until no register it reads is pending and the window is empty.
`ban` says that a repetition body may not hold it (R141). -/
def issueN (i : Instr) (ban : Bool) (eff : State → Eff) (s : State) : Host.Outcome State Fault Refusal :=
  if !s.th.entries.isEmpty then .next s
  else if ban && inRep s then .next (repTrap s)
  else settle i (eff s)

/-- As `issueN`, for an instruction that places the PC itself: none of them may stand in a repetition body (R141). -/
def issueJ (i : Instr) (eff : State → Eff) (s : State) : Host.Outcome State Fault Refusal :=
  if !s.th.entries.isEmpty then .next s
  else if inRep s then .next (repTrap s)
  else settleJump i s.th.pc (eff s)

/-- The registers that a never-deferred instruction reads or writes are pending (R429, R331): the thread set is held. -/
def regsPend (s : State) (rx wx : List Reg) : Bool := (rx ++ wx).any (fun r => r != 0 && farPendX s s.cur r)

/-- As `issueN`, for an instruction that reads or writes x registers. -/
def issueNR (i : Instr) (ban : Bool) (rx wx : List Reg) (eff : State → Eff) (s : State) : Host.Outcome State Fault Refusal :=
  if regsPend s rx wx then .next s else issueN i ban (fun s => do eff (← checkRegs s rx [])) s

/-- The frame of a branch or jump (R130, R331): held while a register it reads is pending, or while an older entry has to read or
write the register it writes; `eff` gives the state and the target, if it goes elsewhere. -/
def issueB (i : Instr) (rx wx : List Reg) (eff : State → State × Option Word) (s : State) : Host.Outcome State Fault Refusal :=
  if regsPend s rx wx || s.th.entries.any (fun e => meetX (rx ++ wx) e.use.wx || meetX wx e.use.rx) then .next s
  else if inRep s then (if s.th.entries.isEmpty then .next (repTrap s) else .next s)
  else
    match checkRegs s rx [] with
    | .error (.trap s' c a) => .next (if s.th.entries.isEmpty then takeTrap s' c a else s)
    | .error (.wait s') => .next s'
    | .ok s =>
      let r := eff s
      .next (finish r.1 i r.2)

/-- An encoding trap (R309): it waits until the window is empty. -/
def illegal (s : State) (code : Nat) : State := if s.th.entries.isEmpty then takeTrap s code else s
/-- Cause 0x01 of a system or CSR instruction that the mode or the register does not allow: in a repetition body it ends the repetition
(R141). -/
def illegalSys (s : State) : State := if !s.th.entries.isEmpty then s else if inRep s then repTrap s else takeTrap s 0x01
/-- An access that no outstanding ld.acq holds (R186). -/
def afterAcquire (s : State) (e : Eff) : Eff := if acquireOut s then waitE s else e

end Sys2Proof.Machine
end

