-- ==== Sys2Proof/Machine/Operands.lean ====
section
/-! DEFINITION. Machine/Operands.lean: the operand forms: immediates (R328), widths and extensions, lanes of v registers (R126, R367),
and the staggered names of a repetition body (R140, R347). -/
namespace Sys2Proof.Machine

/-! ## Immediates and extensions -/

/-- A 12-bit immediate, sign-extended (R328). -/
def imm12 (i : BitVec 12) : Word := i.signExtend 64
/-- The U immediate: bits [31:12], sign-extended. -/
def imm20 (i : BitVec 20) : Word := (i ++ (0 : BitVec 12)).signExtend 64
/-- The J offset: imm[20:1] times 2, sign-extended. -/
def offJ (i : BitVec 20) : Word := (i ++ (0 : BitVec 1)).signExtend 64
/-- The B offset: imm[12:1] times 2, sign-extended. -/
def offB (i : BitVec 12) : Word := (i ++ (0 : BitVec 1)).signExtend 64
/-- The low 32 bits, sign-extended (the W forms). -/
def sextW (x : Word) : Word := (x.truncate 32).signExtend 64
/-- The low 32 bits, zero-extended (the UW forms). -/
def zextW (x : Word) : Word := (x.truncate 32).zeroExtend 64
/-- A number as a signed value of n bits. -/
def toSigned (n v : Nat) : Int := if v % 2 ^ n < 2 ^ (n - 1) then (v % 2 ^ n : Nat) else (v % 2 ^ n : Nat) - (2 ^ n : Nat)
/-- The n-bit pattern of an integer, modulo 2^n. -/
def ofSigned (n : Nat) (v : Int) : Nat := (v % (2 ^ n : Nat)).toNat
/-- A value of n bytes read from memory, extended to 64 bits (R348). -/
def extendTo (bits : Nat) (signed : Bool) (v : Nat) : Word :=
  if signed then BitVec.ofInt 64 (toSigned bits v) else BitVec.ofNat 64 (v % 2 ^ bits)

/-! ## Lanes (R126) -/

/-- Lane i of width w of a 128-bit register. -/
def lane (w : Nat) (x : VWord) (i : Nat) : Nat := x.toNat / 2 ^ (w * i) % 2 ^ w
/-- The lanes of width w, lowest first. -/
def lanesOf (w : Nat) (x : VWord) : List Nat := (List.range (128 / w)).map (fun i => lane w x i)
/-- A number whose digits of width w are the given values, lowest first. -/
def packNat (w : Nat) (l : List Nat) : Nat :=
  match l with
  | [] => 0
  | a :: r => a % 2 ^ w + 2 ^ w * packNat w r
/-- A register from its lanes: lanes that are not given are zero. -/
def packV (w : Nat) (l : List Nat) : VWord := BitVec.ofNat 128 (packNat w l)
/-- A register with lane i replaced. -/
def setLane (w : Nat) (x : VWord) (i v : Nat) : VWord :=
  packV w ((lanesOf w x).mapIdx (fun k y => if k = i then v else y))

/-- The lane width of a custom-0 integer type (R314). -/
def intWidth (t : BitVec 3) : Nat := 8 * 2 ^ (t.toNat % 4)
/-- The lane width of a custom-0 floating-point type: bf16, f16, f32. -/
def floatWidth (t : BitVec 3) : Nat := if t.toNat = 6 then 32 else 16
/-- The lane width of any custom-0 type. -/
def laneWidth (t : BitVec 3) : Nat := if t.toNat < 4 then intWidth t else floatWidth t

/-! ## Staggered names (R140, R347) -/

/-- A v field staggered: its name on a pass, or none above v31. -/
def stagReg (on : Bool) (o : Nat) (r : Reg) : Option Reg :=
  if on then (if r.toNat + o ≤ 31 then some (BitVec.ofNat 5 (r.toNat + o)) else none) else some r

/-- The instruction with a function applied to each field that names a v register and may be staggered (R347): vd, vs1, vs2, vs3
under mask bits 0 to 3. -/
def mapV (f : Nat → Reg → Option Reg) (i : Instr) : Option Instr :=
  let vvv := fun (k : Reg → Reg → Reg → Instr) (d a b : Reg) => do
    let d ← f 0 d; let a ← f 1 a; let b ← f 2 b; return k d a b
  let vv := fun (k : Reg → Reg → Instr) (d a : Reg) => do
    let d ← f 0 d; let a ← f 1 a; return k d a
  match i with
  | .vadd d a b t => vvv (fun d a b => .vadd d a b t) d a b
  | .vsub d a b t => vvv (fun d a b => .vsub d a b t) d a b
  | .vmul d a b t => vvv (fun d a b => .vmul d a b t) d a b
  | .vmulh d a b u t => vvv (fun d a b => .vmulh d a b u t) d a b
  | .vmac d a b u t => vvv (fun d a b => .vmac d a b u t) d a b
  | .vmin d a b u t => vvv (fun d a b => .vmin d a b u t) d a b
  | .vmax d a b u t => vvv (fun d a b => .vmax d a b u t) d a b
  | .vabs d a t => vv (fun d a => .vabs d a t) d a
  | .vand d a b => vvv .vand d a b
  | .vor d a b => vvv .vor d a b
  | .vxor d a b => vvv .vxor d a b
  | .vsll d a b t => vvv (fun d a b => .vsll d a b t) d a b
  | .vsrl d a b t => vvv (fun d a b => .vsrl d a b t) d a b
  | .vsra d a b t => vvv (fun d a b => .vsra d a b t) d a b
  | .vcmpEq d a b t => vvv (fun d a b => .vcmpEq d a b t) d a b
  | .vcmpNe d a b t => vvv (fun d a b => .vcmpNe d a b t) d a b
  | .vcmpLt d a b u t => vvv (fun d a b => .vcmpLt d a b u t) d a b
  | .vcmpLe d a b u t => vvv (fun d a b => .vcmpLe d a b u t) d a b
  | .vfadd d a b t => vvv (fun d a b => .vfadd d a b t) d a b
  | .vfsub d a b t => vvv (fun d a b => .vfsub d a b t) d a b
  | .vfmul d a b t => vvv (fun d a b => .vfmul d a b t) d a b
  | .vfma d a b t => vvv (fun d a b => .vfma d a b t) d a b
  | .vfmin d a b t => vvv (fun d a b => .vfmin d a b t) d a b
  | .vfmax d a b t => vvv (fun d a b => .vfmax d a b t) d a b
  | .vdot d a b u t => vvv (fun d a b => .vdot d a b u t) d a b
  | .vredsum d a u t => vv (fun d a => .vredsum d a u t) d a
  | .vredmax d a u t => vv (fun d a => .vredmax d a u t) d a
  | .vredmin d a u t => vv (fun d a => .vredmin d a u t) d a
  | .vrcp d a t => vv (fun d a => .vrcp d a t) d a
  | .vrsqrt d a t => vv (fun d a => .vrsqrt d a t) d a
  | .vexp2 d a t => vv (fun d a => .vexp2 d a t) d a
  | .vlog2 d a t => vv (fun d a => .vlog2 d a t) d a
  | .vtanh d a t => vv (fun d a => .vtanh d a t) d a
  | .verf d a t => vv (fun d a => .verf d a t) d a
  | .vperm d a b t => vvv (fun d a b => .vperm d a b t) d a b
  | .vzip d a b t => vvv (fun d a b => .vzip d a b t) d a b
  | .vunzip d a b t => vvv (fun d a b => .vunzip d a b t) d a b
  | .vbcast d a t => do let d ← f 0 d; return .vbcast d a t
  | .vext d a k t => do let a ← f 1 a; return .vext d a k t
  | .vins d a k t => do let d ← f 0 d; return .vins d a k t
  | .vmv d a => vv .vmv d a
  | .vmxEnc d a s e t => vv (fun d a => .vmxEnc d a s e t) d a
  | .vmxDec d a e t => vv (fun d a => .vmxDec d a e t) d a
  | .vsel d a b c t => do
    let d ← f 0 d; let a ← f 1 a; let b ← f 2 b; let c ← f 3 c; return .vsel d a b c t
  | .vl d a k => do let d ← f 0 d; return .vl d a k
  | .vlTr d a z k => do let d ← f 0 d; return .vlTr d a z k
  | .vs b a k => do let b ← f 2 b; return .vs b a k
  | .vaccLd d a => do let d ← f 0 d; return .vaccLd d a
  | .vaccSt a b => do let b ← f 2 b; return .vaccSt a b
  | i => some i

/-- The instruction of a body on a pass (R140): staggered fields name the register pass mod L further on. -/
def stagger (r : Rep) (i : Instr) : Instr :=
  (mapV (fun k v => stagReg (bitOf r.stag k) (r.pass % r.lim) v) i).getD i

/-- The register-range check of R141: every staggered field stays within v31 on every pass. -/
def staggerOk (r : Rep) (i : Instr) : Bool :=
  (mapV (fun k v => stagReg (bitOf r.stag k) (min r.lim r.passes - 1) v) i).isSome

end Sys2Proof.Machine
end

