-- ==== Sys2Proof/Machine/Digest.lean ====
section
/-! DEFINITION. Machine/Digest.lean: the fixed functions of published standards that the manual names: SHA3-256 (R19, R81, R82, R98), the
GHASH multiplication (R82), CRC-32C (R30, R195) and Philox-4x32-10 (R229). -/
namespace Sys2Proof.Machine

/-! ## SHA-3 (FIPS 202): the functions that R18, R19, R82 and R98 name, from the standard's definitions -/

/-- A state of Keccak: word i is the lane of column i % 5 in row i / 5. -/
abbrev Lanes := List Word
/-- The bits of iota come from a shift register over x^8 + x^6 + x^5 + x^4 + 1 that starts at 1; this is one shift. -/
def iotaShift (r : Nat) : Nat := if r < 128 then 2 * r else (2 * r) ^^^ 0x171
/-- The shift register's first n states from r on. -/
def iotaStates (n r : Nat) : List Nat :=
  match n with
  | 0 => []
  | n + 1 => r :: iotaStates n (iotaShift r)
/-- What iota adds to lane 0 in each of the 24 rounds: bit 2^j - 1 is the output of the register after 7 rounds + j shifts. -/
def iotaWords : List Word :=
  (unitsOfNat 24 7 (iotaStates 168 1)).map (fun l => BitVec.ofNat 64 (l.zipIdx.map (fun p => p.1 % 2 * 2 ^ (2 ^ p.2 - 1))).sum)
where
  /-- The first n groups of m elements. -/
  unitsOfNat (n m : Nat) (l : List Nat) : List (List Nat) := (List.range n).map (fun i => (l.drop (m * i)).take m)
/-- How far rho turns each lane: step t of the walk (1, 0), (y, 2x + 3y) ... turns by (t + 1)(t + 2) / 2. -/
def rhoWalk (n t at_ : Nat) : Tab Nat :=
  match n with
  | 0 => []
  | n + 1 => (at_, (t + 1) * (t + 2) / 2 % 64) :: rhoWalk n (t + 1) (at_ / 5 + 5 * ((2 * (at_ % 5) + 3 * (at_ / 5)) % 5))
/-- The 24 turns of rho. -/
def rhoTurns : Tab Nat := rhoWalk 24 0 1
/-- One round: theta adds two column parities to each lane, rho and pi turn and move it, chi mixes a row, iota adds the word `w`. -/
def keccakRound (s : Lanes) (w : Word) : Lanes :=
  let lane := fun (l : Lanes) (n : Nat) => l.getD n (0 : Word)
  let parity : Lanes := (List.range 5).map (fun x => (List.range 5).foldl (fun acc y => acc ^^^ lane s (5 * y + x)) 0)
  let moved : Lanes := (List.range 25).map (fun n =>
    let from_ := (n % 5 + 3 * (n / 5)) % 5 + 5 * (n % 5)
    (lane s from_ ^^^ lane parity ((from_ + 4) % 5) ^^^ (lane parity ((from_ + 1) % 5)).rotateLeft 1).rotateLeft (tget rhoTurns from_ 0))
  (List.range 25).map (fun n =>
    let row := n / 5 * 5
    let mixed := lane moved n ^^^ (lane moved (row + (n + 2) % 5) &&& ~~~(lane moved (row + (n + 1) % 5)))
    if n = 0 then mixed ^^^ w else mixed)
/-- The permutation: 24 rounds. -/
def keccak (s : Lanes) : Lanes := iotaWords.foldl keccakRound s
/-- n blocks of a message taken in, `rate` words each. -/
def spongeIn (rate n : Nat) (s : Lanes) (bs : List Byte) : Lanes :=
  match n with
  | 0 => s
  | n + 1 =>
    let block := leWords rate bs
    spongeIn rate n (keccak (s.zipIdx.map (fun p => if p.2 < rate then p.1 ^^^ block.getD p.2 0 else p.1))) (bs.drop (8 * rate))
/-- n blocks given out, `rate` words each. -/
def spongeOut (rate n : Nat) (s : Lanes) : List Byte :=
  match n with
  | 0 => []
  | n + 1 => wordsBytes (s.take rate) ++ spongeOut rate n (keccak s)
/-- The sponge with a rate in words and the byte that closes the message (the domain's bits and the first bit of the padding): `len`
bytes. -/
def sponge (rate : Nat) (close : Nat) (len : Nat) (msg : List Byte) : List Byte :=
  let blocks := msg.length / (8 * rate) + 1
  let fill := blocks * (8 * rate) - msg.length
  let pad := (List.range fill).map (fun i => BitVec.ofNat 8 ((if i = 0 then close else 0) + if i + 1 = fill then 0x80 else 0))
  (spongeOut rate (len / (8 * rate) + 1) (spongeIn rate blocks (List.replicate 25 0) (msg ++ pad))).take len
/-- SHA3-256: 32 bytes. [PRESUMED, unsafe: log 112] -/
def sha3 (msg : List Byte) : List Byte := sponge 17 0x06 32 msg
/-- SHAKE128, `len` bytes. [PRESUMED, unsafe: log 112] -/
def shake128 (len : Nat) (msg : List Byte) : List Byte := sponge 21 0x1F len msg
/-- SHAKE256, `len` bytes. [PRESUMED, unsafe: log 112] -/
def shake256 (len : Nat) (msg : List Byte) : List Byte := sponge 17 0x1F len msg

/-! ## GHASH (SP 800-38D): a block is its 16 bytes, and bit 0 is the most significant bit of byte 0 -/

/-- The block as the number whose most significant bit is GHASH's bit 0: the little-endian bytes of the value in order (R82). -/
def ghashIn (x : BitVec 128) : Nat := (natBytes 16 x.toNat).foldl (fun n b => n * 256 + b.toNat) 0
/-- The inverse of `ghashIn`. -/
def ghashOut (n : Nat) : BitVec 128 := BitVec.ofNat 128 (leNat (natBytes 16 n).reverse)
/-- The multiplication's loop over n bits of x. -/
def ghashLoop (n x z v : Nat) : Nat :=
  match n with
  | 0 => z
  | n + 1 =>
    let z := if x / 2 ^ n % 2 = 1 then z ^^^ v else z
    let v := if v % 2 = 1 then v / 2 ^^^ (0xE1 * 2 ^ 120) else v / 2
    ghashLoop n x z v
/-- The GHASH product (R82). [PRESUMED, unsafe: log 112] -/
def ghash (x h : BitVec 128) : BitVec 128 := ghashOut (ghashLoop 128 (ghashIn x) 0 (ghashIn h))
/-- H to a power: by repeated squaring over the bits of the exponent. -/
def ghashPow (fuel : Nat) (h : BitVec 128) (e : Nat) (acc : Option (BitVec 128)) : Option (BitVec 128) :=
  match fuel with
  | 0 => acc
  | k + 1 =>
    if e = 0 then acc
    else
      let acc := if e % 2 = 1 then (match acc with | some a => some (ghash a h) | none => some h) else acc
      ghashPow k (ghash h h) (e / 2) acc

/-! ## CRC-32C (polynomial 0x1EDC6F41, reflected) -/

/-- One byte into the reflected CRC register. -/
def crcByte (c : Nat) (b : Byte) : Nat :=
  (List.range 8).foldl (fun c _ => if c % 2 = 1 then c / 2 ^^^ 0x82F63B78 else c / 2) (c ^^^ b.toNat)
/-- CRC-32C of bytes. [PRESUMED, unsafe: log 112] -/
def crc32c (bs : List Byte) : Nat := bs.foldl crcByte 0xFFFFFFFF ^^^ 0xFFFFFFFF

/-! ## Philox-4x32-10 (R229) -/

/-- One round on (c0, c1, c2, c3) with a key. -/
def philoxRound (c : Nat × Nat × Nat × Nat) (k0 k1 : Nat) : Nat × Nat × Nat × Nat :=
  let p := 0xD2511F53 * c.1
  let q := 0xCD9E8D57 * c.2.2.1
  (q / 2 ^ 32 ^^^ c.2.1 ^^^ k0, q % 2 ^ 32, p / 2 ^ 32 ^^^ c.2.2.2 ^^^ k1, p % 2 ^ 32)
/-- n rounds. [PRESUMED, unsafe: log 112] -/
def philoxRounds (n : Nat) (c : Nat × Nat × Nat × Nat) (k0 k1 : Nat) : Nat × Nat × Nat × Nat :=
  match n with
  | 0 => c
  | n + 1 => philoxRounds n (philoxRound c k0 k1) ((k0 + 0x9E3779B9) % 2 ^ 32) ((k1 + 0xBB67AE85) % 2 ^ 32)
/-- The draw for element counter e (R230): key LSEED, stream selector and work identifier. -/
def drawOf (lseed sel wid : Nat) (e : Nat) : Nat :=
  let c := philoxRounds 10 (e / 4, sel, wid % 2 ^ 32, wid / 2 ^ 32 % 2 ^ 32) (lseed % 2 ^ 32) (lseed / 2 ^ 32 % 2 ^ 32)
  match e % 4 with
  | 0 => c.1
  | 1 => c.2.1
  | 2 => c.2.2.1
  | _ => c.2.2.2

end Sys2Proof.Machine
end

