-- ==== Sys2Proof/Machine/Ordered.lean ====
section
/-! DEFINITION. Machine/Ordered.lean: the commit buffer, signatures and the store log of an ordered activation (R195, R198, R200, R83),
and the digests (R82 to R84). -/
namespace Sys2Proof.Machine

/-- An address with its own device's field replaced by 0 (R48). -/
def plainAddr (s : State) (a : Word) : Nat :=
  if deviceField a = s.fabric.id.toNat + 1 then addr48 a else a.toNat

/-- The four signature bits of a block address (R195). -/
def sigOf (block : Nat) : BitVec 256 :=
  let c := crc32c (natBytes 8 (block / 32 * 32))
  (List.range 4).foldl (fun b i => b ||| BitVec.ofNat 256 (2 ^ (c / 2 ^ (8 * i) % 256))) 0
/-- The signature of the blocks that n bytes touch. -/
def sigRange (a n : Nat) : BitVec 256 := (cuts a n 32).foldl (fun b p => b ||| sigOf p.1) 0
/-- Whether a read signature meets a write signature (R198): they share a bit, as they do wherever they share a block.
[DEDUCED, unsafe: log 35] -/
def sigMeets (a b : BitVec 256) : Bool := (a &&& b) != 0

/-- The executing thread set's activation. -/
def State.myAct (s : State) : Option Activation := s.th.act
/-- Its activation replaced. -/
def setAct (s : State) (a : Activation) : State := s.setTh { s.th with act := some a }

/-- Whether its far stores go to a commit buffer (R195, R200). -/
def buffers (s : State) : Bool :=
  inOrdered s s.cur && (match s.myAct with | some a => !a.irrevocable | none => false)

/-- The bytes of one block put into a commit buffer; none where it has no free entry (R195, R200). -/
def bufPutBlock (buf : List BufBlock) (block off : Nat) (bs : List Byte) : Option (List BufBlock) :=
  let merge := fun (old : List (Option Byte)) =>
    old.mapIdx (fun i b => if off ≤ i && i < off + bs.length then some (bs.getD (i - off) 0) else b)
  if buf.any (fun b => b.addr.toNat == block) then
    some (buf.map (fun b => if b.addr.toNat == block then { b with bytes := merge b.bytes } else b))
  else if buf.length < 512 then some (buf ++ [{ addr := BitVec.ofNat 64 block, bytes := merge (List.replicate 32 none) }])
  else none

/-- A store put into a commit buffer. -/
def bufPut (buf : List BufBlock) (a : Nat) (bs : List Byte) : Option (List BufBlock) :=
  (cuts a bs.length 32).foldlM (init := buf) (fun b p => bufPutBlock b (p.1 / 32 * 32) (p.1 % 32) ((bs.drop (p.1 - a)).take p.2))

/-- The bytes of a range that a commit buffer holds, with their places. [DEDUCED, unsafe: log 36] -/
def bufGet (buf : List BufBlock) (a n : Nat) : List (Nat × Byte) :=
  (List.range n).filterMap (fun i =>
    match buf.find? (fun b => b.addr.toNat == (a + i) / 32 * 32) with
    | some b => match b.bytes.getD ((a + i) % 32) none with | some v => some (i, v) | none => none
    | none => none)

/-- Entries of the store log at the place of the executing instruction in program order (R83). -/
def logAt (s : State) (a : Activation) (ps : List (Word × List Byte)) : Activation :=
  match s.winRun.bind (·.mark) with
  | some id => { a with log := a.log.flatMap (fun p => if isMark id p then ps ++ [p] else [p]) }
  | none => { a with log := a.log ++ ps }
/-- A committed store as it is to be folded. -/
def logStore (s : State) (a : Activation) (addr : Word) (bs : List Byte) : Activation := logAt s a [(addr, bs)]

/-- The digest key of a launch (R82). -/
def digestKey (l : Launch) : BitVec 128 :=
  if l.seed = 0 then 1 else BitVec.ofNat 128 (leNat ((sha3 (natBytes 8 l.seed.toNat ++ natBytes 8 l.dsalt.toNat)).take 16))
/-- The two blocks of a store (R83). -/
def foldBlocks (s : State) (l : Launch) (a : Word) (bs : List Byte) : List (BitVec 128) :=
  let df := if l.devNeutral then 0 else if deviceField a = 0 then s.fabric.id.toNat + 1 else deviceField a
  [BitVec.ofNat 128 ((df * 2 ^ 48 + addr48 a) * 2 ^ 64 + bs.length), BitVec.ofNat 128 (leNat bs)]
/-- The task digest T (R83). -/
def taskDigest (s : State) (l : Launch) (log : List (Word × List Byte)) : BitVec 128 :=
  (log.flatMap (fun p => foldBlocks s l p.1 p.2)).foldl (fun t x => ghash (t ^^^ x) (digestKey l)) 0
/-- The contribution of an activation to its phase digest (R84). -/
def digestTerm (s : State) (l : Launch) (log : List (Word × List Byte)) (index : Nat) : BitVec 128 :=
  match ghashPow 40 (digestKey l) (index + 1) none with
  | some h => ghash (taskDigest s l log) h
  | none => 0

/-- Committed activations whose marks have all been filled enter the digest of their phase (R84). -/
def foldReady (s : State) (l : Launch) : Launch :=
  let done := l.foldLater.filter (fun f => f.2.2.all (fun p => !p.2.isEmpty))
  { l with
    foldLater := l.foldLater.filter (fun f => !f.2.2.all (fun p => !p.2.isEmpty))
    digest := done.foldl (fun d f => tset d f.1 (tget d f.1 0 ^^^ digestTerm s l f.2.2 f.2.1)) l.digest }
/-- The stores that a mark stands for take its place, in whichever log it is. -/
def fillMark (s : State) (id : Nat) (ps : List (Word × List Byte)) : State :=
  let fill := fun (log : List (Word × List Byte)) => log.flatMap (fun p => if isMark id p then ps else [p])
  if s.launches.all (fun l => !l.ordered) then s
  else
    { s with
      threads := tmap s.threads (fun _ (t : Thread) => { t with act := t.act.map (fun (a : Activation) => { a with log := fill a.log }) })
      launches := s.launches.map (fun (l : Launch) =>
        if l.foldLater.isEmpty then l else foldReady s { l with foldLater := l.foldLater.map (fun f => (f.1, f.2.1, fill f.2.2)) }) }

/-- The order of timestamps: phase, then index. -/
def tsLe (a b : Nat × Nat) : Bool := decide (a.1 < b.1) || (a.1 == b.1 && decide (a.2 ≤ b.2))
/-- The timestamp of a record. -/
def Record.ts (r : Record) : Nat × Nat := (r.phase, r.index)

/-- The activation of an ordered launch asks to become irrevocable and waits for it (R200). [DEDUCED, unsafe: log 34] -/
def wantIrrevocable (s : State) : State :=
  match s.myAct with
  | some a => setAct s { a with want := true }
  | none => s
/-- Whether the executing activation must become irrevocable before it goes on. -/
def mustIrrevocable (s : State) : Bool := buffers s

/-- The block addresses of a far read enter the read signature (R195). -/
def noteRead (s : State) (a n : Nat) : State :=
  if inOrdered s s.cur then
    match s.myAct with
    | some x => setAct s { x with rsig := x.rsig ||| sigRange a n }
    | none => s
  else s

/-- A store of an irrevocable activation: it enters the write signature that is announced, and the log (R200, R83). -/
def noteStore (s : State) (a : Word) (bs : List Byte) : State :=
  if inOrdered s s.cur then
    match s.myAct with
    | some x => setAct s (logStore s { x with wsig := x.wsig ||| sigRange (plainAddr s a) bs.length } a bs)
    | none => s
  else s
/-- A far atomic of an irrevocable activation, numbered id, on n bytes: its block enters the write signature, and its new value takes the
mark's place when it is known (R83, R200). -/
def noteAtomic (s : State) (id : Nat) (a : Word) (n : Nat) : State :=
  if inOrdered s s.cur then
    match s.myAct with
    | some x => setAct s (logAt s { x with wsig := x.wsig ||| sigRange (plainAddr s a) n } [(BitVec.ofNat 64 id, [])])
    | none => s
  else s

/-! ## The undo region (R85) -/

/-- Whether the current phase of a launch is logged. -/
def Launch.logs (l : Launch) : Bool := l.dmode == 2 && l.phase < l.nph && l.phaseState == .running
/-- One entry appended: address, size, old contents; a full region, or an entry that cannot be written, ends the logging of the phase.
[DESIGN CHOICE, unsafe: log 28] -/
def undoPut (s : State) (n : Nat) (a : Word) (old : List Byte) : State :=
  match s.launch n with
  | none => s
  | some l =>
    if !l.logs then s
    else
      let e := natBytes 8 a.toNat ++ natBytes 8 old.length ++ (old ++ List.replicate (16 - old.length) 0)
      let full := s.setLaunch { l with phaseState := .unlogged }
      if l.undolen < 32 * (l.undoPos + 1) then full
      else
        match hubWrite s l.ctx (l.undo + BitVec.ofNat 64 (32 * l.undoPos)) e with
        | .error _ => full
        | .ok s => s.setLaunch { l with undoPos := l.undoPos + 1 }
/-- The old contents of what a store overwrites, where its home is on this device. [DESIGN CHOICE, unsafe: log 28] -/
def oldBytes (s : State) (c : Nat) (a : Word) (n : Nat) : Option (List Byte) :=
  match decodeAddr s a with
  | .translated va =>
    match inletAt s c va, hubKeys s c va n [rightWR] with
    | none, .ok ks => (readKeys s ks).toOption
    | _, _ => none
  | .window x => (readKeys s (windowKeys s x n)).toOption
  | _ => none
/-- What some stores of a launch overwrite, appended before they are performed. -/
def undoAppend (s : State) (l : Launch) (ps : List (Word × Nat)) : State :=
  ps.foldl (fun s p => (cuts p.1.toNat p.2 16).foldl (fun s c =>
    match oldBytes s l.ctx (BitVec.ofNat 64 c.1) c.2 with
    | some old => undoPut s l.seq (BitVec.ofNat 64 c.1) old
    | none => s) s) s
/-- As `undoAppend`, for a store that an irrevocable activation of a thread set makes directly (R200). -/
def undoDirect (s : State) (tid : Nat) (a : Word) (n : Nat) : State :=
  match launchOf s tid, (s.thread tid).act with
  | some l, some x => if l.logs && x.irrevocable then undoAppend s l [(a, n)] else s
  | _, _ => s

end Sys2Proof.Machine
end

