-- ==== Sys2Proof/Machine/Access.lean ====
section
/-! DEFINITION. Machine/Access.lean: the accesses of a thread set: where an address leads and what is checked there (R147 to R149, R158,
R160), local accesses (R185), far loads, stores and atomics and their slots (R128, R173, R175, R178), and blocking reads (R358). -/
namespace Sys2Proof.Machine

/-- Where the bytes of an access lie, once it has been checked: one key range, several far ones, a peer's address, a register. -/
inductive Place where
  | near (key : Nat)
  | far (keys : List (Nat × Nat))
  | peer (dev : Nat) (va : Nat)
  | register (addr : Nat)
  deriving DecidableEq, Repr

/-- The pages of a translated access: each must translate with the rights (R158, R160). -/
def xlatePages (s : State) (a : Word) (ps : List (Nat × Nat)) (rights : List Nat) : Except Stop (State × List (Nat × Nat)) :=
  match ps with
  | [] => .ok (s, [])
  | p :: r =>
    match xlateThread s s.cur s.myCtx p.1 with
    | .miss s => waitE s
    | .fail s c => trapE s c (a + BitVec.ofNat 64 (p.1 - addr48 a))
    | .hit s e =>
      if rights.all (fun k => bitOf e.rights k) then
        match xlatePages s a r rights with
        | .ok (s, ks) => .ok (s, (e.physOf p.1, p.2) :: ks)
        | .error x => .error x
      else trapE s 0x11 (a + BitVec.ofNat 64 (p.1 - addr48 a))

/-- An access of n bytes checked (R147 to R149, R158): the class and place, or a precise trap with the address. -/
def place (s : State) (a : Word) (n : Nat) (rights : List Nat) : Except Stop (State × Place) :=
  match decodeAddr s a with
  | .nowhere => trapE s 0x10 a
  | .ownTcm _ | .ownSpad _ =>
    match localKey s s.cur a n with
    | .ok k => .ok (s, .near k)
    | .error c => trapE s c a
  | .window x =>
    if (if isTcm x then isTcm (x + n - 1) else isSpad (x + n - 1)) then
      (if s.kernelNow || windowAllowed s s.myCtx x n then .ok (s, .far (windowKeys s x n)) else trapE s 0x11 a)
    else trapE s 0x10 a
  | .register x => .ok (s, .register x)
  | .peer d va => if va + n ≤ 0xFFF000000000 then .ok (s, .peer d va) else trapE s 0x10 a
  | .translated va =>
    if va + n ≤ 0xFFF000000000 then
      match xlatePages s a (cuts va n 0x10000) rights with
      | .ok (s, ks) => .ok (s, .far ks)
      | .error x => .error x
    else trapE s 0x10 a

/-- A local access arrives at its home: it waits while a slot of its taint is outstanding (R178), an earlier far access to its words has
not been performed (R176), its bank is waking or an access that arrived there before it is still to be performed (R163). -/
def localArrive (s : State) (m : Mask) (k n : Nat) : Eff :=
  if (m.taint &&& s.th.outstanding) != 0 || farTouches s s.cur k n then waitE s
  else match arrive s (.thread s.cur s.pcNow) [(k, n)] with
    | (s, true) => waitE s
    | (s, false) => .ok s

/-- A local read (R185, R148). -/
def localRead (s : State) (m : Mask) (a : Word) (k n : Nat) : Except Stop (State × List Byte) := do
  let s ← localArrive s m k n
  match homeFails s k n true with
  | some c => trapE s c a
  | none => .ok (s, memRead s k n)
/-- A local write (R185, R148). -/
def localWrite (s : State) (m : Mask) (a : Word) (k : Nat) (bs : List Byte) : Eff := do
  let s ← localArrive s m k bs.length
  match homeFails s k bs.length false with
  | some c => trapE s c a
  | none => .ok (memWrite s k bs)

/-- A read through a checked address that must be in the own windows (R337, R359, R363, R383): 0x11 elsewhere. -/
def ownRead (s : State) (m : Mask) (a : Word) (n : Nat) : Except Stop (State × List Byte) :=
  match localKey s s.cur a n with
  | .error c => trapE s c a
  | .ok k => localRead s m a k n
/-- A write to the own windows. -/
def ownWrite (s : State) (m : Mask) (a : Word) (bs : List Byte) : Eff :=
  match localKey s s.cur a bs.length with
  | .error c => trapE s c a
  | .ok k => localWrite s m a k bs

/-- The lowest-numbered free slot (R128). -/
def freeSlot (t : Thread) : Option Nat := (List.range 16).find? (fun i => t.slots.toList.getD i .free == .free)

/-- The class of an address in order streams: the XOR of eleven 4-bit groups from bit 6 up, and bits [47:46] (R56). -/
def orderClass (va : Nat) : Nat := (List.range 11).foldl (fun k i => k ^^^ (va / 2 ^ (6 + 4 * i) % (if i = 10 then 4 else 16))) 0

/-- Thread numbers from here on stand for the engines and units of a core in the list of far accesses: 8 of them a core. -/
def unitTid (g k : Nat) : Nat := 0x4000 + 8 * g + k
/-- Thread sets of a Saved context have this much higher numbers in the list of far accesses. [DEDUCED, unsafe: log 58] -/
def savedTid : Nat := 0x200000
/-- The thread set that a far access was issued by. -/
def Far.realTid (f : Far) : Nat := if savedTid ≤ f.tid && f.tid < savedTid + 0x4000 then f.tid - savedTid else f.tid
/-- The number under which the hub sends what no thread set sends, and that of the Compline engine. -/
def hubTid : Nat := 0x10000
/-- The Compline engine. -/
def cplTid : Nat := 0x10001
/-- The core on whose behalf a far access leaves; none for the hub's. -/
def Far.core (f : Far) : Option Nat :=
  if f.realTid < 0x4000 then some (coreOf f.realTid) else if f.tid < 0xC000 then some ((f.tid - 0x4000) / 8) else none
/-- The bytes of an access. -/
def Far.length (f : Far) : Nat := f.pieces.foldl (fun n p => max n (p.pos + p.len)) 0
/-- The address of a piece of an access: a lane of a vl.tr, or a part for an inlet, has its own (R351, R248). -/
def Far.pieceAddr (f : Far) (p : Piece) : Word := f.addr + p.off.getD (BitVec.ofNat 64 p.pos)
/-- The job tag of a far access. -/
def farJob (s : State) (f : Far) : BitVec 16 := f.job.getD (s.ctx f.ctx).job

/-- Whether n more peer requests would exceed a limit of R64 and have to wait: those of the device, the unacknowledged writes of a core,
those of the order stream. What has left counts by its request, what has not by its far access. -/
def peerLimitOf (s : State) (g : Option Nat) (job : BitVec 16) (dev va : Nat) (isStore : Bool) (n : Nat := 1) : Bool :=
  let out := s.far.filter (fun f => f.dev != 0 && !f.over)
  let unsent := out.flatMap (fun f => (f.pieces.filter (fun p => !p.sent)).map (fun p => (f, p)))
  let ours := fun (x : Far × Piece) => x.1.dev == dev + 1 && farJob s x.1 == job && orderClass x.2.key == orderClass va
  let sent := fun (r : Request) => r.pkt.dest.toNat == dev && r.pkt.job == job && r.pkt.seq.toNat / 4096 == orderClass va
  decide (8192 < unsent.length + s.fabric.requests.length + n) ||
  (isStore && g.isSome && decide (64 < (out.filter (fun f => f.kind == .store && f.core == g)).length + n)) ||
  decide (32 < (unsent.filter ours).length + (s.fabric.requests.filter sent).length + n)
/-- As `peerLimitOf`, for the executing thread set: it waits at issue. -/
def peerLimit (s : State) (dev va : Nat) (isStore : Bool) (n : Nat := 1) : Bool :=
  peerLimitOf s (some s.myCore) (s.ctx s.myCtx).job dev va isStore n

/-- The pieces of an access (R175): the aligned 16-byte parts of its key ranges, in the order of its bytes. [DEDUCED, unsafe: log 22] -/
def piecesOf (keys : List (Nat × Nat)) : List Piece :=
  (keys.foldl (fun (acc : List Piece × Nat) kn =>
    (acc.1 ++ (cuts kn.1 kn.2 16).map (fun c => { key := c.1, pos := acc.2 + (c.1 - kn.1), len := c.2 : Piece }), acc.2 + kn.2)) ([], 0)).1

/-- Key ranges cut after n bytes. -/
def cutKeys (ks : List (Nat × Nat)) (n : Nat) : List (Nat × Nat) × List (Nat × Nat) :=
  match ks with
  | [] => ([], [])
  | k :: r =>
    if k.2 ≤ n then let x := cutKeys r (n - k.2); (k :: x.1, x.2)
    else if n = 0 then ([], k :: r)
    else ([(k.1, n)], (k.1 + n, k.2 - n) :: r)
/-- A piece that is offered to a registered inlet whole, as a store at its own address (R248, R262). -/
def inletPiece (key : Nat) (off : Word) (pos len : Nat) : Piece := { key := key, pos := pos, len := len, off := some off }
/-- The pieces of an access in translated space, 4 KiB page by page: what lies in a registered inlet is one (R248). -/
def pagePieces (s : State) (a : Word) (ks : List (Nat × Nat)) (pos : Nat) (pages : List (Nat × Nat)) : List Piece :=
  match pages with
  | [] => []
  | p :: r =>
    let x := cutKeys ks p.2
    (if (inletAt s s.myCtx p.1).isSome then [inletPiece ((x.1.headD (0, 0)).1) (BitVec.ofNat 64 pos) pos p.2]
     else (piecesOf x.1).map (fun q => { q with pos := q.pos + pos })) ++ pagePieces s a x.2 (pos + p.2) r
/-- The pieces of an access at its place: a peer's and a register's is one. -/
def placePieces (s : State) (a : Word) (p : Place) (n : Nat) : List Piece :=
  match p with
  | .near k => [{ key := k, pos := 0, len := n }]
  | .far ks =>
    let pages := cuts (addr48 a) n 4096
    if addr48 a < 0xFFF000000000 && pages.any (fun p => (inletAt s s.myCtx p.1).isSome) then pagePieces s a ks 0 pages else piecesOf ks
  | .peer _ va => [{ key := va, pos := 0, len := n }]
  | .register x => [{ key := x, pos := 0, len := n }]
/-- `dev` of a far access at a place. -/
def placeDev (p : Place) : Nat := match p with | .peer d _ => d + 1 | _ => 0

/-- A far access put on its way (R173, R178): it carries its taint, and is performed at its home by ACCESS_PERFORMED_AT_HOME. -/
def sendFar (s : State) (m : Mask) (kind : FarKind) (a : Word) (pieces : List Piece) (dev : Nat) (data : List Byte) (dest : Dest)
    (slot : Option Nat) (acq : Bool := false) (overlay : List (Nat × Byte) := []) : State × Nat :=
  let (s, id) := freshId s
  let s := if dev = 0 then s else (takePeerSlot s s.myCtx (dev - 1)).1
  ({ s with far := s.far ++ [{
      id := id, tid := s.cur, ctx := s.myCtx, kernel := s.kernelNow, wid := s.th.wid, pc := s.pcNow, kind := kind, addr := a,
      pieces := pieces, data := data, dest := dest, slot := slot, taint := m.taint, dev := dev, acq := acq, overlay := overlay }] }, id)

/-- The masks of a destination (R127). -/
def maskDest (s : State) (d : Dest) (m : Mask) : State :=
  match d with
  | .none => s
  | .x r _ _ => if r = 0 then s else s.setTh { s.th with xm := s.th.xm.set r.toNat m r.isLt }
  | .v r => s.setTh { s.th with vm := s.th.vm.set r.toNat m r.isLt }

/-- A far access that gives a value takes the lowest free slot, its bit in the destination's DMASK; with none free it is issued
blocking (R128). -/
def farWithSlot (s : State) (m : Mask) (kind : FarKind) (a : Word) (pieces : List Piece) (dev : Nat) (data : List Byte) (dest : Dest)
    (acq : Bool := false) (overlay : List (Nat × Byte) := []) : State :=
  match freeSlot s.th with
  | some i =>
    let (s, id) := sendFar s m kind a pieces dev data dest (some i) acq overlay
    let s := s.setTh { s.th with slots := s.th.slots.setIfInBounds i (.outstanding id) }
    maskDest s dest { m with d := m.d ||| slotBit i }
  | none =>
    let (s, id) := sendFar s m kind a pieces dev data dest none acq overlay
    maskDest (s.setTh { s.th with run := .blocked id }) dest m

/-- A destination written at once with bytes, and its masks. -/
def putDest (s : State) (m : Mask) (d : Dest) (bs : List Byte) : State :=
  match d with
  | .none => s
  | .x r bits sg => wrX s m r (extendTo bits sg (leNat bs))
  | .v r => wrV s m r (BitVec.ofNat 128 (leNat bs))

/-- A register-window access that a core may make (R349, R42): an 8-byte-aligned ld or sd in kernel mode. -/
def registerOk (s : State) (x n : Nat) : Bool := s.kernelNow && n == 8 && x % 8 == 0

/-- A load of n bytes at an address, by its class (R348, R349): local at once, far with a slot. -/
def loadEff (s : State) (m : Mask) (a : Word) (n : Nat) (dest : Dest) (acq : Bool := false) : Eff := do
  let (s, p) ← place s a n [rightRD]
  match p with
  | .near k =>
    let (s, bs) ← localRead s m a k n
    .ok (putDest s m dest bs)
  | p =>
    match p with
    | .peer d va => if peerLimit s d va false then waitE s else .ok ()
    | .register x => if registerOk s x n then .ok () else trapE s 0x11 a
    | _ => .ok ()
    let s := noteRead s (plainAddr s a) n
    let ovl := if buffers s then (match s.myAct with | some x => bufGet x.buf (plainAddr s a) n | none => []) else []
    .ok (farWithSlot s m .load a (placePieces s a p n) (placeDev p) [] dest acq ovl)

/-- A store of bytes at an address, by its class (R348, R349): local at once, far posted; in an ordered launch far stores go to the
commit buffer (R195), and a full buffer makes the activation irrevocable (R200). -/
def storeEff (s : State) (m : Mask) (a : Word) (bs : List Byte) : Eff := do
  let (s, p) ← place s a bs.length [rightWR]
  match p with
  | .near k => localWrite s m a k bs
  | p =>
    match p with
    | .register x => if registerOk s x bs.length then .ok () else trapE s 0x11 a
    | _ => .ok ()
    if buffers s then
      match s.myAct with
      | none => .ok s
      | some x =>
        if (m.taint &&& s.th.outstanding) != 0 then waitE s
        else match bufPut x.buf (plainAddr s a) bs with
          | some b => .ok (setAct s (logStore s { x with buf := b, wsig := x.wsig ||| sigRange (plainAddr s a) bs.length } a bs))
          | none => waitE (wantIrrevocable s)
    else
      match p with
      | .peer d va => if peerLimit s d va true then waitE s else .ok ()
      | _ => .ok ()
      .ok (noteStore (sendFar s m .store a (placePieces s a p bs.length) (placeDev p) bs .none none).1 a bs)

/-- The combined value of an atomic (R333, R355) on n bytes. -/
def AmoOp.apply (op : AmoOp) (n : Nat) (old x cmp : Nat) : Nat :=
  let w := 8 * n
  let o := old % 2 ^ w; let y := x % 2 ^ w
  match op with
  | .swap => y
  | .add => (o + y) % 2 ^ w
  | .and => o &&& y
  | .or => o ||| y
  | .xor => o ^^^ y
  | .min => if toSigned w o < toSigned w y then o else y
  | .max => if toSigned w o < toSigned w y then y else o
  | .minu => Nat.min o y
  | .maxu => Nat.max o y
  | .cas => if o = cmp % 2 ^ w then y else o

/-- An atomic at a local word: old value to rd, the combined value to the word (R352). -/
def localAmo (s : State) (m : Mask) (a : Word) (k n : Nat) (op : AmoOp) (x cmp : Word) (d : Reg) : Eff := do
  let (s, bs) ← localRead s m a k n
  let old := leNat bs
  let new := op.apply n old x.toNat cmp.toNat
  let s' := if op == .cas && old != cmp.toNat % 2 ^ (8 * n) then s else memWrite s k (natBytes n new)
  .ok (wrX s' m d (extendTo (8 * n) true old))

/-- A plain atomic (R352): alignment before translation, local at once, far with a slot; in an ordered launch a far one makes the
activation irrevocable first (R200). -/
def amoEff (s : State) (m : Mask) (a : Word) (n : Nat) (op : AmoOp) (x : Word) (d : Reg) : Eff := do
  if a.toNat % n != 0 then trapE s 0x05 a
  else
    let (s, p) ← place s a n [rightRD, rightWR]
    match p with
    | .near k => localAmo s m a k n op x 0 d
    | .register _ => trapE s 0x11 a
    | p =>
      if mustIrrevocable s then waitE (wantIrrevocable s)
      else
        match p with
        | .peer dv va => if peerLimit s dv va false then waitE s else .ok ()
        | _ => .ok ()
        let id := s.nextId
        .ok (noteAtomic (farWithSlot (noteRead s (plainAddr s a) n) m (.atomic op x 0 false) a (placePieces s a p n) (placeDev p) []
          (.x d (8 * n) true)) id a n)

/-- A blocking 8-byte read of a thread set (R358): local at once, far performed at its home before anything else of the thread set;
none where it fails at its home, with its fault record (R166). -/
def blockingRead (s : State) (m : Mask) (a : Word) : Except Stop (State × Option Word × Nat) := do
  if addr48 a < 0xFFF000000000 && (deviceField a = 0 || deviceField a = ownId s + 1) && (inletAt s s.myCtx (addr48 a)).isSome then trapE s 0x11 a
  let (s, p) ← place s a 8 [rightRD]
  match p with
  | .near k =>
    let (s, bs) ← localRead s m a k 8
    .ok (s, some (leWord bs), k)
  | .far ks =>
      let k := (ks.headD (0, 0)).1
      let s ← localArrive s m k 8
      let s := noteRead s (plainAddr s a) 8
      let ovl := if buffers s then (match s.myAct with | some x => bufGet x.buf (plainAddr s a) 8 | none => []) else []
      match homeFails s k 8 true with
      | some c => .ok (writeFault (countUe s [(k, 8)] c) s.myCtx { dev := ownId s, tid := some s.cur, agent := 0, code := c, addr := a, wid := s.th.wid, pc := s.pcNow }, none, k)
      | none =>
        let bs := (memRead s k 8).mapIdx (fun i b => match ovl.find? (fun p => p.1 == i) with | some p => p.2 | none => b)
        .ok (s, some (leWord bs), k)
  | .peer _ _ => trapE s 0x10 a
  | .register _ => trapE s 0x11 a

end Sys2Proof.Machine
end

