-- ==== Sys2Proof/Machine/Amo.lean ====
section
/-! DEFINITION. Machine/Amo.lean: the plain atomics of the base subset (R333, R352). aq and rl order nothing. -/
namespace Sys2Proof.Machine

/-- A plain atomic on a word of n bytes: the old value to rd, sign-extended, the combined value to the word (R333). -/
def plainAmo (i : Instr) (op : AmoOp) (n : Nat) (d a b : Reg) (s : State) : Host.Outcome State Fault Refusal :=
  issueD i { rx := [a, b], wx := [d], mem := some { base := a, off := 0, size := n, store := true, dx := [b] } }
    (fun m s => amoEff s m (rdX s a) n op (rdX s b) d) s

/-- R333, R352: amoadd.w. -/
def execAmoaddW (d a b : Reg) (q l : BitVec 1) (s : State) : Host.Outcome State Fault Refusal := plainAmo (.amoaddW d a b q l) .add 4 d a b s

/-- R333, R352: amoadd.d. -/
def execAmoaddD (d a b : Reg) (q l : BitVec 1) (s : State) : Host.Outcome State Fault Refusal := plainAmo (.amoaddD d a b q l) .add 8 d a b s

/-- R333, R352: amoswap.w. -/
def execAmoswapW (d a b : Reg) (q l : BitVec 1) (s : State) : Host.Outcome State Fault Refusal := plainAmo (.amoswapW d a b q l) .swap 4 d a b s

/-- R333, R352: amoswap.d. -/
def execAmoswapD (d a b : Reg) (q l : BitVec 1) (s : State) : Host.Outcome State Fault Refusal := plainAmo (.amoswapD d a b q l) .swap 8 d a b s

/-- R333, R352: amoxor.w. -/
def execAmoxorW (d a b : Reg) (q l : BitVec 1) (s : State) : Host.Outcome State Fault Refusal := plainAmo (.amoxorW d a b q l) .xor 4 d a b s

/-- R333, R352: amoxor.d. -/
def execAmoxorD (d a b : Reg) (q l : BitVec 1) (s : State) : Host.Outcome State Fault Refusal := plainAmo (.amoxorD d a b q l) .xor 8 d a b s

/-- R333, R352: amoor.w. -/
def execAmoorW (d a b : Reg) (q l : BitVec 1) (s : State) : Host.Outcome State Fault Refusal := plainAmo (.amoorW d a b q l) .or 4 d a b s

/-- R333, R352: amoor.d. -/
def execAmoorD (d a b : Reg) (q l : BitVec 1) (s : State) : Host.Outcome State Fault Refusal := plainAmo (.amoorD d a b q l) .or 8 d a b s

/-- R333, R352: amoand.w. -/
def execAmoandW (d a b : Reg) (q l : BitVec 1) (s : State) : Host.Outcome State Fault Refusal := plainAmo (.amoandW d a b q l) .and 4 d a b s

/-- R333, R352: amoand.d. -/
def execAmoandD (d a b : Reg) (q l : BitVec 1) (s : State) : Host.Outcome State Fault Refusal := plainAmo (.amoandD d a b q l) .and 8 d a b s

/-- R333, R352: amomin.w. -/
def execAmominW (d a b : Reg) (q l : BitVec 1) (s : State) : Host.Outcome State Fault Refusal := plainAmo (.amominW d a b q l) .min 4 d a b s

/-- R333, R352: amomin.d. -/
def execAmominD (d a b : Reg) (q l : BitVec 1) (s : State) : Host.Outcome State Fault Refusal := plainAmo (.amominD d a b q l) .min 8 d a b s

/-- R333, R352: amomax.w. -/
def execAmomaxW (d a b : Reg) (q l : BitVec 1) (s : State) : Host.Outcome State Fault Refusal := plainAmo (.amomaxW d a b q l) .max 4 d a b s

/-- R333, R352: amomax.d. -/
def execAmomaxD (d a b : Reg) (q l : BitVec 1) (s : State) : Host.Outcome State Fault Refusal := plainAmo (.amomaxD d a b q l) .max 8 d a b s

/-- R333, R352: amominu.w. -/
def execAmominuW (d a b : Reg) (q l : BitVec 1) (s : State) : Host.Outcome State Fault Refusal := plainAmo (.amominuW d a b q l) .minu 4 d a b s

/-- R333, R352: amominu.d. -/
def execAmominuD (d a b : Reg) (q l : BitVec 1) (s : State) : Host.Outcome State Fault Refusal := plainAmo (.amominuD d a b q l) .minu 8 d a b s

/-- R333, R352: amomaxu.w. -/
def execAmomaxuW (d a b : Reg) (q l : BitVec 1) (s : State) : Host.Outcome State Fault Refusal := plainAmo (.amomaxuW d a b q l) .maxu 4 d a b s

/-- R333, R352: amomaxu.d. -/
def execAmomaxuD (d a b : Reg) (q l : BitVec 1) (s : State) : Host.Outcome State Fault Refusal := plainAmo (.amomaxuD d a b q l) .maxu 8 d a b s

end Sys2Proof.Machine
end

