-- ==== Sys2Proof/Machine/Fp.lean ====
section
/-! DEFINITION. Machine/Fp.lean: the number formats (R222, R223), exact values, the one rounding (R225 to R228, R231), conversions by
class (R227), and the exact arithmetic of lanes and nodes (R239, R240, R370). A value is (-1)^S × m × 2^e. -/
namespace Sys2Proof.Machine

/-- The floating-point formats of R223; e8m10 is a table entry. -/
inductive Fmt where
  | f32 | f16 | bf16 | e5m2 | e4m3 | e3m2 | e2m3 | e2m1 | e8m10
  deriving DecidableEq, Repr

/-- Mantissa bits. -/
def Fmt.mant : Fmt → Nat
  | .f32 => 23 | .f16 => 10 | .bf16 => 7 | .e5m2 => 2 | .e4m3 => 3 | .e3m2 => 2 | .e2m3 => 3 | .e2m1 => 1 | .e8m10 => 10
/-- Exponent bits. -/
def Fmt.expo : Fmt → Nat
  | .f32 => 8 | .f16 => 5 | .bf16 => 8 | .e5m2 => 5 | .e4m3 => 4 | .e3m2 => 3 | .e2m3 => 2 | .e2m1 => 2 | .e8m10 => 8
/-- Bias. -/
def Fmt.bias : Fmt → Nat
  | .f32 => 127 | .f16 => 15 | .bf16 => 127 | .e5m2 => 15 | .e4m3 => 7 | .e3m2 => 3 | .e2m3 => 1 | .e2m1 => 1 | .e8m10 => 127
/-- Whether the largest exponent holds infinity and NaNs. -/
def Fmt.ieee : Fmt → Bool
  | .f32 | .f16 | .bf16 | .e5m2 | .e8m10 => true
  | .e4m3 | .e3m2 | .e2m3 | .e2m1 => false
/-- Whether NaNs with a clear mantissa MSB are signaling (R224). -/
def Fmt.signals : Fmt → Bool
  | .f32 | .f16 | .bf16 => true
  | _ => false
/-- Whether an overflow or infinity always gives the largest finite value (R226). -/
def Fmt.saturates : Fmt → Bool
  | .e3m2 | .e2m3 | .e2m1 => true
  | _ => false
/-- Total bits. -/
def Fmt.width (f : Fmt) : Nat := 1 + f.expo + f.mant
/-- The encoding of the largest finite magnitude. -/
def Fmt.maxBits (f : Fmt) : Nat :=
  if f.ieee then (2 ^ f.expo - 1) * 2 ^ f.mant - 1 else if f = .e4m3 then 0x7E else 2 ^ (f.expo + f.mant) - 1
/-- The encoding of the canonical NaN (R224); +0 where the format has none (R227). -/
def Fmt.nan : Fmt → Nat
  | .f32 => 0x7FC00000 | .bf16 => 0x7FC0 | .f16 => 0x7E00 | .e4m3 => 0x7F | .e5m2 => 0x7F
  | .e8m10 => 0x3FE00 | .e3m2 | .e2m3 | .e2m1 => 0
/-- The sign bit's weight where the sign is set. -/
def Fmt.sign (f : Fmt) (neg : Bool) : Nat := if neg then 2 ^ (f.expo + f.mant) else 0
/-- The encoding of an infinity; in e4m3 the NaN of that sign (R226). -/
def Fmt.inf (f : Fmt) (neg : Bool) : Nat :=
  f.sign neg + (if f.ieee then (2 ^ f.expo - 1) * 2 ^ f.mant else if f = .e4m3 then 0x7F else f.maxBits)

/-- A value by class. -/
inductive FVal where
  | nan (signaling : Bool)
  | inf (neg : Bool)
  | fin (neg : Bool) (m : Nat) (e : Int)
  deriving DecidableEq, Repr

/-- The value of an encoding (R223). -/
def Fmt.value (f : Fmt) (bits : Nat) : FVal :=
  let mm := bits % 2 ^ f.mant
  let ee := bits / 2 ^ f.mant % 2 ^ f.expo
  let s := bits / 2 ^ (f.expo + f.mant) % 2 == 1
  if f.ieee && ee == 2 ^ f.expo - 1 then
    (if mm = 0 then .inf s else .nan (f.signals && mm < 2 ^ (f.mant - 1)))
  else if f == .e4m3 && ee == 15 && mm == 7 then .nan false
  else if ee = 0 then .fin s mm (1 - (f.bias : Int) - f.mant)
  else .fin s (2 ^ f.mant + mm) (ee - (f.bias : Int) - f.mant)

/-! ## Flags (R144): NV 16, DZ 8, OF 4, UF 2, NX 1 -/

/-- FFLAGS bits. -/
abbrev FFlags := BitVec 5
/-- NV. -/
def fNV : FFlags := 16
/-- DZ. -/
def fDZ : FFlags := 8
/-- OF. -/
def fOF : FFlags := 4
/-- UF. -/
def fUF : FFlags := 2
/-- NX. -/
def fNX : FFlags := 1

/-! ## Rounding (R225, R231) -/

/-- Rounding modes (R316): 0 RNE, 1 RTZ, 2 RDN, 3 RUP, 4 RNA, 5 SR. -/
abbrev RMode := Nat

/-- Whether the neighbour of larger magnitude is taken: `q` the smaller neighbour's last digits, r/d the discarded fraction. -/
def roundUp (mode : RMode) (draw : Nat) (neg : Bool) (q r d : Nat) : Bool :=
  match mode with
  | 0 => decide (d < 2 * r) || (2 * r == d && q % 2 == 1)
  | 1 => false
  | 2 => neg && r != 0
  | 3 => !neg && r != 0
  | 4 => decide (d ≤ 2 * r) && r != 0
  | _ => decide (2 ^ 32 ≤ r * 2 ^ 32 / d + draw)

/-- m × 2^e on the grid of 2^g: (floor, numerator, denominator of the discarded fraction). -/
def onGrid (m : Nat) (e g : Int) : Nat × Nat × Nat :=
  if g ≤ e then (m * 2 ^ (e - g).toNat, 0, 1)
  else (m / 2 ^ (g - e).toNat, m % 2 ^ (g - e).toNat, 2 ^ (g - e).toNat)

/-- floor(log2(m × 2^e)) for m > 0. -/
def floorLog2 (m : Nat) (e : Int) : Int := (Nat.log2 m : Int) + e

/-- The exponent of the grid of a format at m × 2^e (R225). -/
def Fmt.gridAt (f : Fmt) (m : Nat) (e : Int) : Int := max (1 - (f.bias : Int) - f.mant) (floorLog2 m e - f.mant)

/-- The encoding of q × 2^g, a point of the format's grid with an unbounded exponent; none beyond the largest finite value. -/
def Fmt.encodeFin (f : Fmt) (q : Nat) (g : Int) : Option Nat :=
  if q = 0 then some 0
  else
    let q1 := if 2 ^ (f.mant + 1) ≤ q then q / 2 else q
    let g1 := if 2 ^ (f.mant + 1) ≤ q then g + 1 else g
    let b := if q1 < 2 ^ f.mant then q1 else (g1 + f.mant + f.bias).toNat * 2 ^ f.mant + (q1 - 2 ^ f.mant)
    if b ≤ f.maxBits then some b else none

/-- The result of an overflow (R226), with SAT. -/
def Fmt.overflow (f : Fmt) (mode : RMode) (sat neg : Bool) : Nat :=
  let toMax := f.saturates || sat || mode == 1 || (mode == 2 && !neg) || (mode == 3 && neg)
  if toMax then f.sign neg + f.maxBits else f.inf neg

/-- An exact finite value rounded to a format, with its flags (R225, R226, R228). A zero keeps its sign. -/
def Fmt.round (f : Fmt) (mode : RMode) (draw : Nat) (sat neg : Bool) (m : Nat) (e : Int) : Nat × FFlags :=
  if m = 0 then (f.sign neg, 0)
  else
    let g := f.gridAt m e
    let (q, r, d) := onGrid m e g
    let q' := if roundUp mode draw neg q r d then q + 1 else q
    match f.encodeFin q' g with
    | none => (f.overflow mode sat neg, fOF ||| fNX)
    | some b =>
      let tiny := decide (floorLog2 m e < 1 - (f.bias : Int))
      (f.sign neg + b, if r = 0 then 0 else if tiny then fUF ||| fNX else fNX)

/-- An exact finite value rounded to an integer: the integer and whether it is inexact. -/
def roundInt (mode : RMode) (draw : Nat) (neg : Bool) (m : Nat) (e : Int) : Int × Bool :=
  let (q, r, d) := onGrid m e 0
  let q' := if roundUp mode draw neg q r d then q + 1 else q
  (if neg then -(q' : Int) else q', r != 0)

/-- A value converted to a floating-point format by its class (R227). -/
def Fmt.convert (f : Fmt) (mode : RMode) (draw : Nat) (sat : Bool) (v : FVal) : Nat × FFlags :=
  match v with
  | .nan sg => if f.saturates then (0, fNV) else (f.nan, if sg then fNV else 0)
  | .inf s =>
    if f.saturates then (f.sign s + f.maxBits, fNV)
    else if sat then (f.sign s + f.maxBits, fOF ||| fNX)
    else (f.inf s, if f = .e4m3 then fNV else 0)
  | .fin s m e => f.round mode draw sat s m e

/-- A value converted to an integer of w bits (R227): out of range, NaN and infinity set NV alone. -/
def convertInt (w : Nat) (signed : Bool) (mode : RMode) (draw : Nat) (v : FVal) : Nat × FFlags :=
  let hi : Int := if signed then 2 ^ (w - 1) - 1 else 2 ^ w - 1
  let lo : Int := if signed then -(2 ^ (w - 1)) else 0
  match v with
  | .nan _ => (0, fNV)
  | .inf s => (ofSigned w (if s then lo else hi), fNV)
  | .fin s m e =>
    let (i, x) := roundInt mode draw s m e
    if i < lo then (ofSigned w lo, fNV) else if hi < i then (ofSigned w hi, fNV)
    else (ofSigned w i, if x then fNX else 0)

/-- A value converted to an mxi8 element: multiples of 2^-6 (R223, R227). -/
def convertMxi8 (mode : RMode) (draw : Nat) (v : FVal) : Nat × FFlags :=
  match v with
  | .nan _ => (0, fNV)
  | .inf s => (if s then 0x80 else 127, fNV)
  | .fin s m e =>
    let (i, x) := roundInt mode draw s m (e + 6)
    if i < -128 then (0x80, fOF ||| fNX) else if 127 < i then (127, fOF ||| fNX)
    else (ofSigned 8 i, if x then fNX else 0)

/-! ## Exact arithmetic -/

/-- The sum of two values, exactly; `rdn` tells that a cancelling zero is -0 (R225). The flag is NV (R370). -/
def FVal.add (x y : FVal) (rdn : Bool) : FVal × FFlags :=
  match x, y with
  | .nan a, .nan b => (.nan false, if a || b then fNV else 0)
  | .nan a, _ => (.nan false, if a then fNV else 0)
  | _, .nan b => (.nan false, if b then fNV else 0)
  | .inf a, .inf b => if a = b then (.inf a, 0) else (.nan false, fNV)
  | .inf a, _ => (.inf a, 0)
  | _, .inf b => (.inf b, 0)
  | .fin a m e, .fin b n k =>
    let g := min e k
    let xi : Int := (m * 2 ^ (e - g).toNat : Nat)
    let yi : Int := (n * 2 ^ (k - g).toNat : Nat)
    let t := (if a then -xi else xi) + (if b then -yi else yi)
    if t = 0 then (.fin (if a = b then a else rdn) 0 0, 0) else (.fin (decide (t < 0)) t.natAbs g, 0)

/-- The product of two values, exactly. -/
def FVal.mul (x y : FVal) : FVal × FFlags :=
  match x, y with
  | .nan a, .nan b => (.nan false, if a || b then fNV else 0)
  | .nan a, _ => (.nan false, if a then fNV else 0)
  | _, .nan b => (.nan false, if b then fNV else 0)
  | .inf a, .inf b => (.inf (a != b), 0)
  | .inf a, .fin b n _ => if n = 0 then (.nan false, fNV) else (.inf (a != b), 0)
  | .fin a m _, .inf b => if m = 0 then (.nan false, fNV) else (.inf (a != b), 0)
  | .fin a m e, .fin b n k => (.fin (a != b) (m * n) (e + k), 0)

/-- The negation of a value. -/
def FVal.neg : FVal → FVal
  | .nan s => .nan s
  | .inf a => .inf (!a)
  | .fin a m e => .fin (!a) m e

/-- Whether a value is a NaN. -/
def FVal.isNan : FVal → Bool
  | .nan _ => true
  | _ => false
/-- Whether a value is a signaling NaN. -/
def FVal.isSig : FVal → Bool
  | .nan s => s
  | _ => false
/-- Whether a value is finite. -/
def FVal.isFin : FVal → Bool
  | .fin _ _ _ => true
  | _ => false
/-- The sign. -/
def FVal.negative : FVal → Bool
  | .nan _ => false
  | .inf a => a
  | .fin a _ _ => a

/-- x < y as exact values; false where either is a NaN. -/
def FVal.lt (x y : FVal) : Bool :=
  match x, y with
  | .nan _, _ => false
  | _, .nan _ => false
  | .inf a, .inf b => a && !b
  | .inf a, .fin _ _ _ => a
  | .fin _ _ _, .inf b => !b
  | .fin a m e, .fin b n k =>
    let g := min e k
    let xi : Int := (m * 2 ^ (e - g).toNat : Nat)
    let yi : Int := (n * 2 ^ (k - g).toNat : Nat)
    decide ((if a then -xi else xi) < (if b then -yi else yi))
/-- x = y as exact values, -0 equal to +0; false where either is a NaN. -/
def FVal.eq (x y : FVal) : Bool := !x.isNan && !y.isNan && !x.lt y && !y.lt x

/-- The lesser of two values that are no NaN, -0 below +0 (R239). -/
def FVal.minOf (x y : FVal) : FVal := if x.lt y then x else if y.lt x then y else if x.negative then x else y
/-- The greater of two values that are no NaN. -/
def FVal.maxOf (x y : FVal) : FVal := if x.lt y then y else if y.lt x then x else if x.negative then y else x

/-- The rounding of an exact result to a lane (R239, R370). -/
def Fmt.lane (f : Fmt) (mode : RMode) (draw : Nat) (r : FVal × FFlags) : Nat × FFlags :=
  match r.1 with
  | .nan _ => (f.nan, r.2)
  | .inf s => (f.inf s, r.2)
  | .fin s m e => let (b, fl) := f.round mode draw false s m e; (b, fl ||| r.2)

/-- a + b in a format (R239). -/
def Fmt.addL (f : Fmt) (mode : RMode) (draw a b : Nat) : Nat × FFlags := f.lane mode draw ((f.value a).add (f.value b) (mode == 2))
/-- a - b in a format. -/
def Fmt.subL (f : Fmt) (mode : RMode) (draw a b : Nat) : Nat × FFlags := f.lane mode draw ((f.value a).add (f.value b).neg (mode == 2))
/-- a × b in a format. -/
def Fmt.mulL (f : Fmt) (mode : RMode) (draw a b : Nat) : Nat × FFlags := f.lane mode draw ((f.value a).mul (f.value b))
/-- c + a × b, rounded once. -/
def FVal.fma (a b c : FVal) (rdn : Bool) : FVal × FFlags :=
  let (p, f1) := a.mul b
  let (r, f2) := p.add c rdn
  (r, f1 ||| f2)
/-- c + a × b in a format. -/
def Fmt.fmaL (f : Fmt) (mode : RMode) (draw a b c : Nat) : Nat × FFlags :=
  f.lane mode draw ((f.value a).fma (f.value b) (f.value c) (mode == 2))
/-- The minimum or maximum of R239 in a format: any NaN gives the canonical NaN, NV only for a signaling one. -/
def Fmt.minmaxL (f : Fmt) (max : Bool) (a b : Nat) : Nat × FFlags :=
  let x := f.value a; let y := f.value b
  if x.isNan || y.isNan then (f.nan, if x.isSig || y.isSig then fNV else 0)
  else if max then ((if x.lt y then b else if y.lt x then a else if x.negative then b else a), 0)
  else ((if x.lt y then a else if y.lt x then b else if x.negative then a else b), 0)

/-- RNE32(a + b) on f32 encodings (R240, R78, R257, R271). -/
def addRNE32 (a b : Nat) : Nat × FFlags := Fmt.f32.addL 0 0 a b
/-- RNE32(c + a × b) for bf16 a, b and f32 c (R238). -/
def macRNE32 (c a b : Nat) : Nat := (Fmt.f32.lane 0 0 ((Fmt.bf16.value a).fma (Fmt.bf16.value b) (Fmt.f32.value c) false)).1
/-- A value of a format widened exactly to f32 (R223); a NaN becomes the canonical one. -/
def Fmt.widen32 (f : Fmt) (b : Nat) : Nat × FFlags := Fmt.f32.convert 0 0 false (f.value b)

/-! ## The pairwise tree (R240) -/

/-- One level: results 2i and 2i + 1 combined. -/
def treeLevel {α : Type} (f : α → α → α) (l : List α) : List α :=
  match l with
  | a :: b :: r => f a b :: treeLevel f r
  | r => r
/-- n levels of the tree. -/
def treeFold {α : Type} (f : α → α → α) (n : Nat) (l : List α) : List α :=
  match n with
  | 0 => l
  | n + 1 => treeFold f n (treeLevel f l)

end Sys2Proof.Machine
end

