-- ==== Sys2Proof/Machine/Flags.lean ====
section
/-! DEFINITION. Machine/Flags.lean: FFLAGS, FRM and SRCTR of a thread set (R144, R228), and the draws of stochastic rounding (R230, R369). -/
namespace Sys2Proof.Machine

/-- Flags ORed into FFLAGS (R228). -/
def orFlags (s : State) (f : FFlags) : State := s.setTh { s.th with fflags := s.th.fflags ||| f }
/-- The dynamic rounding mode. -/
def State.frmNow (s : State) : RMode := s.th.frm.toNat
/-- LSEED: the seed latched by the launch (R144). -/
def State.lseed (s : State) : Word := match launchOf s s.cur with | some l => l.seed | none => 0
/-- The stream selector and the element counter of SRCTR. -/
def srSel (c : Word) : Nat := c.toNat / 2 ^ 32
/-- The element counter of SRCTR. -/
def srCnt (c : Word) : Nat := c.toNat % 2 ^ 32
/-- n draws from an element counter, in order (R230). -/
def drawsFrom (lseed wid : Word) (sel e n : Nat) : List Nat :=
  (List.range n).map (fun i => drawOf lseed.toNat sel wid.toNat ((e + i) % 2 ^ 32))
/-- n draws of the executing thread set: SRCTR [31:0] advances by n (R230). [DEDUCED, unsafe: log 111] -/
def takeDraws (s : State) (n : Nat) : State × List Nat :=
  let c := s.th.srctr
  (s.setTh { s.th with srctr := BitVec.ofNat 64 (srSel c * 2 ^ 32 + (srCnt c + n) % 2 ^ 32) },
   drawsFrom s.lseed s.th.wid (srSel c) (srCnt c) n)
/-- The draws of an instruction that rounds n lanes in a mode: none taken but in SR. -/
def modeDraws (s : State) (mode : RMode) (n : Nat) : State × List Nat := if mode = 5 then takeDraws s n else (s, List.replicate n 0)

end Sys2Proof.Machine
end

