-- ==== Sys2Proof/Machine/Integer.lean ====
section
/-! DEFINITION. Machine/Integer.lean: the integer instructions of the base subset (R329, R330): RV64I, M, Zba and Zbb without memory and
control. They set no flag and never trap. -/
namespace Sys2Proof.Machine

/-! ## Functions of Zbb and M on words -/

/-- Trailing zeros of x within n bits. -/
def ctzN (n x : Nat) : Nat :=
  match n with
  | 0 => 0
  | n + 1 => if x % 2 = 1 then 0 else 1 + ctzN n (x / 2)
/-- Leading zeros of x within n bits. -/
def clzN (n x : Nat) : Nat := if x = 0 then n else n - 1 - Nat.log2 x
/-- Set bits of x within n bits. -/
def popN (n x : Nat) : Nat :=
  match n with
  | 0 => 0
  | n + 1 => x % 2 + popN n (x / 2)
/-- The bytes of a word, lowest first. -/
def bytesOf (x : Word) : List Nat := (List.range 8).map (fun i => x.toNat / 2 ^ (8 * i) % 256)
/-- orc.b: each byte all ones where it has a set bit. -/
def orcBytes (x : Word) : Word := BitVec.ofNat 64 (packNat 8 ((bytesOf x).map (fun b => if b = 0 then 0 else 255)))
/-- rev8: the bytes in the other order. -/
def revBytes (x : Word) : Word := BitVec.ofNat 64 (packNat 8 (bytesOf x).reverse)
/-- The low 32 bits. -/
def lo32 (x : Word) : BitVec 32 := x.truncate 32
/-- Signed division with the specification's results for a zero divisor and for overflow. -/
def divS {w : Nat} (x y : BitVec w) : BitVec w := if y = 0 then BitVec.allOnes w else x.sdiv y
/-- Unsigned division. -/
def divU {w : Nat} (x y : BitVec w) : BitVec w := if y = 0 then BitVec.allOnes w else x / y
/-- Signed remainder. -/
def remS {w : Nat} (x y : BitVec w) : BitVec w := if y = 0 then x else x.srem y
/-- Unsigned remainder. -/
def remU {w : Nat} (x y : BitVec w) : BitVec w := if y = 0 then x else x % y
/-- A truth value as a word. -/
def boolW (b : Bool) : Word := if b then 1 else 0

/-! ## Shapes -/

/-- An instruction that writes an x register from two others. -/
def aluRR (i : Instr) (d a b : Reg) (f : Word → Word → Word) (s : State) : Host.Outcome State Fault Refusal :=
  issueD i { rx := [a, b], wx := [d] } (fun m s => .ok (wrX s m d (f (rdX s a) (rdX s b)))) s
/-- An instruction that writes an x register from one other and its immediate. -/
def aluRI (i : Instr) (d a : Reg) (f : Word → Word) (s : State) : Host.Outcome State Fault Refusal :=
  issueD i { rx := [a], wx := [d] } (fun m s => .ok (wrX s m d (f (rdX s a)))) s
/-- An instruction that writes an x register from no register. -/
def aluI (i : Instr) (d : Reg) (f : State → Word) (s : State) : Host.Outcome State Fault Refusal :=
  issueD i { wx := [d] } (fun m s => .ok (wrX s m d (f s))) s

/-! ## Meanings -/

/-- R330: lui. The masks of its destination are empty. -/
def execLui (d : Reg) (i : BitVec 20) (s : State) : Host.Outcome State Fault Refusal := aluI (.lui d i) d (fun _ => imm20 i) s

/-- R330: auipc: the instruction's own address plus the immediate. -/
def execAuipc (d : Reg) (i : BitVec 20) (s : State) : Host.Outcome State Fault Refusal :=
  aluI (.auipc d i) d (fun s => s.pcNow + imm20 i) s

/-- R330: add immediate. -/
def execAddi (d a : Reg) (i : BitVec 12) (s : State) : Host.Outcome State Fault Refusal :=
  aluRI (.addi d a i) d a (fun x => x + imm12 i) s

/-- R330: set if less, signed. -/
def execSlti (d a : Reg) (i : BitVec 12) (s : State) : Host.Outcome State Fault Refusal :=
  aluRI (.slti d a i) d a (fun x => boolW (x.slt (imm12 i))) s

/-- R330: set if less, unsigned. -/
def execSltiu (d a : Reg) (i : BitVec 12) (s : State) : Host.Outcome State Fault Refusal :=
  aluRI (.sltiu d a i) d a (fun x => boolW (x.ult (imm12 i))) s

/-- R330: exclusive or. -/
def execXori (d a : Reg) (i : BitVec 12) (s : State) : Host.Outcome State Fault Refusal :=
  aluRI (.xori d a i) d a (fun x => x ^^^ imm12 i) s

/-- R330: or. -/
def execOri (d a : Reg) (i : BitVec 12) (s : State) : Host.Outcome State Fault Refusal :=
  aluRI (.ori d a i) d a (fun x => x ||| imm12 i) s

/-- R330: and. -/
def execAndi (d a : Reg) (i : BitVec 12) (s : State) : Host.Outcome State Fault Refusal :=
  aluRI (.andi d a i) d a (fun x => x &&& imm12 i) s

/-- R330: shift left. -/
def execSlli (d a : Reg) (i : BitVec 6) (s : State) : Host.Outcome State Fault Refusal :=
  aluRI (.slli d a i) d a (fun x => x <<< i.toNat) s

/-- R330: shift right, logical. -/
def execSrli (d a : Reg) (i : BitVec 6) (s : State) : Host.Outcome State Fault Refusal :=
  aluRI (.srli d a i) d a (fun x => x >>> i.toNat) s

/-- R330: shift right, arithmetic. -/
def execSrai (d a : Reg) (i : BitVec 6) (s : State) : Host.Outcome State Fault Refusal :=
  aluRI (.srai d a i) d a (fun x => x.sshiftRight i.toNat) s

/-- R330: count leading zeros. -/
def execClz (d a : Reg) (s : State) : Host.Outcome State Fault Refusal :=
  aluRI (.clz d a) d a (fun x => BitVec.ofNat 64 (clzN 64 x.toNat)) s

/-- R330: count trailing zeros. -/
def execCtz (d a : Reg) (s : State) : Host.Outcome State Fault Refusal :=
  aluRI (.ctz d a) d a (fun x => BitVec.ofNat 64 (ctzN 64 x.toNat)) s

/-- R330: count set bits. -/
def execCpop (d a : Reg) (s : State) : Host.Outcome State Fault Refusal :=
  aluRI (.cpop d a) d a (fun x => BitVec.ofNat 64 (popN 64 x.toNat)) s

/-- R330: sign-extend a byte. -/
def execSextB (d a : Reg) (s : State) : Host.Outcome State Fault Refusal :=
  aluRI (.sextB d a) d a (fun x => (x.truncate 8).signExtend 64) s

/-- R330: sign-extend a half-word. -/
def execSextH (d a : Reg) (s : State) : Host.Outcome State Fault Refusal :=
  aluRI (.sextH d a) d a (fun x => (x.truncate 16).signExtend 64) s

/-- R330: rotate right. -/
def execRori (d a : Reg) (i : BitVec 6) (s : State) : Host.Outcome State Fault Refusal :=
  aluRI (.rori d a i) d a (fun x => x.rotateRight i.toNat) s

/-- R330: or-combine within bytes. -/
def execOrcB (d a : Reg) (s : State) : Host.Outcome State Fault Refusal :=
  aluRI (.orcB d a) d a (fun x => orcBytes x) s

/-- R330: reverse bytes. -/
def execRev8 (d a : Reg) (s : State) : Host.Outcome State Fault Refusal :=
  aluRI (.rev8 d a) d a (fun x => revBytes x) s

/-- R330: add immediate, 32 bits. -/
def execAddiw (d a : Reg) (i : BitVec 12) (s : State) : Host.Outcome State Fault Refusal :=
  aluRI (.addiw d a i) d a (fun x => sextW (x + imm12 i)) s

/-- R330: shift left, 32 bits. -/
def execSlliw (d a : Reg) (i : BitVec 5) (s : State) : Host.Outcome State Fault Refusal :=
  aluRI (.slliw d a i) d a (fun x => sextW (x <<< i.toNat)) s

/-- R330: shift left of the zero-extended word. -/
def execSlliUw (d a : Reg) (i : BitVec 6) (s : State) : Host.Outcome State Fault Refusal :=
  aluRI (.slliUw d a i) d a (fun x => zextW x <<< i.toNat) s

/-- R330: shift right logical, 32 bits. -/
def execSrliw (d a : Reg) (i : BitVec 5) (s : State) : Host.Outcome State Fault Refusal :=
  aluRI (.srliw d a i) d a (fun x => (lo32 x >>> i.toNat).signExtend 64) s

/-- R330: shift right arithmetic, 32 bits. -/
def execSraiw (d a : Reg) (i : BitVec 5) (s : State) : Host.Outcome State Fault Refusal :=
  aluRI (.sraiw d a i) d a (fun x => ((lo32 x).sshiftRight i.toNat).signExtend 64) s

/-- R330: rotate right, 32 bits. -/
def execRoriw (d a : Reg) (i : BitVec 5) (s : State) : Host.Outcome State Fault Refusal :=
  aluRI (.roriw d a i) d a (fun x => ((lo32 x).rotateRight i.toNat).signExtend 64) s

/-- R330: count leading zeros, 32 bits. -/
def execClzw (d a : Reg) (s : State) : Host.Outcome State Fault Refusal :=
  aluRI (.clzw d a) d a (fun x => BitVec.ofNat 64 (clzN 32 (lo32 x).toNat)) s

/-- R330: count trailing zeros, 32 bits. -/
def execCtzw (d a : Reg) (s : State) : Host.Outcome State Fault Refusal :=
  aluRI (.ctzw d a) d a (fun x => BitVec.ofNat 64 (ctzN 32 (lo32 x).toNat)) s

/-- R330: count set bits, 32 bits. -/
def execCpopw (d a : Reg) (s : State) : Host.Outcome State Fault Refusal :=
  aluRI (.cpopw d a) d a (fun x => BitVec.ofNat 64 (popN 32 (lo32 x).toNat)) s

/-- R330: add. -/
def execAdd (d a b : Reg) (s : State) : Host.Outcome State Fault Refusal :=
  aluRR (.add d a b) d a b (fun x y => x + y) s

/-- R330: shift left. -/
def execSll (d a b : Reg) (s : State) : Host.Outcome State Fault Refusal :=
  aluRR (.sll d a b) d a b (fun x y => x <<< (y.toNat % 64)) s

/-- R330: set if less, signed. -/
def execSlt (d a b : Reg) (s : State) : Host.Outcome State Fault Refusal :=
  aluRR (.slt d a b) d a b (fun x y => boolW (x.slt y)) s

/-- R330: set if less, unsigned. -/
def execSltu (d a b : Reg) (s : State) : Host.Outcome State Fault Refusal :=
  aluRR (.sltu d a b) d a b (fun x y => boolW (x.ult y)) s

/-- R330: exclusive or. -/
def execXor (d a b : Reg) (s : State) : Host.Outcome State Fault Refusal :=
  aluRR (.xor d a b) d a b (fun x y => x ^^^ y) s

/-- R330: shift right, logical. -/
def execSrl (d a b : Reg) (s : State) : Host.Outcome State Fault Refusal :=
  aluRR (.srl d a b) d a b (fun x y => x >>> (y.toNat % 64)) s

/-- R330: or. -/
def execOr (d a b : Reg) (s : State) : Host.Outcome State Fault Refusal :=
  aluRR (.or d a b) d a b (fun x y => x ||| y) s

/-- R330: and. -/
def execAnd (d a b : Reg) (s : State) : Host.Outcome State Fault Refusal :=
  aluRR (.and d a b) d a b (fun x y => x &&& y) s

/-- R330: subtract. -/
def execSub (d a b : Reg) (s : State) : Host.Outcome State Fault Refusal :=
  aluRR (.sub d a b) d a b (fun x y => x - y) s

/-- R330: shift right, arithmetic. -/
def execSra (d a b : Reg) (s : State) : Host.Outcome State Fault Refusal :=
  aluRR (.sra d a b) d a b (fun x y => x.sshiftRight (y.toNat % 64)) s

/-- R330: and with complement. -/
def execAndn (d a b : Reg) (s : State) : Host.Outcome State Fault Refusal :=
  aluRR (.andn d a b) d a b (fun x y => x &&& ~~~y) s

/-- R330: or with complement. -/
def execOrn (d a b : Reg) (s : State) : Host.Outcome State Fault Refusal :=
  aluRR (.orn d a b) d a b (fun x y => x ||| ~~~y) s

/-- R330: exclusive nor. -/
def execXnor (d a b : Reg) (s : State) : Host.Outcome State Fault Refusal :=
  aluRR (.xnor d a b) d a b (fun x y => ~~~(x ^^^ y)) s

/-- R330: low product. -/
def execMul (d a b : Reg) (s : State) : Host.Outcome State Fault Refusal :=
  aluRR (.mul d a b) d a b (fun x y => x * y) s

/-- R330: high product, signed. -/
def execMulh (d a b : Reg) (s : State) : Host.Outcome State Fault Refusal :=
  aluRR (.mulh d a b) d a b (fun x y => BitVec.ofInt 64 (x.toInt * y.toInt / 2 ^ 64)) s

/-- R330: high product, signed by unsigned. -/
def execMulhsu (d a b : Reg) (s : State) : Host.Outcome State Fault Refusal :=
  aluRR (.mulhsu d a b) d a b (fun x y => BitVec.ofInt 64 (x.toInt * (y.toNat : Int) / 2 ^ 64)) s

/-- R330: high product, unsigned. -/
def execMulhu (d a b : Reg) (s : State) : Host.Outcome State Fault Refusal :=
  aluRR (.mulhu d a b) d a b (fun x y => BitVec.ofNat 64 (x.toNat * y.toNat / 2 ^ 64)) s

/-- R330: quotient, signed. -/
def execDiv (d a b : Reg) (s : State) : Host.Outcome State Fault Refusal :=
  aluRR (.div d a b) d a b (fun x y => divS x y) s

/-- R330: quotient, unsigned. -/
def execDivu (d a b : Reg) (s : State) : Host.Outcome State Fault Refusal :=
  aluRR (.divu d a b) d a b (fun x y => divU x y) s

/-- R330: remainder, signed. -/
def execRem (d a b : Reg) (s : State) : Host.Outcome State Fault Refusal :=
  aluRR (.rem d a b) d a b (fun x y => remS x y) s

/-- R330: remainder, unsigned. -/
def execRemu (d a b : Reg) (s : State) : Host.Outcome State Fault Refusal :=
  aluRR (.remu d a b) d a b (fun x y => remU x y) s

/-- R330: shift by 1 and add. -/
def execSh1add (d a b : Reg) (s : State) : Host.Outcome State Fault Refusal :=
  aluRR (.sh1add d a b) d a b (fun x y => (x <<< 1) + y) s

/-- R330: shift by 2 and add. -/
def execSh2add (d a b : Reg) (s : State) : Host.Outcome State Fault Refusal :=
  aluRR (.sh2add d a b) d a b (fun x y => (x <<< 2) + y) s

/-- R330: shift by 3 and add. -/
def execSh3add (d a b : Reg) (s : State) : Host.Outcome State Fault Refusal :=
  aluRR (.sh3add d a b) d a b (fun x y => (x <<< 3) + y) s

/-- R330: lesser, signed. -/
def execMin (d a b : Reg) (s : State) : Host.Outcome State Fault Refusal :=
  aluRR (.min d a b) d a b (fun x y => if x.slt y then x else y) s

/-- R330: lesser, unsigned. -/
def execMinu (d a b : Reg) (s : State) : Host.Outcome State Fault Refusal :=
  aluRR (.minu d a b) d a b (fun x y => if x.ult y then x else y) s

/-- R330: greater, signed. -/
def execMax (d a b : Reg) (s : State) : Host.Outcome State Fault Refusal :=
  aluRR (.max d a b) d a b (fun x y => if x.slt y then y else x) s

/-- R330: greater, unsigned. -/
def execMaxu (d a b : Reg) (s : State) : Host.Outcome State Fault Refusal :=
  aluRR (.maxu d a b) d a b (fun x y => if x.ult y then y else x) s

/-- R330: rotate left. -/
def execRol (d a b : Reg) (s : State) : Host.Outcome State Fault Refusal :=
  aluRR (.rol d a b) d a b (fun x y => x.rotateLeft (y.toNat % 64)) s

/-- R330: rotate right. -/
def execRor (d a b : Reg) (s : State) : Host.Outcome State Fault Refusal :=
  aluRR (.ror d a b) d a b (fun x y => x.rotateRight (y.toNat % 64)) s

/-- R330: add, 32 bits. -/
def execAddw (d a b : Reg) (s : State) : Host.Outcome State Fault Refusal :=
  aluRR (.addw d a b) d a b (fun x y => sextW (x + y)) s

/-- R330: shift left, 32 bits. -/
def execSllw (d a b : Reg) (s : State) : Host.Outcome State Fault Refusal :=
  aluRR (.sllw d a b) d a b (fun x y => sextW (x <<< (y.toNat % 32))) s

/-- R330: shift right logical, 32 bits. -/
def execSrlw (d a b : Reg) (s : State) : Host.Outcome State Fault Refusal :=
  aluRR (.srlw d a b) d a b (fun x y => (lo32 x >>> (y.toNat % 32)).signExtend 64) s

/-- R330: subtract, 32 bits. -/
def execSubw (d a b : Reg) (s : State) : Host.Outcome State Fault Refusal :=
  aluRR (.subw d a b) d a b (fun x y => sextW (x - y)) s

/-- R330: shift right arithmetic, 32 bits. -/
def execSraw (d a b : Reg) (s : State) : Host.Outcome State Fault Refusal :=
  aluRR (.sraw d a b) d a b (fun x y => ((lo32 x).sshiftRight (y.toNat % 32)).signExtend 64) s

/-- R330: product, 32 bits. -/
def execMulw (d a b : Reg) (s : State) : Host.Outcome State Fault Refusal :=
  aluRR (.mulw d a b) d a b (fun x y => sextW (x * y)) s

/-- R330: quotient, signed, 32 bits. -/
def execDivw (d a b : Reg) (s : State) : Host.Outcome State Fault Refusal :=
  aluRR (.divw d a b) d a b (fun x y => (divS (lo32 x) (lo32 y)).signExtend 64) s

/-- R330: quotient, unsigned, 32 bits. -/
def execDivuw (d a b : Reg) (s : State) : Host.Outcome State Fault Refusal :=
  aluRR (.divuw d a b) d a b (fun x y => (divU (lo32 x) (lo32 y)).signExtend 64) s

/-- R330: remainder, signed, 32 bits. -/
def execRemw (d a b : Reg) (s : State) : Host.Outcome State Fault Refusal :=
  aluRR (.remw d a b) d a b (fun x y => (remS (lo32 x) (lo32 y)).signExtend 64) s

/-- R330: remainder, unsigned, 32 bits. -/
def execRemuw (d a b : Reg) (s : State) : Host.Outcome State Fault Refusal :=
  aluRR (.remuw d a b) d a b (fun x y => (remU (lo32 x) (lo32 y)).signExtend 64) s

/-- R330: add of the zero-extended word. -/
def execAddUw (d a b : Reg) (s : State) : Host.Outcome State Fault Refusal :=
  aluRR (.addUw d a b) d a b (fun x y => zextW x + y) s

/-- R330: shift of the zero-extended word by 1 and add. -/
def execSh1addUw (d a b : Reg) (s : State) : Host.Outcome State Fault Refusal :=
  aluRR (.sh1addUw d a b) d a b (fun x y => (zextW x <<< 1) + y) s

/-- R330: by 2 and add. -/
def execSh2addUw (d a b : Reg) (s : State) : Host.Outcome State Fault Refusal :=
  aluRR (.sh2addUw d a b) d a b (fun x y => (zextW x <<< 2) + y) s

/-- R330: by 3 and add. -/
def execSh3addUw (d a b : Reg) (s : State) : Host.Outcome State Fault Refusal :=
  aluRR (.sh3addUw d a b) d a b (fun x y => (zextW x <<< 3) + y) s

/-- R330: rotate left, 32 bits. -/
def execRolw (d a b : Reg) (s : State) : Host.Outcome State Fault Refusal :=
  aluRR (.rolw d a b) d a b (fun x y => ((lo32 x).rotateLeft (y.toNat % 32)).signExtend 64) s

/-- R330: rotate right, 32 bits. -/
def execRorw (d a b : Reg) (s : State) : Host.Outcome State Fault Refusal :=
  aluRR (.rorw d a b) d a b (fun x y => ((lo32 x).rotateRight (y.toNat % 32)).signExtend 64) s

/-- R330: zero-extend a half-word. -/
def execZextH (d a : Reg) (s : State) : Host.Outcome State Fault Refusal :=
  aluRI (.zextH d a) d a (fun x => (x.truncate 16).zeroExtend 64) s

end Sys2Proof.Machine
end

