-- ==== Sys2Proof/Machine/Vector.lean ====
section
/-! DEFINITION. Machine/Vector.lean: packed integer, bitwise, comparison, selection and lane-move instructions (R367, R371 to R373, R377). -/
namespace Sys2Proof.Machine

/-- An instruction that writes a v register from two others (R367). -/
def vecRR (i : Instr) (d a b : Reg) (f : VWord → VWord → VWord) (s : State) : Host.Outcome State Fault Refusal :=
  issueD i { rv := [a, b], wv := [d] } (fun m s => .ok (wrV s m d (f (rdV s a) (rdV s b)))) s
/-- An instruction that writes a v register from one other. -/
def vecR (i : Instr) (d a : Reg) (f : VWord → VWord) (s : State) : Host.Outcome State Fault Refusal :=
  issueD i { rv := [a], wv := [d] } (fun m s => .ok (wrV s m d (f (rdV s a)))) s

/-- A function of two lanes, for every lane. -/
def mapLanes (w : Nat) (f : Nat → Nat → Nat) (x y : VWord) : VWord := packV w ((lanesOf w x).zipWith f (lanesOf w y))
/-- A function of one lane, for every lane. -/
def mapLane (w : Nat) (f : Nat → Nat) (x : VWord) : VWord := packV w ((lanesOf w x).map f)

/-- A lane read as U selects: signed with U clear. -/
def laneInt (u : BitVec 1) (w v : Nat) : Int := if u = 0 then toSigned w v else (v % 2 ^ w : Nat)
/-- An exact value clamped to the range of a w-bit lane (R371). -/
def clampLane (u : BitVec 1) (w : Nat) (v : Int) : Nat :=
  let lo : Int := if u = 0 then -(2 ^ (w - 1)) else 0
  let hi : Int := if u = 0 then 2 ^ (w - 1) - 1 else 2 ^ w - 1
  ofSigned w (if v < lo then lo else if hi < v then hi else v)
/-- All ones where a relation holds (R372). -/
def laneMask (w : Nat) (b : Bool) : Nat := if b then 2 ^ w - 1 else 0

/-- R371: vadd: modulo 2^w. -/
def execVadd (d a b : Reg) (t : BitVec 3) (s : State) : Host.Outcome State Fault Refusal :=
  vecRR (.vadd d a b t) d a b (mapLanes (intWidth t) (fun x y => x + y)) s

/-- R371: vsub: modulo 2^w. -/
def execVsub (d a b : Reg) (t : BitVec 3) (s : State) : Host.Outcome State Fault Refusal :=
  vecRR (.vsub d a b t) d a b (mapLanes (intWidth t) (fun x y => x + (2 ^ intWidth t - y))) s

/-- R371: vmul: low w bits. -/
def execVmul (d a b : Reg) (t : BitVec 3) (s : State) : Host.Outcome State Fault Refusal :=
  vecRR (.vmul d a b t) d a b (mapLanes (intWidth t) (fun x y => x * y)) s

/-- R371: vmulh: high w bits of the exact product. -/
def execVmulh (d a b : Reg) (u : BitVec 1) (t : BitVec 3) (s : State) : Host.Outcome State Fault Refusal :=
  vecRR (.vmulh d a b u t) d a b (mapLanes (intWidth t) (fun x y => ofSigned (intWidth t) (laneInt u (intWidth t) x * laneInt u (intWidth t) y / 2 ^ intWidth t))) s

/-- R371: vmac: c + a × b exactly, clamped to the range of the lane. -/
def execVmac (d a b : Reg) (u : BitVec 1) (t : BitVec 3) (s : State) : Host.Outcome State Fault Refusal :=
  issueD (.vmac d a b u t) { rv := [a, b, d], wv := [d] } (fun m s =>
    let w := intWidth t
    let l := (lanesOf w (rdV s d)).zip ((lanesOf w (rdV s a)).zip (lanesOf w (rdV s b)))
    .ok (wrV s m d (packV w (l.map (fun q => clampLane u w (laneInt u w q.1 + laneInt u w q.2.1 * laneInt u w q.2.2)))))) s

/-- R371: vmin: the lesser. -/
def execVmin (d a b : Reg) (u : BitVec 1) (t : BitVec 3) (s : State) : Host.Outcome State Fault Refusal :=
  vecRR (.vmin d a b u t) d a b (mapLanes (intWidth t) (fun x y => if laneInt u (intWidth t) x < laneInt u (intWidth t) y then x else y)) s

/-- R371: vmax: the greater. -/
def execVmax (d a b : Reg) (u : BitVec 1) (t : BitVec 3) (s : State) : Host.Outcome State Fault Refusal :=
  vecRR (.vmax d a b u t) d a b (mapLanes (intWidth t) (fun x y => if laneInt u (intWidth t) x < laneInt u (intWidth t) y then y else x)) s

/-- R371: vabs: the absolute value modulo 2^w. -/
def execVabs (d a : Reg) (t : BitVec 3) (s : State) : Host.Outcome State Fault Refusal :=
  vecR (.vabs d a t) d a (mapLane (intWidth t) (fun x => (toSigned (intWidth t) x).natAbs)) s

/-- R371: vand, on all 128 bits. -/
def execVand (d a b : Reg) (s : State) : Host.Outcome State Fault Refusal := vecRR (.vand d a b) d a b (fun x y => x &&& y) s

/-- R371: vor, on all 128 bits. -/
def execVor (d a b : Reg) (s : State) : Host.Outcome State Fault Refusal := vecRR (.vor d a b) d a b (fun x y => x ||| y) s

/-- R371: vxor, on all 128 bits. -/
def execVxor (d a b : Reg) (s : State) : Host.Outcome State Fault Refusal := vecRR (.vxor d a b) d a b (fun x y => x ^^^ y) s

/-- R371: vsll: shifted left by b mod w. -/
def execVsll (d a b : Reg) (t : BitVec 3) (s : State) : Host.Outcome State Fault Refusal :=
  vecRR (.vsll d a b t) d a b (mapLanes (intWidth t) (fun x y => x * 2 ^ (y % intWidth t))) s

/-- R371: vsrl: shifted right, logically. -/
def execVsrl (d a b : Reg) (t : BitVec 3) (s : State) : Host.Outcome State Fault Refusal :=
  vecRR (.vsrl d a b t) d a b (mapLanes (intWidth t) (fun x y => x / 2 ^ (y % intWidth t))) s

/-- R371: vsra: shifted right, arithmetically. -/
def execVsra (d a b : Reg) (t : BitVec 3) (s : State) : Host.Outcome State Fault Refusal :=
  vecRR (.vsra d a b t) d a b (mapLanes (intWidth t) (fun x y => ofSigned (intWidth t) (toSigned (intWidth t) x / 2 ^ (y % intWidth t)))) s

/-- R371: vmv: vd := vs1. -/
def execVmv (d a : Reg) (s : State) : Host.Outcome State Fault Refusal := vecR (.vmv d a) d a (fun x => x) s

/-- R373: vsel: vs1[i] where vs3[i] is not 0, else vs2[i]. -/
def execVsel (d a b : Reg) (c : BitVec 5) (t : BitVec 3) (s : State) : Host.Outcome State Fault Refusal :=
  issueD (.vsel d a b c t) { rv := [a, b, c], wv := [d] } (fun m s =>
    let w := intWidth t
    let l := (lanesOf w (rdV s c)).zip ((lanesOf w (rdV s a)).zip (lanesOf w (rdV s b)))
    .ok (wrV s m d (packV w (l.map (fun q => if q.1 != 0 then q.2.1 else q.2.2))))) s

/-- R377: vperm: vd[i] := vs1[vs2[i] mod n]. -/
def execVperm (d a b : Reg) (t : BitVec 3) (s : State) : Host.Outcome State Fault Refusal :=
  vecRR (.vperm d a b t) d a b (fun x y =>
    let w := intWidth t
    packV w ((lanesOf w y).map (fun i => lane w x (i % (128 / w))))) s

/-- R377: vzip: the low lanes of vs1 and vs2 interleaved. -/
def execVzip (d a b : Reg) (t : BitVec 3) (s : State) : Host.Outcome State Fault Refusal :=
  vecRR (.vzip d a b t) d a b (fun x y =>
    let w := intWidth t
    packV w ((List.range (128 / w)).map (fun i => if i % 2 = 0 then lane w x (i / 2) else lane w y (i / 2)))) s

/-- R377: vunzip: the even lanes of vs1, then those of vs2. -/
def execVunzip (d a b : Reg) (t : BitVec 3) (s : State) : Host.Outcome State Fault Refusal :=
  vecRR (.vunzip d a b t) d a b (fun x y =>
    let w := intWidth t
    let h := 128 / w / 2
    packV w ((List.range (128 / w)).map (fun i => if i < h then lane w x (2 * i) else lane w y (2 * (i - h))))) s

/-- R377: vbcast: the low w bits of x[rs1] in every lane. -/
def execVbcast (d a : Reg) (t : BitVec 3) (s : State) : Host.Outcome State Fault Refusal :=
  issueD (.vbcast d a t) { rx := [a], wv := [d] } (fun m s =>
    let w := intWidth t
    .ok (wrV s m d (packV w (List.replicate (128 / w) (rdX s a).toNat)))) s

/-- R377: vext: x[rd] := lane idx of vs1, sign-extended. -/
def execVext (d a : Reg) (i : BitVec 5) (t : BitVec 3) (s : State) : Host.Outcome State Fault Refusal :=
  issueD (.vext d a i t) { rv := [a], wx := [d] } (fun m s =>
    .ok (wrX s m d (extendTo (intWidth t) true (lane (intWidth t) (rdV s a) i.toNat)))) s

/-- R377: vins: lane idx of vd := the low w bits of x[rs1]; the old vd is a source. -/
def execVins (d a : Reg) (i : BitVec 5) (t : BitVec 3) (s : State) : Host.Outcome State Fault Refusal :=
  issueD (.vins d a i t) { rx := [a], rv := [d], wv := [d] } (fun m s =>
    .ok (wrV s m d (setLane (intWidth t) (rdV s d) i.toNat (rdX s a).toNat))) s

end Sys2Proof.Machine
end

