-- ==== Sys2Proof/WellFormed.lean ====
section
/-! DEFINITION. WellFormed.lean: which instructions the encoding tables admit: the selector codes, the type and U rules,
the ranges of immediates (R314 to R321, R387, R351). A term that is not well formed is the meaning of no word. -/
namespace Sys2Proof

/-- Types 000 to 011: i8, i16, i32, i64 (R314). -/
def isIntType (t : BitVec 3) : Bool := t.toNat < 4

/-- Types 100 to 110: bf16, f16, f32 (R314). -/
def isFloatType (t : BitVec 3) : Bool := 4 ≤ t.toNat && t.toNat < 7

/-- I or F of R315, with U allowed on I only. -/
def typeUOk (u : BitVec 1) (t : BitVec 3) : Bool := isIntType t || (isFloatType t && u == 0)

/-- The number of lanes of an integer type of custom-0 (R367). -/
def intLanes (t : BitVec 3) : Nat := 2 ^ (4 - t.toNat)

/-- Type codes that vcvt takes on either side (R317). -/
def isCvtType (t : BitVec 5) : Bool :=
  t.toNat ≤ 6 || (8 ≤ t.toNat && t.toNat ≤ 10) || (16 ≤ t.toNat && t.toNat ≤ 20)

/-- The MX element type codes 0x10 to 0x15 (R314, R316). -/
def isMxType (e : BitVec 5) : Bool := 16 ≤ e.toNat && e.toNat ≤ 21

/-- The words of the encoding tables, as a condition on the fields of each constructor; an event has no encoding and is
always well formed. -/
def Instr.wf : Instr → Bool
  | .fence _ _ m p s => !(m == 8 && p == 3 && s == 3)
  | .vlTr _ _ z s => s.toNat % 2 ^ z.toNat == 0
  | .vadd _ _ _ t | .vsub _ _ _ t | .vmul _ _ _ t | .vabs _ _ t
  | .vsll _ _ _ t | .vsrl _ _ _ t | .vsra _ _ _ t => isIntType t
  | .vmulh _ _ _ _ t | .vmac _ _ _ _ t | .vmin _ _ _ _ t | .vmax _ _ _ _ t => isIntType t
  | .vcmpEq _ _ _ t | .vcmpNe _ _ _ t => t.toNat < 7
  | .vcmpLt _ _ _ u t | .vcmpLe _ _ _ u t | .vdot _ _ _ u t => typeUOk u t
  | .vredsum _ _ u t | .vredmax _ _ u t | .vredmin _ _ u t => typeUOk u t
  | .vfadd _ _ _ t | .vfsub _ _ _ t | .vfmul _ _ _ t | .vfma _ _ _ t
  | .vfmin _ _ _ t | .vfmax _ _ _ t => isFloatType t
  | .vrcp _ _ t | .vrsqrt _ _ t | .vexp2 _ _ t | .vlog2 _ _ t | .vtanh _ _ t | .verf _ _ t => isFloatType t
  | .vperm _ _ _ t | .vzip _ _ _ t | .vunzip _ _ _ t | .vbcast _ _ t => isIntType t
  | .vext _ _ i t | .vins _ _ i t => isIntType t && i.toNat < intLanes t
  | .vmxEnc _ _ _ e t | .vmxDec _ _ e t => isFloatType t && isMxType e
  | .vsel _ _ _ _ t => isIntType t
  | .vcvt _ _ t _ u m => isCvtType t && isCvtType u && t != u && m.toNat < 7
  | .vtabEnc _ _ _ u => 8 ≤ u.toNat && u.toNat ≤ 10
  | .vtabDec _ _ t => t.toNat == 8 || t.toNat == 10
  | .fenceS _ s k => s.toNat < 6 && k != 0
  | .engPush a => a.toNat % 2 == 0
  | .engQfence i => i.toNat < 8 && i.toNat % 4 != 0
  | .engWait i | .engStat _ i => i.toNat < 2
  | .accTake i | .accGive i => i.toNat < 8
  | _ => true

end Sys2Proof
end

