-- ==== Sys2Proof/Machine/VectorFp.lean ====
section
/-! DEFINITION. Machine/VectorFp.lean: packed comparisons, floating-point lane operations, dot products and reductions (R372, R374, R375,
R239, R240, R370). -/
namespace Sys2Proof.Machine

/-- The format of a custom-0 floating-point type (R314). -/
def typeFmt (t : BitVec 3) : Fmt := if t.toNat = 4 then .bf16 else if t.toNat = 5 then .f16 else .f32

/-- Lane results with their flags: the values packed and the flags ORed (R228). -/
def packLanes (w : Nat) (l : List (Nat × FFlags)) : VWord × FFlags :=
  (packV w (l.map (fun p => p.1)), l.foldl (fun f p => f ||| p.2) 0)

/-- A floating-point instruction on v registers that rounds its lanes in FRM (R369): it takes its draws in SR. -/
def fpRounded (i : Instr) (d : Reg) (src : List Reg) (t : BitVec 3) (f : RMode → Nat → List Nat → Nat × FFlags) (s : State) :
    Host.Outcome State Fault Refusal :=
  issueD i { rv := src, wv := [d], draws := s.frmNow == 5 } (fun m s =>
    let w := floatWidth t
    let (s, ds) := modeDraws s s.frmNow (128 / w)
    let lanes := (List.range (128 / w)).map (fun k => f s.frmNow (ds.getD k 0) (src.map (fun r => lane w (rdV s r) k)))
    let (v, fl) := packLanes w lanes
    .ok (wrV (orFlags s fl) m d v)) s

/-- An instruction that gives each lane of vd and flags from the lanes of vs1 and vs2, without rounding in FRM. -/
def laneOp2 (i : Instr) (d a b : Reg) (w : Nat) (f : Nat → Nat → Nat × FFlags) (s : State) : Host.Outcome State Fault Refusal :=
  issueD i { rv := [a, b], wv := [d] } (fun m s =>
    let (v, fl) := packLanes w ((lanesOf w (rdV s a)).zipWith f (lanesOf w (rdV s b)))
    .ok (wrV (orFlags s fl) m d v)) s

/-- A comparison of two lanes (R372): `quietOk` tells that a quiet NaN sets no flag, `nanRes` what a NaN gives. -/
def cmpLane (u : BitVec 1) (t : BitVec 3) (quietOk nanRes : Bool) (fi : Int → Int → Bool) (ff : FVal → FVal → Bool) (x y : Nat) :
    Nat × FFlags :=
  if isIntType t then (laneMask (intWidth t) (fi (laneInt u (intWidth t) x) (laneInt u (intWidth t) y)), 0)
  else
    let f := typeFmt t
    let a := f.value x; let b := f.value y
    if a.isNan || b.isNan then (laneMask f.width nanRes, if !quietOk || a.isSig || b.isSig then fNV else 0)
    else (laneMask f.width (ff a b), 0)

/-- R372: vcmp.eq. -/
def execVcmpEq (d a b : Reg) (t : BitVec 3) (s : State) : Host.Outcome State Fault Refusal :=
  laneOp2 (.vcmpEq d a b t) d a b (laneWidth t) (cmpLane 0 t true false (fun x y => x == y) (fun x y => x.eq y)) s
/-- R372: vcmp.ne. -/
def execVcmpNe (d a b : Reg) (t : BitVec 3) (s : State) : Host.Outcome State Fault Refusal :=
  laneOp2 (.vcmpNe d a b t) d a b (laneWidth t) (cmpLane 0 t true true (fun x y => x != y) (fun x y => !x.eq y)) s
/-- R372: vcmp.lt. -/
def execVcmpLt (d a b : Reg) (u : BitVec 1) (t : BitVec 3) (s : State) : Host.Outcome State Fault Refusal :=
  laneOp2 (.vcmpLt d a b u t) d a b (laneWidth t) (cmpLane u t false false (fun x y => decide (x < y)) (fun x y => x.lt y)) s
/-- R372: vcmp.le. -/
def execVcmpLe (d a b : Reg) (u : BitVec 1) (t : BitVec 3) (s : State) : Host.Outcome State Fault Refusal :=
  laneOp2 (.vcmpLe d a b u t) d a b (laneWidth t) (cmpLane u t false false (fun x y => decide (x ≤ y)) (fun x y => !y.lt x)) s

/-- R374: vfadd. -/
def execVfadd (d a b : Reg) (t : BitVec 3) (s : State) : Host.Outcome State Fault Refusal :=
  fpRounded (.vfadd d a b t) d [a, b] t (fun mode dr l => (typeFmt t).addL mode dr (l.getD 0 0) (l.getD 1 0)) s
/-- R374: vfsub. -/
def execVfsub (d a b : Reg) (t : BitVec 3) (s : State) : Host.Outcome State Fault Refusal :=
  fpRounded (.vfsub d a b t) d [a, b] t (fun mode dr l => (typeFmt t).subL mode dr (l.getD 0 0) (l.getD 1 0)) s
/-- R374: vfmul. -/
def execVfmul (d a b : Reg) (t : BitVec 3) (s : State) : Host.Outcome State Fault Refusal :=
  fpRounded (.vfmul d a b t) d [a, b] t (fun mode dr l => (typeFmt t).mulL mode dr (l.getD 0 0) (l.getD 1 0)) s
/-- R374: vfma: vd + vs1 × vs2, rounded once. -/
def execVfma (d a b : Reg) (t : BitVec 3) (s : State) : Host.Outcome State Fault Refusal :=
  fpRounded (.vfma d a b t) d [a, b, d] t (fun mode dr l => (typeFmt t).fmaL mode dr (l.getD 0 0) (l.getD 1 0) (l.getD 2 0)) s
/-- R374: vfmin. -/
def execVfmin (d a b : Reg) (t : BitVec 3) (s : State) : Host.Outcome State Fault Refusal :=
  laneOp2 (.vfmin d a b t) d a b (floatWidth t) ((typeFmt t).minmaxL false) s
/-- R374: vfmax. -/
def execVfmax (d a b : Reg) (t : BitVec 3) (s : State) : Host.Outcome State Fault Refusal :=
  laneOp2 (.vfmax d a b t) d a b (floatWidth t) ((typeFmt t).minmaxL true) s

/-! ## Dot products and reductions (R375) -/

/-- The number of levels of the tree over n lanes. -/
def levelsOf (n : Nat) : Nat := Nat.log2 n
/-- A node of the f32 tree on (value, flags). -/
def sumNode (x y : Nat × FFlags) : Nat × FFlags :=
  let (r, f) := addRNE32 x.1 y.1
  (r, f ||| x.2 ||| y.2)
/-- A maximum or minimum node. -/
def maxNode (mx : Bool) (x y : Nat × FFlags) : Nat × FFlags :=
  let (r, f) := Fmt.f32.minmaxL mx x.1 y.1
  (r, f ||| x.2 ||| y.2)
/-- The lanes of a float type widened to f32 (R240). -/
def wideLanes (t : BitVec 3) (x : VWord) : List (Nat × FFlags) := (lanesOf (floatWidth t) x).map (fun l => (typeFmt t).widen32 l)
/-- Level 1 of a dot product (R375): the sum of two exact products, rounded once. -/
def dotPair (f : Fmt) (a b c d : Nat) : Nat × FFlags :=
  let (p, f1) := (f.value a).mul (f.value b)
  let (q, f2) := (f.value c).mul (f.value d)
  let (r, f3) := p.add q false
  Fmt.f32.lane 0 0 (r, f1 ||| f2 ||| f3)
/-- Level 1 over all pairs of lanes. -/
def dotPairs (f : Fmt) (l : List (Nat × Nat)) : List (Nat × FFlags) :=
  match l with
  | p :: q :: r => dotPair f p.1 p.2 q.1 q.2 :: dotPairs f r
  | _ => []

/-- R375: vdot. -/
def execVdot (d a b : Reg) (u : BitVec 1) (t : BitVec 3) (s : State) : Host.Outcome State Fault Refusal :=
  issueD (.vdot d a b u t) { rv := [a, b], wv := [d] } (fun m s =>
    if isIntType t then
      let w := intWidth t
      let ps := (lanesOf w (rdV s a)).zipWith (fun x y => laneInt u w x * laneInt u w y) (lanesOf w (rdV s b))
      .ok (wrV s m d (BitVec.ofNat 128 (ofSigned 64 (ps.foldl (· + ·) 0))))
    else
      let w := floatWidth t
      let l1 := dotPairs (typeFmt t) ((lanesOf w (rdV s a)).zip (lanesOf w (rdV s b)))
      let r := (treeFold sumNode (levelsOf (128 / w) - 1) l1).headD (0, 0)
      .ok (wrV (orFlags s r.2) m d (BitVec.ofNat 128 r.1))) s

/-- R375: vredsum. -/
def execVredsum (d a : Reg) (u : BitVec 1) (t : BitVec 3) (s : State) : Host.Outcome State Fault Refusal :=
  issueD (.vredsum d a u t) { rv := [a], wv := [d] } (fun m s =>
    if isIntType t then
      .ok (wrV s m d (BitVec.ofNat 128 (ofSigned 64 (((lanesOf (intWidth t) (rdV s a)).map (laneInt u (intWidth t))).foldl (· + ·) 0))))
    else
      let r := (treeFold sumNode (levelsOf (128 / floatWidth t)) (wideLanes t (rdV s a))).headD (0, 0)
      .ok (wrV (orFlags s r.2) m d (BitVec.ofNat 128 r.1))) s

/-- The maximum or minimum over lanes (R375). -/
def reduceMax (i : Instr) (mx : Bool) (d a : Reg) (u : BitVec 1) (t : BitVec 3) (s : State) : Host.Outcome State Fault Refusal :=
  issueD i { rv := [a], wv := [d] } (fun m s =>
    if isIntType t then
      let l := (lanesOf (intWidth t) (rdV s a)).map (laneInt u (intWidth t))
      let r := l.foldl (fun x y => if mx then max x y else min x y) (l.headD 0)
      .ok (wrV s m d (BitVec.ofNat 128 (ofSigned 64 r)))
    else
      let r := (treeFold (maxNode mx) (levelsOf (128 / floatWidth t)) (wideLanes t (rdV s a))).headD (0, 0)
      .ok (wrV (orFlags s r.2) m d (BitVec.ofNat 128 r.1))) s

/-- R375: vredmax. -/
def execVredmax (d a : Reg) (u : BitVec 1) (t : BitVec 3) (s : State) : Host.Outcome State Fault Refusal :=
  reduceMax (.vredmax d a u t) true d a u t s
/-- R375: vredmin. -/
def execVredmin (d a : Reg) (u : BitVec 1) (t : BitVec 3) (s : State) : Host.Outcome State Fault Refusal :=
  reduceMax (.vredmin d a u t) false d a u t s

end Sys2Proof.Machine
end

