-- ==== Sys2Proof/Machine/Approx.lean ====
section
/-! DEFINITION. Machine/Approx.lean: the approximations (R242, R243, R376). Special values, exact cases, overflow and underflow are those
of R243. Elsewhere the result is that of a free monotone function of the exact value, kept within the bounds of R242: the value of the
function is computed to far more digits than a format has. -/
namespace Sys2Proof.Machine

/-- The working precision: values of the functions are computed as multiples of 2^-200. -/
def approxBits : Nat := 200
/-- 1 at the working precision. -/
def fxOne : Nat := 2 ^ approxBits
/-- A dyadic value at the working precision, rounded down. -/
def toFx (m : Nat) (e : Int) : Nat := (onGrid m e (-(approxBits : Int))).1
/-- A sum of terms of an exponential series: x^k / k!. -/
def expSeries (n k : Nat) (x term acc : Nat) : Nat :=
  match n with
  | 0 => acc
  | n + 1 => expSeries n (k + 1) x (term * x / fxOne / k) (acc + term)
/-- ln 2 at the working precision: the sum of 1 / (k 2^k). -/
def ln2Fx : Nat := (List.range 210).foldl (fun a k => a + fxOne / ((k + 1) * 2 ^ (k + 1))) 0
/-- 2^f for a fraction f at the working precision. -/
def exp2Frac (f : Nat) : Nat := expSeries 80 1 (f * ln2Fx / fxOne) fxOne 0
/-- 2^x for x = ± m × 2^e, as (mantissa at the working precision, exponent). -/
def exp2Of (neg : Bool) (m : Nat) (e : Int) : Nat × Int :=
  let x := toFx m e
  let i := x / fxOne; let f := x % fxOne
  if neg then (if f = 0 then (fxOne, -(i : Int)) else (exp2Frac (fxOne - f), -(i : Int) - 1)) else (exp2Frac f, i)
/-- The fraction bits of log2 of x in [1, 2), by repeated squaring. -/
def log2Bits (n : Nat) (x acc : Nat) : Nat :=
  match n with
  | 0 => acc
  | n + 1 =>
    let y := x * x / fxOne
    if 2 * fxOne ≤ y then log2Bits n (y / 2) (2 * acc + 1) else log2Bits n y (2 * acc)
/-- log2 of m × 2^e at the working precision, as an integer multiple of 2^-200 (120 bits computed). -/
def log2Of (m : Nat) (e : Int) : Int :=
  let k := floorLog2 m e
  let x := toFx m (e - k)
  k * (fxOne : Int) + (log2Bits 120 x 0 * 2 ^ (approxBits - 120) : Nat)
/-- tanh of x > 0: 1 - 2 / (e^2x + 1); for small x a value just below x. -/
def tanhOf (m : Nat) (e : Int) : Nat × Int :=
  if floorLog2 m e < -40 then (m * 2 ^ approxBits - 1, e - approxBits)
  else
    let x := toFx m e
    let y := 2 * x * fxOne / ln2Fx
    let p := exp2Frac (y % fxOne) * 2 ^ (y / fxOne)
    ((fxOne * (p - fxOne)) / (p + fxOne), -(approxBits : Int))
/-- 2 / sqrt(pi) times 2^200. -/
def twoOverSqrtPi : Nat :=
  1813235411955051368075975534027907639852476658415964181376627
/-- The series of erf: terms (-1)^k x^(2k+1) / (k! (2k+1)), even and odd sums apart. -/
def erfSeries (n k : Nat) (x2 power even odd : Nat) : Nat × Nat :=
  match n with
  | 0 => (even, odd)
  | n + 1 =>
    let t := power / (2 * k + 1)
    let next := power * x2 / fxOne / (k + 1)
    if k % 2 = 0 then erfSeries n (k + 1) x2 next (even + t) odd else erfSeries n (k + 1) x2 next even (odd + t)
/-- erf of x > 0. -/
def erfOf (m : Nat) (e : Int) : Nat × Int :=
  if floorLog2 m e < -40 then (m * twoOverSqrtPi, e - approxBits)
  else
    let x := toFx m e
    let (a, b) := erfSeries 120 0 (x * x / fxOne) x 0 0
    ((a - b) * twoOverSqrtPi / fxOne, -(approxBits : Int))

/-- The functions of R242. -/
inductive ApproxFn where
  | rcp | rsqrt | exp2 | log2 | tanh | erf
  deriving DecidableEq, Repr
/-- Their numbers for Config.approx. -/
def ApproxFn.code : ApproxFn → Nat
  | .rcp => 0 | .rsqrt => 1 | .exp2 => 2 | .log2 => 3 | .tanh => 4 | .erf => 5

/-! ## The choice -/

/-- A computed value that is not exact: half a unit above what has been cut off. -/
def sticky (v : Nat × Int) : Nat × Int := (2 * v.1 + 1, v.2 - 1)
/-- n / d × 2^e. -/
def quotient (n d : Nat) (e : Int) : Nat × Int :=
  if n * 2 ^ 300 % d = 0 then (n * 2 ^ 300 / d, e - 300) else sticky (n * 2 ^ 300 / d, e - 300)
/-- The greatest magnitude of a format that is no greater than m × 2^e, as its encoding. -/
def floorOrd (f : Fmt) (m : Nat) (e : Int) : Nat :=
  if m = 0 then 0 else (f.encodeFin (onGrid m e (f.gridAt m e)).1 (f.gridAt m e)).getD f.maxBits
/-- The least magnitude that is no less. -/
def ceilOrd (f : Fmt) (m : Nat) (e : Int) : Nat :=
  if m = 0 then 0
  else
    let g := f.gridAt m e
    let (q, r, _) := onGrid m e g
    (f.encodeFin (if r = 0 then q else q + 1) g).getD f.maxBits
/-- The encodings that R242 allows around m × 2^e > 0, lowest and highest: the two neighbours where `ulps` is 0, else within that many ulps;
wider where the absolute bound 2^absE is. [DEDUCED, safe: log 129] -/
def approxRange (f : Fmt) (m : Nat) (e : Int) (ulps : Nat) (absE : Option Int) : Nat × Nat :=
  let g := f.gridAt m e
  let b := min (min e g) (absE.getD e)
  let v := m * 2 ^ (e - b).toNat
  let near := if ulps = 0 then (floorOrd f m e, ceilOrd f m e)
    else (ceilOrd f (v - ulps * 2 ^ (g - b).toNat) b, floorOrd f (v + ulps * 2 ^ (g - b).toNat) b)
  match absE with
  | none => near
  | some a => (min near.1 (ceilOrd f (v - 2 ^ (a - b).toNat) b), max near.2 (floorOrd f (v + 2 ^ (a - b).toNat) b))
/-- Whether an exact value lies so close above a power of two, where the spacing doubles, that its bound reaches below it. -/
def atDoubling (f : Fmt) (v : Nat × Int) (ulps : Nat) : Bool :=
  let g := f.gridAt v.1 v.2
  let b := min v.2 g
  decide (v.1 * 2 ^ (v.2 - b).toNat < 2 ^ (floorLog2 v.1 v.2 - b).toNat + ulps * 2 ^ (g - b).toNat)
/-- The lowest encoding for an exact value beside those of the inputs next below it: where the spacing doubles, the bounds of R242 fall, and
a monotone function's results do not. Four inputs are as far as the bound of a larger spacing reaches. -/
def approxLow (f : Fmt) (v : Nat × Int) (below : Nat → Nat × Int) (ulps : Nat) (absE : Option Int) : Nat :=
  let low := fun (v : Nat × Int) => (approxRange f v.1 v.2 ulps absE).1
  if atDoubling f v ulps then ((List.range 4).map (fun j => low (below (j + 1)))).foldl max (low v) else low v
/-- A free monotone function of a value, to the encodings of n bits: at each node of a binary tree the value is held against a free
threshold. -/
def freeMonotone (n : Nat) (at_ : Nat → Nat) (v node : Nat) : Nat :=
  match n with
  | 0 => node
  | n + 1 => freeMonotone n at_ v (2 * node + (if at_ node ≤ v then 1 else 0))
/-- The result for an exact value ± m × 2^e that is no special case: an infinity beyond the largest finite value, zero below the smallest
subnormal (R243), else the free function's, within the range and between two exact results `caps` of the function on either side.
[DESIGN CHOICE, safe: log 11] -/
def approxResult (fn : ApproxFn) (f : Fmt) (tcode : Nat) (neg : Bool) (v : Nat × Int) (below : Nat → Nat × Int) (ulps : Nat) (absE : Option Int)
    (caps : Nat × Nat) : Nat × FFlags :=
  let (m, e) := v
  let g := f.gridAt m e
  let (q, r, _) := onGrid m e g
  if floorLog2 m e < 1 - (f.bias : Int) - f.mant then (if fn = .rcp then f.sign neg else 0, fUF ||| fNX)
  else if (f.encodeFin q g).isNone || (r != 0 && f.encodeFin q g == some f.maxBits) then (f.inf neg, fOF ||| fNX)
  else
    let lo := approxLow f v below ulps absE
    let hi := (approxRange f m e ulps absE).2
    let w := f.width - 1
    let o := freeMonotone w (Config.approx fn.code (2 * tcode + (if neg then 1 else 0))) (onGrid m e (-600)).1 1 - 2 ^ w
    (f.sign neg + min (min hi caps.2) (max (max lo caps.1) o), 0)

/-- One lane of an approximation (R242, R243). [DESIGN CHOICE, safe: log 11] -/
def approxLane (fn : ApproxFn) (f : Fmt) (tcode bits : Nat) : Nat × FFlags :=
  let ulps := if f = .f32 then 2 else 0
  let one := floorOrd f 1 0
  -- the magnitude of the input j encodings further on, or back
  let near := fun (j : Int) => match f.value (bits + j).toNat with | .fin _ m e => (m, e) | _ => (1, 0)
  match f.value bits with
  | .nan sg => (f.nan, if sg then fNV else 0)
  | .inf s =>
    match fn with
    | .rcp => (f.sign s, 0)
    | .rsqrt => if s then (f.nan, fNV) else (0, 0)
    | .exp2 => if s then (0, 0) else (f.inf false, 0)
    | .log2 => if s then (f.nan, fNV) else (f.inf false, 0)
    | .tanh | .erf => ((f.round 0 0 false s 1 0).1, 0)
  | .fin s m e =>
    if m = 0 then
      match fn with
      | .rcp | .rsqrt => (f.inf s, fDZ)
      | .exp2 => ((f.round 0 0 false false 1 0).1, 0)
      | .log2 => (f.inf true, fDZ)
      | .tanh | .erf => (f.sign s, 0)
    else
      match fn with
      | .rcp => approxResult .rcp f tcode s (quotient 1 m (-e)) (fun _ => (1, 0)) 0 none (0, f.maxBits)
      | .rsqrt =>
        if s then (f.nan, fNV)
        else
          -- 1 / sqrt(m × 2^e): an even exponent, then the root of 2^1200 / m
          let m' := if e % 2 = 0 then m else 2 * m
          let e' := if e % 2 = 0 then e else e - 1
          let r := Nat.sqrt (2 ^ 1200 / m')
          let v : Nat × Int := (r, -600 - e' / 2)
          approxResult .rsqrt f tcode false (if r * r * m' == 2 ^ 1200 then v else sticky v) (fun _ => (1, 0)) 0 none (0, f.maxBits)
      | .exp2 =>
        let big : Nat := if f = .f16 then 16 else 128
        let low : Nat := f.bias + f.mant - 1
        let x := toFx m e
        if !s && big * fxOne ≤ x then (f.inf false, fOF ||| fNX)
        else if s && low * fxOne < x then (0, fUF ||| fNX)
        else
          let (v, k) := exp2Of s m e
          if x % fxOne = 0 then ((f.round 0 0 false false v (k - approxBits)).1, 0)
          else approxResult .exp2 f tcode false (sticky (v, k - approxBits)) (fun _ => sticky (v, k - approxBits)) ulps none (floorOrd f 1 k, floorOrd f 1 (k + 1))
      | .log2 =>
        if s then (f.nan, fNV)
        else if 2 ^ Nat.log2 m = m then
          let n := floorLog2 m e
          ((f.round 0 0 false (decide (n < 0)) n.natAbs 0).1, 0)
        else
          let v := log2Of m e
          let n := v.natAbs / fxOne
          let below := fun (j : Nat) =>
            let x := near (if v < 0 then j else -j)
            sticky ((log2Of x.1 x.2).natAbs, -(approxBits : Int))
          approxResult .log2 f tcode (decide (v < 0)) (sticky (v.natAbs, -(approxBits : Int))) below ulps (some (if f = .f32 then -24 else -10))
            (floorOrd f n 0, floorOrd f (n + 1) 0)
      | .tanh =>
        if 10 ≤ (onGrid m e 0).1 then ((f.round 0 0 false s 1 0).1, 0)
        else approxResult .tanh f tcode s (sticky (tanhOf m e)) (fun j => let x := near (-j); sticky (tanhOf x.1 x.2)) ulps (if f = .f32 then some (-26) else none) (0, one)
      | .erf =>
        if 4 ≤ (onGrid m e 0).1 then ((f.round 0 0 false s 1 0).1, 0)
        else approxResult .erf f tcode s (sticky (erfOf m e)) (fun j => let x := near (-j); sticky (erfOf x.1 x.2)) ulps (if f = .f32 then some (-26) else none) (0, one)

/-- An approximation over the lanes of vs1 (R376): FRM is ignored and no draw is taken. -/
def approxOp (i : Instr) (fn : ApproxFn) (d a : Reg) (t : BitVec 3) (s : State) : Host.Outcome State Fault Refusal :=
  issueD i { rv := [a], wv := [d] } (fun m s =>
    let (v, fl) := packLanes (floatWidth t) ((lanesOf (floatWidth t) (rdV s a)).map (approxLane fn (typeFmt t) t.toNat))
    .ok (wrV (orFlags s fl) m d v)) s

/-- R376: vrcp. -/
def execVrcp (d a : Reg) (t : BitVec 3) (s : State) : Host.Outcome State Fault Refusal := approxOp (.vrcp d a t) .rcp d a t s

/-- R376: vrsqrt. -/
def execVrsqrt (d a : Reg) (t : BitVec 3) (s : State) : Host.Outcome State Fault Refusal := approxOp (.vrsqrt d a t) .rsqrt d a t s

/-- R376: vexp2. -/
def execVexp2 (d a : Reg) (t : BitVec 3) (s : State) : Host.Outcome State Fault Refusal := approxOp (.vexp2 d a t) .exp2 d a t s

/-- R376: vlog2. -/
def execVlog2 (d a : Reg) (t : BitVec 3) (s : State) : Host.Outcome State Fault Refusal := approxOp (.vlog2 d a t) .log2 d a t s

/-- R376: vtanh. -/
def execVtanh (d a : Reg) (t : BitVec 3) (s : State) : Host.Outcome State Fault Refusal := approxOp (.vtanh d a t) .tanh d a t s

/-- R376: verf. -/
def execVerf (d a : Reg) (t : BitVec 3) (s : State) : Host.Outcome State Fault Refusal := approxOp (.verf d a t) .erf d a t s

end Sys2Proof.Machine
end

