-- ==== Sys2Proof/Machine/Branch.lean ====
section
/-! DEFINITION. Machine/Branch.lean: branches and jumps (R331), never deferred (R130). -/
namespace Sys2Proof.Machine

/-- A conditional branch: held while a source is pending, then the comparison decides (R331). -/
def branch (i : Instr) (a b : Reg) (off : BitVec 12) (c : Word → Word → Bool) (s : State) : Host.Outcome State Fault Refusal :=
  issueB i [a, b] [] (fun s => (s, if c (rdX s a) (rdX s b) then some (s.th.pc + offB off) else none)) s

/-- R331: jal: rd := the address of the next instruction, with empty masks. -/
def execJal (d : Reg) (i : BitVec 20) (s : State) : Host.Outcome State Fault Refusal :=
  issueB (.jal d i) [] [d] (fun s => (wrX s {} d (s.th.pc + BitVec.ofNat 64 s.ilen), some (s.th.pc + offJ i))) s

/-- R331: jalr: bit 0 of the target is cleared; rd has the masks of rs1. -/
def execJalr (d a : Reg) (i : BitVec 12) (s : State) : Host.Outcome State Fault Refusal :=
  issueB (.jalr d a i) [a] [d] (fun s =>
    (wrX s (s.th.maskX a) d (s.th.pc + BitVec.ofNat 64 s.ilen), some ((rdX s a + imm12 i) &&& ~~~(1 : Word)))) s

/-- R331: beq. -/
def execBeq (a b : Reg) (i : BitVec 12) (s : State) : Host.Outcome State Fault Refusal :=
  branch (.beq a b i) a b i (fun x y => x == y) s

/-- R331: bne. -/
def execBne (a b : Reg) (i : BitVec 12) (s : State) : Host.Outcome State Fault Refusal :=
  branch (.bne a b i) a b i (fun x y => x != y) s

/-- R331: blt. -/
def execBlt (a b : Reg) (i : BitVec 12) (s : State) : Host.Outcome State Fault Refusal :=
  branch (.blt a b i) a b i (fun x y => x.slt y) s

/-- R331: bge. -/
def execBge (a b : Reg) (i : BitVec 12) (s : State) : Host.Outcome State Fault Refusal :=
  branch (.bge a b i) a b i (fun x y => !x.slt y) s

/-- R331: bltu. -/
def execBltu (a b : Reg) (i : BitVec 12) (s : State) : Host.Outcome State Fault Refusal :=
  branch (.bltu a b i) a b i (fun x y => x.ult y) s

/-- R331: bgeu. -/
def execBgeu (a b : Reg) (i : BitVec 12) (s : State) : Host.Outcome State Fault Refusal :=
  branch (.bgeu a b i) a b i (fun x y => !x.ult y) s

end Sys2Proof.Machine
end

