-- ==== Sys2Proof/Machine/Inlet.lean ====
section
/-! DEFINITION. Machine/Inlet.lean: receive streams as their inlets and the merge see them: the fields of the block (R250), arrivals
(R248, R254, R262), the merge (R253), the drain of a stopped wave (R260), closing (R261), and the record of the folding thread set
(R267). -/
namespace Sys2Proof.Machine

/-! ## Fields of the receive-stream block (R250) -/

/-- Word i. -/
def RxStream.word (r : RxStream) (i : Nat) : Word := r.block.getD i 0
/-- SHORT. -/
def RxStream.isShort (r : RxStream) : Bool := bitOf (r.word 0) 55
/-- Whether events are ranked in the order of arrival: ARRIVAL, or a short stream (R253). -/
def RxStream.arrival (r : RxStream) : Bool := bitOf (r.word 0) 54 || r.isShort
/-- SPIKE. -/
def RxStream.spike (r : RxStream) : Bool := bitOf (r.word 0) 53
/-- DUPTRAP. -/
def RxStream.dupTrap (r : RxStream) : Bool := bitOf (r.word 0) 52
/-- MALTRAP. -/
def RxStream.malTrap (r : RxStream) : Bool := bitOf (r.word 0) 51
/-- WBF16. -/
def RxStream.wbf16 (r : RxStream) : Bool := bitOf (r.word 0) 50
/-- GMODE. -/
def RxStream.gmode (r : RxStream) : Bool := bitOf (r.word 0) 49
/-- The number of producers P. -/
def RxStream.nprod (r : RxStream) : Nat := bitsOf (r.word 0) 47 42 + 1
/-- MMODE. -/
def RxStream.mmode (r : RxStream) : Nat := bitsOf (r.word 0) 41 40
/-- The length L of the falling sequence. -/
def RxStream.len (r : RxStream) : Nat := bitsOf (r.word 0) 39 30 + 1
/-- The number of outputs NO. -/
def RxStream.nout (r : RxStream) : Nat := bitsOf (r.word 0) 29 22 + 1
/-- The number of channels. -/
def RxStream.nchan (r : RxStream) : Nat := bitsOf (r.word 0) 15 0 + 1
/-- TRACE. -/
def RxStream.trace (r : RxStream) : Word := r.word 7
/-- OVF. -/
def RxStream.ovf (r : RxStream) : Word := r.word 8
/-- OVFN. -/
def RxStream.ovfn (r : RxStream) : Nat := bitsOf (r.word 9) 15 0

/-! ## Streams, waves -/

/-- A wave before anything has arrived. -/
def RxStream.newWave (r : RxStream) : Wave := { prods := List.replicate r.nprod {} }
/-- Wave n of a stream. -/
def RxStream.wave (r : RxStream) (n : Nat) : Wave := r.waves.getD (n - r.first) r.newWave
/-- The stream with wave n replaced; the waves up to it come into being. -/
def RxStream.setWave (r : RxStream) (n : Nat) (w : Wave) : RxStream :=
  let k := n - r.first
  let ws := if k < r.waves.length then r.waves else r.waves ++ List.replicate (k + 1 - r.waves.length) r.newWave
  { r with waves := ws.set k w }
/-! ## Images of streams (R292) -/

/-- The channels of a wave's ranked events, one bit each. -/
def Wave.channels (w : Wave) : Nat := w.ranked.foldl (fun m e => m ||| 2 ^ e.chan) 0
/-- The stream's copy of RK.ST (R267). -/
def RxStream.status (r : RxStream) (i : Nat) : Word := (r.flags &&& 0x7A0) ||| (if r.bound then 0x40 else 0) ||| r.stop ||| BitVec.ofNat 64 i
/-- The image of receive stream i: 8 KiB. [DESIGN CHOICE, unsafe: log 53] -/
def streamImage (r : RxStream) (i : Nat) : List Byte :=
  let w := r.wave r.closed
  let k := r.wave r.rkWave
  fitBytes 0x80 (wordsBytes r.block) ++
  fitBytes 0x80 (natBytes 8 r.closed ++ natBytes 8 w.ranked.length ++ natBytes 8 r.pos ++ natBytes 8 r.ovfPos ++ natBytes 8 (r.status i).toNat ++
    ([r.n, k.beyond, k.drain, k.dupc, k.mal, r.stretch, r.bnd.toNat, r.stopn, r.tracen].flatMap (natBytes 8))) ++
  fitBytes 0x100 (w.prods.flatMap (fun p => [BitVec.ofNat 8 (if p.ended then 32 else p.band), BitVec.ofNat 8 p.band])) ++
  fitBytes 0x400 (r.y.flatMap (fun v => natBytes 4 v.toNat)) ++ fitBytes 0x800 (r.seq.flatMap (fun v => natBytes 2 v.toNat)) ++
  natBytes 0x1000 w.channels ++ List.replicate 0x200 (0 : Byte)
/-- A buffered event as the image holds it: its channel, sign, band, producer, stream, and whether it has been merged.
[DESIGN CHOICE, unsafe: log 53] -/
def RankEvent.word (e : RankEvent) (i : Nat) (merged : Bool) : Nat :=
  e.chan + (if e.sign then 2 ^ 16 else 0) + e.band * 2 ^ 17 + e.prod * 2 ^ 22 + i * 2 ^ 28 + (if merged then 2 ^ 31 else 0)
/-- The merged events of the k-th wave that are neither folded nor discarded: of a wave behind the one to fold, none. -/
def RxStream.unfolded (r : RxStream) (k : Nat) (w : Wave) : List RankEvent :=
  if w.dead || r.first + k < r.fold then [] else w.ranked.drop (if r.first + k = r.fold then r.pos else 0)
/-- The buffered events of stream i: those that have not been merged, and those merged but not folded. -/
def RxStream.events (r : RxStream) (i : Nat) : List Byte :=
  (r.waves.mapIdx (fun k w =>
    let rest := r.unfolded k w
    ((rest.filter (fun e => !e.ovf)).map (fun e => e.word i true) ++ (w.unmerged.filter (fun e => !e.ovf)).map (fun e => e.word i false)).flatMap
      (natBytes 4))).flatten
/-- The streams of a launch on a core, with their numbers, written to its image, and the events that they have buffered. -/
def imageStreams (s : State) (l : Launch) (g : Nat) (rs : List (Nat × RxStream)) : State :=
  let b := imageBase s l + l.coreOff g
  let s := rs.foldl (fun s p => memWrite s (b + 16384 + 8192 * p.1) (streamImage p.2 p.1)) s
  memWrite s (b + 81920 + 4096 * (l.tsets + l.acct + l.tcmu))
    (fitBytes (4096 * ((l.evsh + 1023) / 1024)) (rs.flatMap (fun p => p.2.events p.1)))

/-- Receive stream i of a core; from 8 on those of Saved contexts (R264). -/
def rxOf (s : State) (g i : Nat) : Option RxStream := if i < 8 then (s.core g).rx.toList.getD i none else tfind (s.core g).rxSaved i
/-- Receive stream i of a core replaced; one of a Saved context in its image too (R264). -/
def setRx (s : State) (g i : Nat) (r : Option RxStream) : State :=
  if i < 8 then s.setCore g { s.core g with rx := (s.core g).rx.setIfInBounds i r }
  else
    let s := s.setCore g { s.core g with rxSaved := match r with | some x => tset (s.core g).rxSaved i x | none => tdel (s.core g).rxSaved i }
    match s.launch (i / 8 - 1) with
    | some l =>
      if launchSaved s l then
        imageStreams s l g (((s.core g).rxSaved.filter (fun p => p.1 / 8 = i / 8)).map (fun (p : Nat × RxStream) => (p.1 % 8, p.2)))
      else s
    | none => s

/-- The wave into which a producer's next event falls. -/
def RxStream.waveOf (r : RxStream) (p : Nat) : Nat := r.arrive.getD p 0

/-- Events of a stream that have not been folded or discarded: in the buffer (`ovf` false) or in the overflow area (R262). -/
def RxStream.heldEvents (r : RxStream) (ovf : Bool) : Nat :=
  (r.waves.mapIdx (fun i w =>
    ((w.unmerged ++ r.unfolded i w).filter (fun e => e.ovf == ovf)).length)).foldl
    (· + ·) 0
/-- Of the events in the buffer, those that wait for a frontier of the wave that is being merged. -/
def RxStream.heldUnmerged (r : RxStream) : Nat := ((r.wave r.closed).unmerged.filter (fun e => !e.ovf)).length

/-- Whether the share of a launch on a core is full (R262). -/
def shareFull (s : State) (g seq : Nat) : Bool :=
  let all := (s.core g).rx.toList.filterMap (fun r => r) ++ (s.core g).rxSaved.map (fun p => p.2)
  let used := (all.map (fun r => if r.launch == seq then r.heldEvents false else 0)).foldl (· + ·) 0
  match s.launch seq with
  | some l => l.evsh ≤ used
  | none => true

/-- Sticky flags of RK.ST (R267). -/
def flSTALL : Word := 0x400
/-- ECOUNT. -/
def flECOUNT : Word := 0x200
/-- MAL. -/
def flMAL : Word := 0x100
/-- DUP. -/
def flDUP : Word := 0x80

/-- A flag set in a wave and in the stream's own copy: it is to be told anew to the thread set that folds (R267). -/
def RxStream.flag (r : RxStream) (n : Nat) (f : Word) : RxStream :=
  let w := r.wave n
  { r.setWave n { w with flags := w.flags ||| f } with flags := r.flags ||| f, told := r.told &&& ~~~f }
/-- A cause recorded for the next rk.fold (R263). -/
def RxStream.cond (r : RxStream) (c : Nat) : RxStream := if r.pend.contains c then r else { r with pend := r.pend ++ [c] }

/-! ## The merge (R253, R254) -/

/-- The frontier of a producer. -/
def WaveProd.frontier (p : WaveProd) : Nat := if p.ended then 32 else p.band
/-- The least frontier. -/
def Wave.minFrontier (w : Wave) : Nat := w.prods.foldl (fun m p => min m p.frontier) 32
/-- Events of one band, round by round in ascending producer number. -/
def interleave (p : Nat) (es : List RankEvent) : List RankEvent :=
  (List.range es.length).flatMap (fun k => (List.range p).filterMap (fun q => (es.filter (fun e => e.prod == q))[k]?))
/-- The events of a wave that the merge takes now, in order. -/
def RxStream.mergeable (r : RxStream) (w : Wave) : List RankEvent :=
  if r.arrival then w.unmerged
  else (List.range 32).flatMap (fun b => if b < w.minFrontier then interleave r.nprod (w.unmerged.filter (fun e => e.band == b)) else [])
/-- One event appended to a wave's sequence: a duplicate takes no rank, an event of a wave that rk.drain has ended counts as discarded. -/
def appendEvent (acc : RxStream × Wave) (e : RankEvent) : RxStream × Wave :=
  let (r, w) := acc
  if w.dead then
    (r, { w with drain := w.drain + 1, ranked := if w.ranked.any (fun x => x.chan == e.chan) then w.ranked else w.ranked ++ [e] })
  else if w.ranked.any (fun x => x.chan == e.chan) then
    ({ (if r.dupTrap then r.cond 0x41 else r) with flags := r.flags ||| flDUP, told := r.told &&& ~~~flDUP }, { w with dupc := w.dupc + 1, flags := w.flags ||| flDUP })
  else (r, { w with ranked := w.ranked ++ [e] })
/-- The merge of the oldest wave that has not closed. -/
def RxStream.merge (r : RxStream) : RxStream :=
  let w := r.wave r.closed
  let es := r.mergeable w
  let rest := if r.arrival then [] else w.unmerged.filter (fun e => decide (w.minFrontier ≤ e.band))
  let (r, w) := es.foldl appendEvent (r, { w with unmerged := rest })
  r.setWave r.closed w

/-! ## Folding record, trace, closing -/

/-- Whether the event of rank k has a trace entry (R264). -/
def RxStream.traces (r : RxStream) (k : Nat) : Bool := r.trace != 0 && decide (k < 4096)
/-- The trace entry of an event of rank k. -/
def traceWrite (s : State) (g : Nat) (r : RxStream) (k : Nat) (e : RankEvent) (status : Nat) : State :=
  if !r.traces k then s
  else match s.launch r.launch with
    | none => s
    | some l =>
      match launchKey s l g (r.trace + BitVec.ofNat 64 (4 * k)) 4 with
      | .ok a => memWrite s a (natBytes 4 (e.chan + (if e.sign then 2 ^ 16 else 0) + status * 2 ^ 17))
      | .error _ => s
/-- The trace entry of an event of the wave that is folded, and the count of its entries. -/
def traceEvent (s : State) (g : Nat) (r : RxStream) (k : Nat) (e : RankEvent) (status : Nat) : State × RxStream :=
  (traceWrite s g r k e status, if r.traces k then { r with tcount := max r.tcount (k + 1) } else r)
/-- The trace entries of the events of a wave that rk.drain has ended, as they merge: drained. -/
def traceDead (s : State) (g : Nat) (r : RxStream) (n : Nat) : State × RxStream :=
  let w := r.wave n
  if !w.dead || w.ranked.length ≤ w.traced then (s, r)
  else ((((w.ranked.mapIdx (fun k e => (k, e))).drop w.traced).foldl (fun s p => traceWrite s g r p.1 p.2 2) s),
        r.setWave n { w with traced := w.ranked.length })

/-- The record of the thread set whose last rk.fold was on the stream brought up to date (R267): its counts are those of the wave it has
folded, its sticky flags those that have not been told to it. -/
def rkSync (s : State) (g i : Nat) : State :=
  match rxOf s g i with
  | none => s
  | some r =>
    match r.folder with
    | none => s
    | some tid =>
      let t := s.thread tid
      let st := (t.rk.st &&& 0x7A0) ||| (r.flags &&& ~~~r.told) ||| (if r.bound then 0x40 else 0) ||| r.stop ||| BitVec.ofNat 64 i
      let s := setRx s g i (some { r with told := r.told ||| r.flags })
      let w := r.wave r.rkWave
      let rk := if r.rkWave < r.first then t.rk
        else { t.rk with beyond := BitVec.ofNat 64 w.beyond, drain := BitVec.ofNat 64 w.drain, dupc := BitVec.ofNat 64 w.dupc, mal := BitVec.ofNat 64 w.mal }
      s.setThread tid { t with rk := { rk with
        n := BitVec.ofNat 64 r.n, st := st, stretch := BitVec.ofNat 64 r.stretch
        wave := BitVec.ofNat 64 r.closed, bnd := r.bnd.zeroExtend 64, stopn := BitVec.ofNat 64 r.stopn, tracen := BitVec.ofNat 64 r.tracen } }
/-- The record of a thread set is the stream's from here on, and no other's of its core (R267): flags of the wave that it folds are told
to it anew. -/
def takeRecord (s : State) (g i tid : Nat) : State :=
  match rxOf s g i with
  | none => s
  | some r =>
    let leave := fun (x : RxStream) => if x.folder == some tid then { x with folder := none } else x
    setRx (s.setCore g { s.core g with rx := (s.core g).rx.map (fun x => x.map leave) }) g i (some { r with
      folder := some tid, rkWave := r.fold
      told := if r.folder == some tid then r.told else r.told &&& ~~~(r.wave r.fold).flags })

/-- Waves that nothing needs any more forgotten. -/
def RxStream.trim (r : RxStream) : RxStream :=
  let low := r.arrive.foldl Nat.min (min r.fold r.closed)
  { r with waves := r.waves.drop (low - r.first), first := max r.first low }
/-- The number of the next wave to fold from n on: a wave that rk.drain has ended is passed over (R415). -/
def RxStream.skipDead (r : RxStream) (fuel n : Nat) : Nat :=
  match fuel with
  | 0 => n
  | k + 1 => if (r.wave n).dead then r.skipDead k (n + 1) else n
/-- The fold of a wave is over and the wave has closed: Open, next wave (R263). -/
def RxStream.nextWave (r : RxStream) : RxStream :=
  { r with state := .open, pos := 0, tracen := r.tcount, fold := r.skipDead (r.waves.length + 1) (r.fold + 1) }

/-- Whether the conditions under which a wave closes hold (R261). -/
def Wave.complete (w : Wave) : Bool := w.prods.all (fun p => p.ended) && w.unmerged.isEmpty
/-- The oldest wave closes. -/
def RxStream.close (r : RxStream) : RxStream :=
  let w := r.wave r.closed
  let r := r.setWave r.closed { w with closed := true }
  { r with closed := r.closed + 1, due := false
           tracen := if w.dead then (if r.trace = 0 then 0 else min 4096 w.ranked.length) else r.tracen }

/-- The events of a stopped wave discarded as they are merged (R260). -/
def discardRanked (s : State) (g : Nat) (r : RxStream) (es : List RankEvent) : State × RxStream :=
  match es with
  | [] => (s, r)
  | e :: rest =>
    let (s, r) := if r.state = .draining then traceEvent s g r r.pos e 2 else (s, r)
    let w := r.wave r.fold
    let r := if r.state = .draining then r.setWave r.fold { w with drain := w.drain + 1 } else r
    discardRanked s g { r with pos := r.pos + 1 } rest

/-- A stopped wave that has closed is left behind. -/
def endDrain (s : State) (g i : Nat) : State :=
  match rxOf s g i with
  | none => s
  | some r =>
    if (r.state = .draining || r.state = .discard) && r.fold < r.closed then
      let r := { r with tracen := r.tcount }
      setRx (rkSync (setRx s g i (some r)) g i) g i (some r.nextWave.trim)
    else s

/-- Merging, discarding and closing go on as far as they can. A wave whose fold is under way closes at the rk.fold, once its outputs
are stored (R260, R422). `fuel` bounds the waves that close. -/
def rxSettle (fuel : Nat) (s : State) (g i : Nat) : State :=
  match fuel with
  | 0 => s
  | k + 1 =>
    match rxOf s g i with
    | none => s
    | some r =>
      let r := r.merge
      let (s, r) := traceDead s g r r.closed
      let (s, r) := if r.state = .draining || r.state = .discard then discardRanked s g r ((r.wave r.fold).ranked.drop r.pos) else (s, r)
      let busy := (r.state = .folding || r.state = .suspended) && r.fold == r.closed
      let closable := (r.wave r.closed).complete && (!r.spike || r.due) && !busy
      let r := if closable then r.close else r
      let r := if r.state = .open then { r with fold := r.skipDead (r.waves.length + 1) r.fold } else r
      let s := endDrain (rkSync (setRx s g i (some r)) g i) g i
      if closable then rxSettle k s g i else s

/-- The fuel that suffices: one wave closes at a time. [DEDUCED, unsafe: log 96] -/
def rxFuel (s : State) (g i : Nat) : Nat := match rxOf s g i with | some r => r.waves.length + 2 | none => 0

/-! ## Arrivals (R248, R254, R262) -/

/-- Malformed events dropped and counted. -/
def RxStream.malformed (r : RxStream) (n k : Nat) : RxStream :=
  let w := r.wave n
  let r := (r.setWave n { w with mal := w.mal + k }).flag n flMAL
  if r.malTrap then r.cond 0x45 else r

/-- A marker or control beat of a producer (R254, R421). -/
def RxStream.marker (r : RxStream) (p count : Nat) : RxStream :=
  let n := r.waveOf p
  let w := r.wave n
  let pr := w.prods.getD p {}
  let r := { r with arrive := r.arrive.set p (n + 1) }
  if pr.forced then r
  else
    let r := if pr.count % 65536 = count then r else r.flag n flECOUNT
    let w := r.wave n
    r.setWave n { w with prods := w.prods.set p { pr with ended := true } }

/-- What a word of a producer is: a marker (count), a channel event (band, sign, channel), or malformed (R244, R254). -/
inductive EventWord where
  | marker (count : Nat)
  | event (band : Nat) (sign : Bool) (chan : Nat)
  | bad (counted : Bool)

/-- A word read as an event. -/
def RxStream.read (r : RxStream) (x : Nat) : EventWord :=
  if r.isShort then (if x % 32768 < r.nchan then .event 0 (x / 32768 % 2 == 1) (x % 32768) else .bad true)
  else
    let fl := x / 2 ^ 22 % 4
    if x / 2 ^ 24 != 0 || fl == 3 then .bad (fl == 0)
    else if fl != 0 then .marker (x % 65536)
    else if x % 65536 < r.nchan then .event (x / 2 ^ 17 % 32) (x / 2 ^ 16 % 2 == 1) (x % 65536)
    else .bad true

/-- A channel event of a producer counted. -/
def RxStream.countEvent (r : RxStream) (p : Nat) : RxStream :=
  let n := r.waveOf p
  let w := r.wave n
  let pr := w.prods.getD p {}
  r.setWave n { w with prods := w.prods.set p { pr with count := pr.count + 1 } }

/-- The bytes of an event put into the overflow area. -/
def ovfStore (s : State) (g : Nat) (r : RxStream) (x : Nat) : State :=
  let a := r.ovf + BitVec.ofNat 64 (4 * r.ovfPos)
  match s.launch r.launch with
  | none => s
  | some l => match launchKey s l g a 4 with | .ok k => memWrite s k (natBytes 4 x) | .error _ => s

/-- One word of a producer taken into the stream; none where it is withheld (R262), with the state that the attempt leaves. -/
def takeWord (s : State) (g i p x : Nat) : State × Bool :=
  match rxOf s g i with
  | none => (s, true)
  | some r =>
    match r.read x with
    | .marker c => (rxSettle (rxFuel s g i) (setRx s g i (some (r.marker p c))) g i, true)
    | .bad c => (rkSync (setRx s g i (some ((if c then r.countEvent p else r).malformed (r.waveOf p) 1))) g i, true)
    | .event band sign chan =>
      let n := r.waveOf p
      if ((r.wave n).prods.getD p {}).forced then
        let r := r.countEvent p
        let w := r.wave n
        (rkSync (setRx s g i (some (r.setWave n { w with drain := w.drain + 1 }))) g i, true)
      else
        let full := shareFull s g r.launch
        let stalled := !r.arrival && r.heldEvents false == r.heldUnmerged
        let room := r.ovf != 0 && decide (r.heldEvents true < r.ovfn)
        if full && !stalled then (s, false)
        else if full && !room then (rkSync (setRx s g i (some ((r.flag r.closed flSTALL).cond 0x46))) g i, false)
        else
          let s := if full then ovfStore s g r x else s
          let r := r.countEvent p
          let w := r.wave n
          let pr := w.prods.getD p {}
          let eff := max band pr.band
          let w := { w with prods := w.prods.set p { pr with band := eff },
                            unmerged := w.unmerged ++ [{ prod := p, band := eff, sign := sign, chan := chan, ovf := full }] }
          let r := { r.setWave n w with ovfPos := if full then (r.ovfPos + 1) % max 1 r.ovfn else r.ovfPos }
          let s := setRx s g i (some r)
          (rxSettle (rxFuel s g i) s g i, true)

/-- The words of a store taken one after the other: how many bytes have been taken when one is withheld. -/
def takeWords (s : State) (g i p unit : Nat) (ws : List Nat) (taken : Nat) : State × Nat :=
  match ws with
  | [] => (s, taken)
  | x :: rest =>
    match takeWord s g i p x with
    | (s, true) => takeWords s g i p unit rest (taken + unit)
    | (s, false) => (s, taken)

/-- Little-endian units of a list of bytes. -/
def unitsOf (n unit : Nat) (bs : List Byte) : List Nat :=
  match n with
  | 0 => []
  | n + 1 => leNat (bs.take unit) :: unitsOf n unit (bs.drop unit)

/-- A store to a registered inlet delivered (R248): how many of its bytes have been taken. The others are withheld, and are offered
again (R262). A launch that a debug stop drains takes nothing (R301). -/
def inletStore (s : State) (g i off : Nat) (bs : List Byte) : State × Nat :=
  match rxOf s g i with
  | none => (s, bs.length)
  | some r =>
    let n := bs.length
    if s.launches.any (fun l => l.seq == r.launch && l.debugDrain) then (s, 0)
    else if r.isShort then
      if off = 0x40 ∧ 2 ≤ n then
        (rxSettle (rxFuel s g i) (setRx s g i (some (r.marker 0 (leNat (bs.take 2))))) g i, n)
      else if off = 0 ∧ n % 2 = 0 ∧ n ≤ 4096 then takeWords s g i 0 2 (unitsOf (n / 2) 2 bs) 0
      else (rkSync (setRx s g i (some (r.malformed r.closed (max 1 ((n + 1) / 2))))) g i, n)
    else if off % 64 = 0 ∧ off / 64 < r.nprod ∧ n % 4 = 0 ∧ n ≤ 4096 then
      takeWords s g i (off / 64) 4 (unitsOf (n / 4) 4 bs) 0
    else (rkSync (setRx s g i (some (r.malformed r.closed (max 1 ((n + 3) / 4))))) g i, n)

end Sys2Proof.Machine
end

