-- ==== Sys2Proof/Machine/Block.lean ====
section
/-! DEFINITION. Machine/Block.lean: the accesses of an instruction to blocks, vectors and descriptors (R205, R395, R410): of the class
its address decodes to, under the taint of the address operand, performed before the instruction retires, failures precise. -/
namespace Sys2Proof.Machine

/-- The read or write of the executing instruction at a peer that is on its way or has ended. -/
def myFar (s : State) (k : FarKind) (a : Word) : Option Far :=
  s.far.find? (fun f => f.tid == s.cur && f.own && f.kind == k && f.addr == a && f.pc == s.pcNow)
/-- The ended accesses of that kind forgotten. -/
def myForget (s : State) : State := { s with far := s.far.filter (fun f => !(f.tid == s.cur && f.own && f.over)) }
/-- Such an access put on its way: `dev` is that of the far access, the peer's or 0 for an inlet of this device. -/
def mySend (s : State) (m : Mask) (k : FarKind) (a : Word) (dev key n : Nat) (data : List Byte) (ovl : List (Nat × Byte) := []) : State :=
  let (s, _) := sendFar s m k a [inletPiece key 0 0 n] dev data .none none false ovl
  { s with far := s.far.map (fun (f : Far) => if f.id + 1 == s.nextId then { f with own := true } else f) }

/-- An access of the executing instruction to key ranges arrives at its homes, or waits (R176, R178, R163). -/
def keysArrive (s : State) (m : Mask) (ks : List (Nat × Nat)) : Eff :=
  if (m.taint &&& s.th.outstanding) != 0 || ks.any (fun k => farTouches s s.cur k.1 k.2) then waitE s
  else match arrive s (.thread s.cur s.pcNow) ks with
    | (s, true) => waitE s
    | (s, false) => .ok s
/-- The bytes of a read with those that the commit buffer holds over them (R195). -/
def overlaid (ovl : List (Nat × Byte)) (bs : List Byte) : List Byte :=
  bs.mapIdx (fun i b => match ovl.find? (fun p => p.1 == i) with | some p => p.2 | none => b)
/-- What the commit buffer of the executing activation holds of n bytes. -/
def myOverlay (s : State) (a : Word) (n : Nat) : List (Nat × Byte) :=
  if buffers s then (match s.myAct with | some x => bufGet x.buf (plainAddr s a) n | none => []) else []

/-- How a read failed at its far home: the address, the cause, the device where it is a peer, the words of this device that it read. -/
structure FarFailure where
  addr : Word
  code : Nat
  dev  : Option Nat
  keys : List (Nat × Nat)
  deriving DecidableEq, Repr

/-- A read of n bytes (at most 4,096 at a peer), and whether it has failed at a far home. -/
def blockFetch (s : State) (m : Mask) (a : Word) (n : Nat) : Except Stop (State × Except FarFailure (List Byte)) := do
  let (s, p) ← place s a n [rightRD]
  match p with
  | .near k =>
    let (s, bs) ← localRead s m a k n
    .ok (s, .ok bs)
  | .register _ => trapE s 0x11 a
  | .far ks =>
    if (inletAt s s.myCtx (addr48 a)).isSome && addr48 a < 0xFFF000000000 then trapE s 0x11 a
    else
      let s ← keysArrive s m ks
      let s := noteRead s (plainAddr s a) n
      match readKeys s ks with
      | .error c => .ok (s, .error { addr := a, code := c, dev := none, keys := ks })
      | .ok bs => .ok (s, .ok (overlaid (myOverlay s a n) bs))
  | .peer d va =>
    match myFar s .load a with
    | none =>
      if (m.taint &&& s.th.outstanding) != 0 || peerLimit s d va false then waitE s
      else waitE (mySend (noteRead s (plainAddr s a) n) m .load a (d + 1) va n [] (myOverlay s a n))
    | some f =>
      if !f.over then waitE s
      else if f.fail != 0 then .ok (s, .error { addr := a, code := f.fail, dev := if f.dev = 0 then none else some (f.dev - 1), keys := [] })
      else .ok (s, .ok (overlaid f.overlay f.data))

/-- Such a read of an instruction whose far failures are precise (R274, R395, R411). [DEDUCED, unsafe: log 116] -/
def blockRead (s : State) (m : Mask) (a : Word) (n : Nat) : Except Stop (State × List Byte) := do
  let (s, r) ← blockFetch s m a n
  match r with
  | .ok bs => .ok (s, bs)
  | .error f => trapE (countUe (myForget s) f.keys f.code) f.code a
/-- The records of reads that have failed at far homes (R166). -/
def blockFails (s : State) (fs : List FarFailure) : State :=
  fs.foldl (fun s f =>
    writeFault (countUe s f.keys f.code) s.myCtx {
      dev := f.dev.getD (ownId s), tid := some s.cur, agent := 0, code := f.code, addr := f.addr, wid := s.th.wid, pc := s.pcNow }) s
/-- Such reads of an instruction whose far failures are those of R166, in parts that a peer request can carry: one that fails gives zeros,
and its record is placed once the instruction goes on or traps. -/
def softReads (s : State) (m : Mask) (fs : List FarFailure) (rs : List (Word × Nat)) : Except Stop (State × List Byte × List FarFailure) :=
  match rs with
  | [] => .ok (s, [], fs)
  | r :: rest =>
    match blockFetch s m r.1 r.2 with
    | .error (.trap s c x) => .error (.trap (blockFails (myForget s) fs) c x)
    | .error e => .error e
    | .ok (s, x) => do
      let (bs, fs) := match x with | .ok bs => (bs, fs) | .error f => (List.replicate r.2 0, fs ++ [f])
      let (s, more, fs) ← softReads s m fs rest
      .ok (s, bs ++ more, fs)

/-- The addresses of consecutive parts. -/
def partsAt (a : Word) (ps : List (List Byte)) : List (Word × List Byte) :=
  match ps with
  | [] => []
  | p :: r => (a, p) :: partsAt (a + BitVec.ofNat 64 p.length) r

/-- The stores of an instruction that are not at their homes at once, sent in order as far as the limits allow (R64). -/
def sendParts (s : State) (m : Mask) (p : Place) (ps : List (Word × List Byte)) : State :=
  match ps with
  | [] => s
  | x :: r =>
    if (myFar s .store x.1).isSome then sendParts s m p r
    else
      let held := match p with | .peer d _ => peerLimit s d (addr48 x.1) true | _ => false
      if held then s
      else
        let key := match p with | .far ks => (ks.headD (0, 0)).1 | _ => addr48 x.1
        sendParts (mySend s m .store x.1 (placeDev p) key x.2.length x.2) m p r
/-- They are awaited: the first that has failed raises its cause. -/
def awaitParts (s : State) (m : Mask) (p : Place) (ps : List (Word × List Byte)) : Eff :=
  if ps.any (fun x => (myFar s .store x.1).isNone) then
    waitE (if (m.taint &&& s.th.outstanding) != 0 then s else sendParts s m p ps)
  else
    let fs := ps.filterMap (fun x => myFar s .store x.1)
    if !fs.all (fun f => f.over) then waitE s
    else match fs.find? (fun f => f.fail != 0) with
      | some f => trapE (myForget s) f.fail f.addr
      | none => .ok (ps.foldl (fun s x => noteStore s x.1 x.2) s)

/-- Consecutive stores of the instruction in local memory, each for itself (R146). -/
def nearStores (s : State) (m : Mask) (k : Nat) (a : Word) (ps : List (List Byte)) : Eff :=
  match ps with
  | [] => .ok s
  | p :: r => do
    let s ← localWrite s m a k p
    nearStores s m (k + p.length) (a + BitVec.ofNat 64 p.length) r
/-- Consecutive stores of the instruction at its far home on this device, each for itself (R146). -/
def farStores (s : State) (ks : List (Nat × Nat)) (ps : List (Word × List Byte)) : Eff :=
  match ps with
  | [] => .ok s
  | p :: r =>
    let x := cutKeys ks p.2.length
    match writeKeys (undoDirect s s.cur p.1 p.2.length) x.1 p.2 with
    | .error c => trapE (countUe s x.1 c) c p.1
    | .ok s => farStores (noteStore s p.1 p.2) x.2 r
/-- Consecutive stores of the instruction in ascending address order, performed before it retires; in an ordered launch far ones go to
the commit buffer. -/
def blockStores (s : State) (m : Mask) (a : Word) (parts : List (List Byte)) : Eff := do
  let bs := parts.flatten
  let ps := partsAt a parts
  let (s, p) ← place s a bs.length [rightWR]
  match p with
  | .near k => nearStores s m k a parts
  | .register _ => trapE s 0x11 a
  | p =>
    if buffers s then
      match s.myAct with
      | none => .ok s
      | some x =>
        if (m.taint &&& s.th.outstanding) != 0 then waitE s
        else match bufPut x.buf (plainAddr s a) bs with
          | some b =>
            .ok (setAct s (ps.foldl (fun x p => logStore s x p.1 p.2) { x with buf := b, wsig := x.wsig ||| sigRange (plainAddr s a) bs.length }))
          | none => waitE (wantIrrevocable s)
    else
      match p with
      | .far ks =>
        if addr48 a < 0xFFF000000000 && (inletAt s s.myCtx (addr48 a)).isSome then awaitParts s m p ps
        else
          let s ← keysArrive s m ks
          farStores s ks ps
      | _ => awaitParts s m p ps

/-- A block instruction's end: what it awaited is forgotten. -/
def blockDone (e : Eff) : Eff := match e with | .ok s => .ok (myForget s) | e => e

end Sys2Proof.Machine
end

