-- ==== Sys2Proof/Machine/Convert.lean ====
section
/-! DEFINITION. Machine/Convert.lean: conversions and tabled codes (R225 to R228, R236, R316, R317, R378 to R380). -/
namespace Sys2Proof.Machine

/-- What a five-bit type code names (R316). -/
inductive TypeCode where
  | int (w : Nat) (signed : Bool)
  | flt (f : Fmt)
  | mxi8
  | tab8
  | none
  deriving DecidableEq, Repr

/-- The type of a code (R316). -/
def typeOf (c : Nat) : TypeCode :=
  match c with
  | 0 => .int 8 true | 1 => .int 8 false | 2 => .int 16 true | 3 => .int 16 false | 4 => .int 32 true | 5 => .int 32 false | 6 => .int 64 true
  | 8 => .flt .bf16 | 9 => .flt .f16 | 10 => .flt .f32
  | 16 => .flt .e4m3 | 17 => .flt .e5m2 | 18 => .flt .e3m2 | 19 => .flt .e2m3 | 20 => .flt .e2m1
  | 21 => .mxi8 | 24 => .tab8
  | _ => .none

/-- The container of a type in bits (R378). -/
def TypeCode.container : TypeCode → Nat
  | .int w _ => w
  | .flt .e2m1 => 4
  | .flt .f32 => 32
  | .flt .f16 => 16
  | .flt .bf16 => 16
  | _ => 8

/-- Whether a conversion of two types is exact under every mode (R227). -/
def TypeCode.isInt : TypeCode → Bool
  | .int _ _ => true
  | _ => false

/-- The value of an element. -/
def TypeCode.value (c : TypeCode) (b : Nat) : FVal :=
  match c with
  | .int w sg => let v := if sg then toSigned w b else (b % 2 ^ w : Nat); .fin (decide (v < 0)) v.natAbs 0
  | .flt f => f.value (b % 2 ^ f.width)
  | _ => .fin false 0 0

/-- One element converted (R379). -/
def convertElem (dst src : TypeCode) (mode : RMode) (draw : Nat) (sat : Bool) (b : Nat) : Nat × FFlags :=
  match dst with
  | .int w sg =>
    match src with
    | .int v ss =>
      let x := if ss then toSigned v b else (b % 2 ^ v : Nat)
      (if sat then clampLane (if sg then 0 else 1) w x else ofSigned w x, 0)
    | _ => convertInt w sg mode draw (src.value b)
  | .flt f => f.convert mode draw sat (src.value b)
  | _ => (0, 0)

/-- R379: vcvt. Code 110 takes FRM; in SR one draw an element (R369). -/
def execVcvt (d a : Reg) (t : BitVec 5) (k : BitVec 1) (u : BitVec 5) (rm : BitVec 3) (s : State) : Host.Outcome State Fault Refusal :=
  let mode := if rm.toNat = 6 then s.frmNow else rm.toNat
  issueD (.vcvt d a t k u rm) { rv := [a], wv := [d], draws := mode == 5 } (fun m s =>
    let dst := typeOf t.toNat; let src := typeOf u.toNat
    let n := 128 / max dst.container src.container
    let (s, ds) := modeDraws s mode n
    let (v, fl) := packLanes dst.container ((List.range n).map (fun i =>
      convertElem dst src mode (ds.getD i 0) (k == 1) (lane src.container (rdV s a) i)))
    .ok (wrV (orFlags s fl) m d v)) s

/-! ## Tabled codes (R236) -/

/-- The table's values with their codes. -/
def tableValues (tb : List (BitVec 19)) : List (Nat × FVal) := tb.mapIdx (fun c e => (c, Fmt.e8m10.value e.toNat))
/-- The code of the first value that a test accepts. -/
def firstCode (l : List (Nat × FVal)) (p : FVal → Bool) : Option Nat := (l.find? (fun q => p q.2)).map (fun q => q.1)
/-- The value of an entry. -/
def codeValue (l : List (Nat × FVal)) (c : Nat) : FVal := ((l.find? (fun q => q.1 == c)).map (fun q => q.2)).getD (.fin false 0 0)
/-- The best of the finite values by a strict preference, the first of equals. -/
def bestBy (l : List (Nat × FVal)) (better : FVal → FVal → Bool) : Option FVal :=
  (l.filter (fun q => q.2.isFin)).foldl (fun b q => match b with | none => some q.2 | some v => if better q.2 v then some q.2 else b) none
/-- The magnitude of a finite value. -/
def FVal.abs : FVal → FVal
  | .fin _ m e => .fin false m e
  | .inf _ => .inf false
  | .nan s => .nan s
/-- The distance of two finite values. -/
def FVal.dist (x y : FVal) : FVal := ((x.add y.neg false).1).abs

/-- The code of a value (R236), with SAT, and its flags. -/
def tableEncode (tb : List (BitVec 19)) (sat : Bool) (x : FVal) : Nat × FFlags :=
  let l := tableValues tb
  let codeOf := fun (v : FVal) => (firstCode l (fun y => y.isFin && y.eq v)).getD 0
  let smallest := (bestBy l (fun a b => a.abs.lt b.abs)).getD (.fin false 0 0)
  let top := (bestBy l (fun a b => b.lt a)).getD (.fin false 0 0)
  let bot := (bestBy l (fun a b => a.lt b)).getD (.fin false 0 0)
  match x with
  | .nan sg =>
    match firstCode l (fun y => y.isNan) with
    | some c => (c, if sg then fNV else 0)
    | none => ((firstCode l (fun y => y.isFin && y.abs.eq smallest.abs)).getD 0, fNV)
  | x =>
    if top.lt x then
      let fl := if x.isFin then fOF ||| fNX else 0
      match firstCode l (fun y => y == .inf false) with
      | some c => if sat then (codeOf top, fl) else (c, fl)
      | none => (codeOf top, fl)
    else if x.lt bot then
      let fl := if x.isFin then fOF ||| fNX else 0
      match firstCode l (fun y => y == .inf true) with
      | some c => if sat then (codeOf bot, fl) else (c, fl)
      | none => (codeOf bot, fl)
    else
      let near := (bestBy l (fun a b => (a.dist x).lt (b.dist x) || ((a.dist x).eq (b.dist x) && a.abs.lt b.abs))).getD (.fin false 0 0)
      (codeOf near, if near.eq x then 0 else fNX)

/-- The core's decode table where the executing launch loaded it (R135, R380). -/
def myTable (s : State) : Option (List (BitVec 19)) :=
  match s.co.table, s.myAct with
  | some tb, some a => if tb.launch == a.launch then some tb.codes else none
  | _, _ => none

/-- R380: vtab.enc. -/
def execVtabEnc (d a : Reg) (k : BitVec 1) (u : BitVec 5) (s : State) : Host.Outcome State Fault Refusal :=
  issueD (.vtabEnc d a k u) { rv := [a], wv := [d] } (fun m s =>
    match myTable s with
    | none => trapE s 0x23
    | some tb =>
      let src := typeOf u.toNat
      let n := 128 / max 8 src.container
      let (v, fl) := packLanes 8 ((List.range n).map (fun i => tableEncode tb (k == 1) (src.value (lane src.container (rdV s a) i))))
      .ok (wrV (orFlags s fl) m d v)) s

/-- R380: vtab.dec: f32 exactly, bf16 with RNE. -/
def execVtabDec (d a : Reg) (t : BitVec 5) (s : State) : Host.Outcome State Fault Refusal :=
  issueD (.vtabDec d a t) { rv := [a], wv := [d] } (fun m s =>
    match myTable s with
    | none => trapE s 0x23
    | some tb =>
      let f := if t.toNat = 8 then Fmt.bf16 else .f32
      let (v, fl) := packLanes f.width ((List.range (128 / f.width)).map (fun i =>
        f.convert 0 0 false (Fmt.e8m10.value (tb.getD (lane 8 (rdV s a) i) 0).toNat)))
      .ok (wrV (orFlags s fl) m d v)) s

/-! ## MX blocks (R233 to R235) -/

/-- The element bits of an MX element type, EMAX, and the bytes of a block's elements (R233, R234). -/
def mxElemBits (c : Nat) : Nat := if c = 20 then 4 else if c = 18 || c = 19 then 6 else 8
/-- EMAX (R234). -/
def mxEmax (c : Nat) : Int := if c = 16 then 8 else if c = 17 then 15 else if c = 18 then 4 else if c = 21 then 0 else 2
/-- Bytes of a block's elements. -/
def mxBytes (c : Nat) : Nat := 4 * mxElemBits c

/-- A value times 2^k. -/
def FVal.scale (v : FVal) (k : Int) : FVal :=
  match v with
  | .fin s m e => .fin s m (e + k)
  | v => v

/-- floor(log2) of a finite non-zero value. -/
def FVal.floorLog (v : FVal) : Int := match v with | .fin _ m e => floorLog2 m e | _ => 0

/-- One block encoded (R234): the elements, the scale, the flags. -/
def mxEncode (c : Nat) (mode : RMode) (sat : Bool) (draws : List Nat) (xs : List FVal) : List Nat × Nat × FFlags :=
  if xs.any (fun x => !x.isFin) then (xs.map (fun _ => 0), 0xFF, fNV)
  else
    let amax := xs.foldl (fun (a : FVal) x => if a.lt x.abs then x.abs else a) (.fin false 0 0)
    if amax.eq (.fin false 0 0) then (xs.map (fun _ => 0), 0, 0)
    else
      let k := max (-127) (min 127 (amax.floorLog - mxEmax c))
      let rs := xs.mapIdx (fun i x =>
        match typeOf c with
        | .flt f => f.convert mode (draws.getD i 0) sat (x.scale (-k))
        | _ => convertMxi8 mode (draws.getD i 0) (x.scale (-k)))
      (rs.map (fun p => p.1), (k + 127).toNat, rs.foldl (fun f p => f ||| p.2) 0)

/-- One element of a block decoded and rounded with RNE to a format (R235). -/
def mxDecodeElem (c scale e : Nat) (f : Fmt) : Nat × FFlags :=
  if scale = 0xFF then (f.nan, 0)
  else
    let v : FVal := match typeOf c with
      | .flt g => g.value (e % 2 ^ g.width)
      | _ => let n := toSigned 8 e; .fin (decide (n < 0)) n.natAbs (-6)
    f.convert 0 0 false (v.scale ((scale : Int) - 127))

/-- The packed image of a block as a number (R233): the elements, then the scale. -/
def mxPack (c : Nat) (es : List Nat) (scale : Nat) : Nat := packNat (mxElemBits c) es + scale * 2 ^ (8 * mxBytes c)
/-- The elements of an image. -/
def mxElems (c img : Nat) : List Nat := (List.range 32).map (fun i => img / 2 ^ (mxElemBits c * i) % 2 ^ mxElemBits c)
/-- The scale of an image. -/
def mxScale (c img : Nat) : Nat := img / 2 ^ (8 * mxBytes c) % 256

/-- Registers r, r + 1, ... n of them. -/
def regGroup (r : Reg) (n : Nat) : List Reg := (List.range n).map (fun i => BitVec.ofNat 5 (r.toNat + i))
/-- Whether a group stays within v31 (R381). -/
def groupOk (r : Reg) (n : Nat) : Bool := r.toNat + n ≤ 32
/-- The value of a group of registers, the first lowest. -/
def groupNat (s : State) (rs : List Reg) : Nat := packNat 128 (rs.map (fun r => (rdV s r).toNat))
/-- A value written to a group of registers. -/
def wrGroup (s : State) (m : Mask) (rs : List Reg) (v : Nat) : State :=
  match rs with
  | [] => s
  | r :: rest => wrGroup (wrV s m r (BitVec.ofNat 128 v)) m rest (v / 2 ^ 128)
/-- G of a wide type. -/
def mxWide (t : BitVec 3) : Nat := if t.toNat = 6 then 8 else 4
/-- H of an element type. -/
def mxNarrow (c : Nat) : Nat := if mxElemBits c = 8 then 3 else 2

/-- R381, R382: vmx.enc. -/
def execVmxEnc (d a : Reg) (k : BitVec 1) (e : BitVec 5) (t : BitVec 3) (s : State) : Host.Outcome State Fault Refusal :=
  let src := regGroup a (mxWide t); let dst := regGroup d (mxNarrow e.toNat)
  if groupOk a (mxWide t) && groupOk d (mxNarrow e.toNat) then
    issueD (.vmxEnc d a k e t) { rv := src, wv := dst, draws := s.frmNow == 5 } (fun m s =>
      let f := typeFmt t
      let x := groupNat s src
      let xs := (List.range 32).map (fun i => f.value (x / 2 ^ (f.width * i) % 2 ^ f.width))
      let (s, ds) := modeDraws s s.frmNow 32
      let (es, sc, fl) := mxEncode e.toNat s.frmNow (k == 1) ds xs
      .ok (wrGroup (orFlags s fl) m dst (mxPack e.toNat es sc))) s
  else .next (illegal s 0x01)

/-- R381, R382: vmx.dec. -/
def execVmxDec (d a : Reg) (e : BitVec 5) (t : BitVec 3) (s : State) : Host.Outcome State Fault Refusal :=
  let src := regGroup a (mxNarrow e.toNat); let dst := regGroup d (mxWide t)
  if groupOk d (mxWide t) && groupOk a (mxNarrow e.toNat) then
    issueD (.vmxDec d a e t) { rv := src, wv := dst } (fun m s =>
      let f := typeFmt t
      let img := groupNat s src
      let rs := (mxElems e.toNat img).map (fun el => mxDecodeElem e.toNat (mxScale e.toNat img) el f)
      .ok (wrGroup (orFlags s (rs.foldl (fun g p => g ||| p.2) 0)) m dst (packNat f.width (rs.map (fun p => p.1))))) s
  else .next (illegal s 0x01)

end Sys2Proof.Machine
end

