-- ==== Sys2Proof/Machine/Tcw.lean ====
section
/-! DEFINITION. Machine/Tcw.lean: tile command words: the header (R322, R323), local references (R389), the fields and the checks of each
opcode (R399 to R407, R168), and what an entry touches. -/
namespace Sys2Proof.Machine

/-- A tile command word. -/
abbrev Tcw := BitVec 256
/-- OPCODE. -/
def tcwOp (t : Tcw) : Nat := bitsOf t 255 248
/-- QUEUE. -/
def tcwQueue (t : Tcw) : Nat := bitsOf t 247 246
/-- PRIO. -/
def tcwPrio (t : Tcw) : Nat := bitsOf t 245 244
/-- SIG. -/
def tcwSig (t : Tcw) : Bool := bitOf t 243
/-- CVAL. -/
def tcwCval (t : Tcw) : Nat := bitsOf t 239 208
/-- CWORD. -/
def tcwCword (t : Tcw) : Nat := bitsOf t 207 188

/-- A local reference as an own-window address (R389): `bits` is its width, `unit` 1, 8 or 16. -/
def localRef (v bits unit : Nat) : Word :=
  let off := v % 2 ^ (bits - 1) * unit
  BitVec.ofNat 64 (if v / 2 ^ (bits - 1) % 2 = 1 then 0xFFFFFF800000 + off else 0xFFFFFFFE0000 + off)

/-- An opcode and its queue are assigned (R323). -/
def tcwAssigned (t : Tcw) : Bool :=
  let o := tcwOp t; let q := tcwQueue t
  if o = 0x17 then q < 2
  else if 0x01 ≤ o ∧ o ≤ 0x05 then q == 0
  else if 0x10 ≤ o ∧ o ≤ 0x16 then q == 1
  else false

/-- ETYPE of DECOMP and COMPR. -/
def tcwEtype (t : Tcw) : Nat := bitsOf t 187 183
/-- NGRP of DECOMP and COMPR. -/
def tcwNgrp (t : Tcw) : Nat := if tcwOp t = 0x11 then bitsOf t 181 165 else bitsOf t 177 161
/-- SRC of COPY, DECOMP, COMPR. -/
def tcwSrc (t : Tcw) : Word :=
  BitVec.ofNat 64 (if tcwOp t = 0x10 then bitsOf t 161 98 else if tcwOp t = 0x11 then bitsOf t 164 101 else bitsOf t 160 97)
/-- DST of COPY, FILL, DECOMP, COMPR. -/
def tcwDst (t : Tcw) : Word :=
  BitVec.ofNat 64 (if tcwOp t = 0x10 then bitsOf t 97 34 else if tcwOp t = 0x15 then bitsOf t 123 60
    else if tcwOp t = 0x11 then bitsOf t 100 37 else bitsOf t 96 33)
/-- BYTES of COPY and FILL. -/
def tcwBytes (t : Tcw) : Nat := if tcwOp t = 0x10 then bitsOf t 185 162 else bitsOf t 59 36
/-- SSH of COPY. -/
def tcwSsh (t : Tcw) : Bool := tcwOp t == 0x10 && bitOf t 187
/-- DSH of COPY. -/
def tcwDsh (t : Tcw) : Bool := tcwOp t == 0x10 && bitOf t 186
/-- The source slot. -/
def tcwSslot (t : Tcw) : Nat := bitsOf t 161 157
/-- The destination slot. -/
def tcwDslot (t : Tcw) : Nat := bitsOf t 97 93
/-- RM of COMPR. -/
def tcwRm (t : Tcw) : Nat := bitsOf t 180 178
/-- ESIZE of GATHER and SCATTER. -/
def tcwEsize (t : Tcw) : Nat := 2 * (bitsOf t 115 105 + 1)
/-- IDXW in bits. -/
def tcwIdxw (t : Tcw) : Nat := if tcwOp t = 0x16 then (if bitOf t 142 then 32 else 16) else if bitOf t 104 then 32 else 16
/-- BOUND. -/
def tcwBound (t : Tcw) : Nat := bitsOf t 102 70
/-- SENEN. -/
def tcwSenen (t : Tcw) : Bool := bitOf t 103
/-- COUNT. -/
def tcwCount (t : Tcw) : Nat := bitsOf t 31 0
/-- Whether an entry rounds with SR (R388). -/
def tcwDraws (t : Tcw) (frm : Nat) : Bool :=
  tcwOp t == 0x12 && tcwEtype t != 0x18 && (tcwRm t == 5 || (tcwRm t == 6 && frm == 5))

/-- The checks of a TCW's own fields (0x22) (R322, R323, R389, R399 to R407). -/
def tcwOk (t : Tcw) : Bool :=
  tcwAssigned t && bitsOf t 242 240 == 0 && (tcwSig t || bitsOf t 239 188 == 0) &&
  (match tcwOp t with
   | 0x01 | 0x02 => bitsOf t 171 0 == 0 && bitsOf t 187 185 != bitsOf t 184 182 && bitsOf t 187 185 != bitsOf t 181 179
   | 0x03 => bitsOf t 179 0 == 0 && bitsOf t 187 180 != 0
   | 0x04 | 0x05 =>
     let sz := if bitOf t 184 then 4 else 2
     bitsOf t 86 0 == 0 && bitsOf t 150 87 % sz == 0 && bitsOf t 182 151 % sz == 0
   | 0x10 =>
     bitsOf t 33 0 == 0 && (!tcwSsh t || bitsOf t 156 98 == 0) && (!tcwDsh t || bitsOf t 92 34 == 0) &&
     (if tcwSsh t || tcwDsh t then tcwBytes t == 0 else tcwBytes t != 0)
   | 0x15 => bitsOf t 35 0 == 0 && tcwBytes t != 0
   | 0x11 => bitsOf t 36 0 == 0 && tcwNgrp t != 0 && ((0x10 ≤ tcwEtype t && tcwEtype t ≤ 0x15) || tcwEtype t == 0x18)
   | 0x12 => bitsOf t 32 0 == 0 && tcwNgrp t != 0 && ((0x10 ≤ tcwEtype t && tcwEtype t ≤ 0x15) || (tcwEtype t == 0x18 && tcwRm t == 0)) &&
     tcwRm t != 7
   | 0x13 | 0x14 => true
   | 0x16 =>
     let ty := bitsOf t 164 160; let n := bitsOf t 159 143
     bitsOf t 102 0 == 0 && (ty ≤ 6 || (8 ≤ ty && ty ≤ 10)) && 1 ≤ n && n ≤ 65536 && bitsOf t 186 165 % ((typeOf ty).container / 8) == 0
   | 0x17 => tcwSig t && bitsOf t 187 0 == 0
   | _ => false)

/-- The limits of GATHER and SCATTER (0x23) (R168, R405). -/
def tcwLimitsOk (t : Tcw) : Bool :=
  if tcwOp t = 0x13 ∨ tcwOp t = 0x14 then
    tcwBound t != 0 && tcwBound t ≤ 2 ^ tcwIdxw t && (!tcwSenen t || tcwBound t ≤ 2 ^ tcwIdxw t - 2) && tcwCount t ≤ 65536
  else true

/-- The tiles that a TCW names, as a mask of the launch's own numbers (R132). -/
def tcwTiles (t : Tcw) : Nat :=
  match tcwOp t with
  | 0x01 | 0x02 => 2 ^ bitsOf t 187 185 ||| 2 ^ bitsOf t 184 182 ||| 2 ^ bitsOf t 181 179
  | 0x03 => bitsOf t 187 180
  | 0x04 | 0x05 => 2 ^ bitsOf t 187 185
  | _ => 0

/-- Whether an entry touches tiles only (R190). -/
def tcwTileOnly (t : Tcw) : Bool := tcwOp t == 1 || tcwOp t == 2 || tcwOp t == 3

/-! ## Shape descriptors (R136) -/

/-- Word i of a descriptor. -/
def shWord (d : BitVec 256) (i : Nat) : Word := BitVec.ofNat 64 (bitsOf d (64 * i + 63) (64 * i))
/-- TYPE. -/
def shType (d : BitVec 256) : Nat := bitsOf (shWord d 3) 31 27
/-- RANK. -/
def shRank (d : BitVec 256) : Nat := bitsOf (shWord d 3) 26 24
/-- MX. -/
def shMx (d : BitVec 256) : Bool := bitOf (shWord d 3) 23
/-- SIZEi. -/
def shSize (d : BitVec 256) (i : Nat) : Nat := bitsOf (shWord d 1) (63 - 16 * i) (48 - 16 * i)
/-- STRIDEi of dimensions 1 to 3. -/
def shStride (d : BitVec 256) (i : Nat) : Int :=
  toSigned 32 (if i = 1 then bitsOf (shWord d 2) 63 32 else if i = 2 then bitsOf (shWord d 2) 31 0 else bitsOf (shWord d 3) 63 32)
/-- BASE. -/
def shBase (d : BitVec 256) : Word := shWord d 0
/-- The checks of a descriptor at its load (R136). -/
def shOk (d : BitVec 256) : Bool :=
  let ty := typeOf (shType d); let r := shRank d
  ty != .none && bitsOf (shWord d 3) 22 0 == 0 && 1 ≤ r && r ≤ 4 &&
  (List.range 4).all (fun i => if i < r then shSize d i != 0 else shSize d i == 1) &&
  (if shMx d then 0x10 ≤ shType d && shType d ≤ 0x15 && shSize d 0 % 32 == 0
   else shType d != 0x15 && !(shType d == 20 && shSize d 0 % 2 == 1) &&
     (shType d == 20 || (shBase d).toNat % (ty.container / 8) == 0))
/-- The bytes of one row (dimension 0). -/
def shRow (d : BitVec 256) : Nat :=
  if shMx d then shSize d 0 / 32 * (mxBytes (shType d) + 1) else shSize d 0 * (typeOf (shType d)).container / 8
/-- The bytes of the whole sequence (R402). -/
def shBytes (d : BitVec 256) : Nat := shRow d * (shSize d 1 * shSize d 2 * shSize d 3)
/-- The address of byte b of the sequence, dimension 0 innermost. -/
def shAddr (d : BitVec 256) (b : Nat) : Word :=
  let row := b / shRow d
  shBase d + BitVec.ofNat 64 (b % shRow d) +
    BitVec.ofInt 64 ((row % shSize d 1 : Nat) * shStride d 1 + (row / shSize d 1 % shSize d 2 : Nat) * shStride d 2 +
      (row / shSize d 1 / shSize d 2 : Nat) * shStride d 3)
/-- The ranges (address, bytes) that n bytes from byte b of a shaped sequence occupy, row part by row part. -/
def shRanges (d : BitVec 256) (b n : Nat) : List (Word × Nat) :=
  (cuts b n (max 1 (shRow d))).map (fun p => (shAddr d p.1, p.2))

end Sys2Proof.Machine
end

