-- ==== Sys2Proof/Machine/Unit.lean ====
section
/-! DEFINITION. Machine/Unit.lean: the accesses that an engine or a unit of a core makes for a launch (R165, R190 to R194, R390): local
and on this device at once, at a peer by a request whose answer it awaits. -/
namespace Sys2Proof.Machine

/-- For whom a unit acts: its number in the far list, the core, launch, mode, and what a fault record names. -/
structure UnitFor where
  tid    : Nat
  core   : Nat
  launch : Launch
  kernel : Bool
  wid    : Word
  pc     : Word

/-- An access of a unit: done, still waiting, or failed (cause, address, device of the failing party). -/
inductive UnitRes (α : Type) where
  | ok (s : State) (v : α)
  | wait (s : State)
  | fail (s : State) (code : Nat) (addr : Word) (dev : Nat)

/-- The pages of a translated access of a unit at address a: it waits for a walk as a thread set does (R159, R160, R165). -/
def unitPages (s : State) (u : UnitFor) (a : Word) (ps : List (Nat × Nat)) (right : Nat) : UnitRes (List (Nat × Nat)) :=
  match ps with
  | [] => .ok s []
  | p :: r =>
    match xlateOn s u.tid u.core u.launch.ctx p.1 with
    | .miss s => .wait s
    | .fail s c => .fail s c a (ownId s)
    | .hit s e =>
      if bitOf e.rights right then
        match unitPages s u a r right with
        | .ok s ks => .ok s ((e.physOf p.1, p.2) :: ks)
        | .wait s => .wait s
        | .fail s c a d => .fail s c a d
      else .fail s 0x11 a (ownId s)

/-- Where n bytes of a unit's access lie (R147 to R149, R165). -/
def unitPlace (s : State) (u : UnitFor) (a : Word) (n right : Nat) : UnitRes Place :=
  let fail := fun (c : Nat) => UnitRes.fail s c a (ownId s)
  match decodeAddr s a with
  | .nowhere => fail 0x10
  | .ownTcm _ | .ownSpad _ => (match launchKey s u.launch u.core a n with | .ok k => .ok s (.near k) | .error c => fail c)
  | .window x =>
    if (if isTcm x then isTcm (x + n - 1) else isSpad (x + n - 1)) then
      (if u.kernel || windowAllowed s u.launch.ctx x n then .ok s (.far (windowKeys s x n)) else fail 0x11)
    else fail 0x10
  | .register _ => fail 0x11
  | .peer d va => if va + n ≤ 0xFFF000000000 then .ok s (.peer d va) else fail 0x10
  | .translated va =>
    if va + n ≤ 0xFFF000000000 then
      if right == rightRD && (inletAt s u.launch.ctx va).isSome then fail 0x11
      else (match unitPages s u a (cuts va n 0x10000) right with
            | .ok s ks => .ok s (.far ks)
            | .wait s => .wait s
            | .fail s c a d => .fail s c a d)
    else fail 0x10
/-- The key ranges of a place on this device. -/
def Place.keys (p : Place) (n : Nat) : List (Nat × Nat) := match p with | .near k => [(k, n)] | .far ks => ks | _ => []
/-- Whether a unit's access to a peer has to wait (R64). -/
def unitLimit (s : State) (u : UnitFor) (d va : Nat) (isStore : Bool) (n : Nat := 1) : Bool :=
  peerLimitOf s (if u.tid < 0xC000 then some u.core else none) (s.ctx u.launch.ctx).job d va isStore n

/-- The far access of a unit for an address and kind, where one is on its way or has ended. -/
def unitFar (s : State) (u : UnitFor) (k : FarKind) (a : Word) : Option Far :=
  s.far.find? (fun f => f.tid == u.tid && f.kind == k && f.addr == a)
/-- Every ended far access of a unit forgotten. -/
def unitForget (s : State) (tid : Nat) : State := { s with far := s.far.filter (fun f => !(f.tid == tid && f.over)) }
/-- As `unitForget`; the accesses that are still on their way belong to nobody from here on. -/
def unitLeave (s : State) (tid : Nat) : State :=
  { unitForget s tid with far := (unitForget s tid).far.map (fun (f : Far) => if f.tid == tid then { f with tid := tid / 8 * 8 + 7 } else f) }
/-- Whether a unit has posted stores that its step has not yet seen the end of. -/
def unitPosted (s : State) (tid : Nat) : Bool := s.far.any (fun f => f.tid == tid && f.kind == .store)
/-- Whether a unit has a far access on its way. -/
def unitBusy (s : State) (tid : Nat) : Bool := s.far.any (fun f => f.tid == tid && !f.over)
/-- The first failure among a unit's ended far accesses. -/
def unitFailed (s : State) (tid : Nat) : Option Far := s.far.find? (fun f => f.tid == tid && f.fail != 0)

/-- A unit's request to a peer put on its way. -/
def unitSend (s : State) (u : UnitFor) (k : FarKind) (a : Word) (d va n : Nat) (data : List Byte) : State :=
  let (s, id) := freshId s
  let s := (takePeerSlot s u.launch.ctx d).1
  { s with far := s.far ++ [{
      id := id, tid := u.tid, ctx := u.launch.ctx, kernel := u.kernel, wid := u.wid, pc := u.pc, kind := k, addr := a,
      pieces := [{ key := va, pos := 0, len := n }], data := data, dest := .none, slot := none, taint := 0, dev := d + 1, own := true }] }

/-- A unit's store to an inlet of this device put on its way: it is taken by the stream as its share allows (R262). -/
def unitPost (s : State) (u : UnitFor) (a : Word) (key : Nat) (bs : List Byte) : State :=
  let (s, id) := freshId s
  { s with far := s.far ++ [{
      id := id, tid := u.tid, ctx := u.launch.ctx, kernel := u.kernel, wid := u.wid, pc := u.pc, kind := .store, addr := a,
      pieces := [inletPiece key 0 0 bs.length], data := bs, dest := .none, slot := none, taint := 0, own := true }] }

/-- The device number that a failure of a far access names (R288). -/
def Far.party (f : Far) (s : State) : Nat := if f.dev = 0 then ownId s else f.dev - 1

/-- A read of n bytes by a unit. -/
def unitRead (s : State) (u : UnitFor) (a : Word) (n : Nat) : UnitRes (List Byte) :=
  match unitPlace s u a n rightRD with
  | .fail s c a d => .fail s c a d
  | .wait s => .wait s
  | .ok s (.peer d va) =>
    match unitFar s u .load a with
    | none => if unitLimit s u d va false then .wait s else .wait (unitSend s u .load a d va n [])
    | some f => if f.fail != 0 then .fail s f.fail a d else if f.performed then .ok s f.data else .wait s
  | .ok s p =>
    match arrive s (.unit u.tid) (p.keys n) with
    | (s, true) => .wait s
    | (s, false) =>
      match readKeys s (p.keys n) with
      | .error c => .fail (countUe s (p.keys n) c) c a (ownId s)
      | .ok bs => .ok s bs

/-- A read of several ranges, one after the other, as one list of bytes: every request goes out before the first answer is awaited. -/
def unitReads (s : State) (u : UnitFor) (rs : List (Word × Nat)) : UnitRes (List Byte) :=
  match rs with
  | [] => .ok s []
  | r :: rest =>
    match unitRead s u r.1 r.2 with
    | .fail s c a d => .fail s c a d
    | .wait s => match unitReads s u rest with | .fail s c a d => .fail s c a d | .wait s => .wait s | .ok s _ => .wait s
    | .ok s bs =>
      match unitReads s u rest with
      | .ok s more => .ok s (bs ++ more)
      | .wait s => .wait s
      | .fail s c a d => .fail s c a d

/-- A write of bytes by a unit: at a peer posted (the limits of R64 are looked at by `unitAsk`). -/
def unitWrite (s : State) (u : UnitFor) (a : Word) (bs : List Byte) : UnitRes Unit :=
  match unitPlace s u a bs.length rightWR with
  | .fail s c a d => .fail s c a d
  | .wait s => .wait s
  | .ok s (.peer d va) => .ok (unitSend s u .store a d va bs.length bs) ()
  | .ok s p =>
    let ks := p.keys bs.length
    if addr48 a < 0xFFF000000000 && (inletAt s u.launch.ctx (addr48 a)).isSome then
      .ok (unitPost s u a ((ks.headD (0, 0)).1) bs) ()
    else match arrive s (.unit u.tid) ks with
      | (s, true) => .wait s
      | (s, false) =>
        match writeKeys s ks bs with
        | .error c => .fail (countUe s ks c) c a (ownId s)
        | .ok s => .ok s ()

/-- Writes of several ranges from one list of bytes, in order. -/
def unitWrites (s : State) (u : UnitFor) (rs : List (Word × Nat)) (bs : List Byte) : UnitRes Unit :=
  match rs with
  | [] => .ok s ()
  | r :: rest =>
    match unitWrite s u r.1 (bs.take r.2) with
    | .ok s _ => unitWrites s u rest (bs.drop r.2)
    | .wait s => .wait s
    | .fail s c a d => .fail s c a d

/-- How many of a unit's writes to some ranges, from the first on, can be made now: their pages are translated, no access has to queue at
its homes, no limit of R64 is reached. The state has what it asks for until then; `n` requests of the kind come before. -/
def unitRoom (s : State) (u : UnitFor) (rs : List (Word × Nat)) (n : Nat := 0) : State × Nat :=
  match rs with
  | [] => (s, 0)
  | r :: rest =>
    match unitPlace s u r.1 r.2 rightWR with
    | .fail _ _ _ _ => let x := unitRoom s u rest n; (x.1, x.2 + 1)
    | .wait s' => ((unitRoom s' u rest n).1, 0)
    | .ok s' (.peer d va) =>
      if unitLimit s u d va true (n + 1) then (s', 0) else let x := unitRoom s' u rest (n + 1); (x.1, x.2 + 1)
    | .ok s' p =>
      if mustQueue s' (.unit u.tid) (p.keys r.2) then ((unitRoom (queueUp s' (.unit u.tid) (p.keys r.2)) u rest n).1, 0)
      else let x := unitRoom s' u rest n; (x.1, x.2 + 1)
/-- Whether a unit's writes to some ranges can all be made now. -/
def unitAsk (s : State) (u : UnitFor) (rs : List (Word × Nat)) : State × Bool :=
  let x := unitRoom s u rs
  (x.1, x.2 == rs.length)

end Sys2Proof.Machine
end

