-- ==== Sys2Proof/Machine/Engine.lean ====
section
/-! DEFINITION. Machine/Engine.lean: the engine queues (R142, R398), tile tokens (R133), and the running of entries step by step (R238,
R390, R399 to R407, R169). -/
namespace Sys2Proof.Machine

/-- Queue q of a core: 0 the matrix queue, 1 the copy queue. -/
def queueOf (s : State) (g q : Nat) : EngQueue := if q = 0 then (s.core g).mq else (s.core g).cq
/-- Queue q of a core replaced. -/
def setQueue (s : State) (g q : Nat) (u : EngQueue) : State :=
  s.setCore g (if q = 0 then { s.core g with mq := u } else { s.core g with cq := u })
/-- Every entry of a queue and its engine: running, paused, queued. -/
def EngQueue.all (u : EngQueue) : List Entry := u.running.toList ++ u.paused.toList ++ u.queued ++ u.writeback
/-- Whether a queue takes no more entries (R142, R295). -/
def EngQueue.full (u : EngQueue) : Bool := decide (2 ≤ u.queued.length) || !u.writeback.isEmpty

/-! ## Tokens (R133) -/

/-- The physical tiles that an entry names, as a mask. -/
def entryTiles (s : State) (g : Nat) (e : Entry) : Nat :=
  match (s.launch e.launch).bind (fun l => l.onCore g) with
  | some a => tcwTiles e.tcw * 2 ^ a.tile
  | none => 0
/-- A physical tile of a core. -/
def tileOf (s : State) (g t : Nat) : Tile := (s.core g).tiles.toList.getD t {}
/-- A physical tile of a core replaced. -/
def setTile (s : State) (g t : Nat) (v : Tile) : State := s.setCore g { s.core g with tiles := (s.core g).tiles.setIfInBounds t v }
/-- Whether the engine holds the tokens of every tile of a mask. -/
def tokensFree (s : State) (g mask : Nat) : Bool :=
  (List.range 8).all (fun t => mask / 2 ^ t % 2 == 0 || (tileOf s g t).holder.isNone)
/-- Whether the head of the matrix queue names a tile, and so waits for its token. -/
def headNames (s : State) (g t : Nat) : Bool :=
  match (s.core g).mq.queued with
  | e :: _ => e.fence.isNone && entryTiles s g e / 2 ^ t % 2 == 1
  | [] => false
/-- Entries of the matrix queue numbered below a bound that name a physical tile. -/
def olderNames (s : State) (g t bound : Nat) : Bool :=
  (s.core g).mq.all.any (fun e => e.fence.isNone && e.id < bound && entryTiles s g e / 2 ^ t % 2 == 1)
/-- A token given back (R133): to the operation that waits at the head, which the waiting thread sets then await, else to a waiting thread
set that awaits no operation, else to the engine. -/
def giveToken (s : State) (g t : Nat) : State :=
  let v := tileOf s g t
  if headNames s g t then
    let n := match (s.core g).mq.queued with | e :: _ => e.id + 1 | [] => 0
    setTile s g t { v with holder := none, waiters := v.waiters.map (fun w => (w.1, max w.2 n)) }
  else match v.waiters.find? (fun w => !olderNames s g t w.2) with
    | none => setTile s g t { v with holder := none }
    | some w => setTile s g t { v with holder := some w.1, waiters := v.waiters.filter (fun x => x.1 != w.1) }
/-- Tokens that the engine holds pass to the thread sets whose operations have all finished (R133). -/
def passTokens (s : State) (g : Nat) : State :=
  (List.range 8).foldl (fun s t =>
    let v := tileOf s g t
    match v.holder, v.waiters.find? (fun w => !olderNames s g t w.2) with
    | none, some w => setTile s g t { v with holder := some w.1, waiters := v.waiters.filter (fun x => x.1 != w.1) }
    | _, _ => s) s
/-- Every token that a thread set holds given back, and its waits forgotten (R133, R340). -/
def giveAll (s : State) (g tid : Nat) : State :=
  (List.range 8).foldl (fun s t =>
    let s := setTile s g t { tileOf s g t with waiters := (tileOf s g t).waiters.filter (fun w => w.1 != tid) }
    if (tileOf s g t).holder == some tid then giveToken s g t else s) s
/-- Element [r][c] of a tile. -/
def Tile.get (t : Tile) (r c : Nat) : Nat := (tget t.elems (32 * r + c) 0).toNat
/-- Element [r][c] of a tile replaced. -/
def Tile.put (t : Tile) (r c v : Nat) : Tile :=
  { t with elems := tset t.elems (32 * r + c) (BitVec.ofNat 32 v), bad := t.bad.filter (fun k => k != 32 * r + c) }
/-- Whether a row of a tile, or a column, has an element with an error (R299). -/
def Tile.lineBad (t : Tile) (column : Bool) (i : Nat) : Bool := t.bad.any (fun k => (if column then k % 32 else k / 32) == i)

/-! ## Entries -/

/-- For whom an entry acts. -/
def entryUnit (s : State) (g q : Nat) (e : Entry) : Option UnitFor :=
  (s.launch e.launch).map (fun l => { tid := unitTid g q, core := g, launch := l, kernel := e.kernel, wid := e.wid, pc := e.pc })
/-- AGENT of an entry (R390). -/
def entryAgent (e : Entry) (q : Nat) : Nat := if q = 0 then 1 else if tcwOp e.tcw = 0x13 then 3 else 2

/-- The local references of an entry over their whole extent (R390): (address, bytes). -/
def entryLocals (t : Tcw) : List (Word × Nat) :=
  let w := tcwIdxw t / 8
  (match tcwOp t with
   | 0x13 | 0x14 => [(localRef (bitsOf t 69 51) 19 16, tcwCount t * w), (localRef (bitsOf t 50 32) 19 16, tcwCount t * tcwEsize t)]
   | 0x16 =>
     let n := bitsOf t 159 143
     [(localRef (bitsOf t 187 165) 23 1, n * ((typeOf (bitsOf t 164 160)).container / 8)), (localRef (bitsOf t 141 123) 19 16, n * w),
      (localRef (bitsOf t 122 103) 20 8, 8)]
   | _ => []) ++ (if tcwSig t then [(localRef (tcwCword t) 20 8, 8)] else [])

/-- The byte count of a COPY (R402). -/
def copyBytes (e : Entry) : Nat :=
  match e.srcDesc, e.dstDesc with
  | some d, _ => shBytes d
  | none, some d => shBytes d
  | none, none => tcwBytes e.tcw
/-- The number of steps of an entry, as PROGRESS counts them. [DEDUCED, unsafe: log 99] -/
def entrySteps (e : Entry) : Nat :=
  let t := e.tcw
  match tcwOp t with
  | 0x01 | 0x02 => bitsOf t 178 174 + 1
  | 0x03 => 8
  | 0x04 | 0x05 => 32
  | 0x10 => (copyBytes e + 4095) / 4096
  | 0x15 => (tcwBytes t + 4095) / 4096
  | 0x11 | 0x12 => tcwNgrp t
  | 0x13 | 0x14 => tcwCount t
  | 0x16 => bitsOf t 159 143 + 1
  | _ => 0

/-- The block addresses of a far read of an entry enter its activation's read signature (R195). -/
def entryNoteRead (s : State) (e : Entry) (rs : List (Word × Nat)) : State :=
  if e.retired then s
  else
    match (s.thread e.tid).act with
    | some x =>
      if inOrdered s e.tid then
        let sig := rs.foldl (fun b r => if isLocalAddr s r.1 then b else b ||| sigRange (plainAddr s r.1) r.2) x.rsig
        s.setThread e.tid { s.thread e.tid with act := some { x with rsig := sig } }
      else s
    | none => s

/-- Bytes written by a held entry, noted as 16-byte-aligned pieces to be folded (R83, R199). -/
def entryNoteWrite (s : State) (e : Entry) (rs : List (Word × Nat)) (bs : List Byte) : Entry :=
  if e.fold then
    (rs.foldl (fun (acc : Entry × List Byte) r =>
      let ps := if isLocalAddr s r.1 then [] else
        (cuts (addr48 r.1) r.2 16).map (fun p => (r.1 + BitVec.ofNat 64 (p.1 - addr48 r.1), (acc.2.drop (p.1 - addr48 r.1)).take p.2))
      ({ acc.1 with wrote := acc.1.wrote ++ ps }, acc.2.drop r.2)) (e, bs)).1
  else e

/-- Pieces in ascending address order. -/
def insertPiece (p : Word × List Byte) (l : List (Word × List Byte)) : List (Word × List Byte) :=
  match l with
  | [] => [p]
  | q :: r => if q.1.toNat ≤ p.1.toNat then q :: insertPiece p r else p :: q :: r
/-- The far bytes of a held entry take its place in the stores to be folded (R83, R199). -/
def foldEntry (s : State) (e : Entry) : State :=
  if e.fold then fillMark s e.id (e.wrote.foldl (fun acc p => insertPiece p acc) []) else s
/-- What a held entry is about to overwrite, appended to the undo region (R85). -/
def entryUndo (s : State) (e : Entry) (rs : List (Word × Nat)) : State :=
  match s.launch e.launch with
  | some l => if e.fold && l.logs then undoAppend s l (rs.filter (fun r => !isLocalAddr s r.1)) else s
  | none => s

/-! ## Steps -/

/-- One k-step of MMA and MMAZ (R238, R399). -/
def mmaStep (s : State) (g base : Nat) (t : Tcw) (k : Nat) : State :=
  let a := tileOf s g (base + bitsOf t 184 182); let b := tileOf s g (base + bitsOf t 181 179)
  let d := tileOf s g (base + bitsOf t 187 185)
  let d := if tcwOp t = 0x02 ∧ k = 0 then { d with elems := [], bad := [] } else d
  let col := (List.range 32).map (fun i => (if bitOf t 173 then a.get k i else a.get i k) / 65536)
  let row := (List.range 32).map (fun j => (if bitOf t 172 then b.get j k else b.get k j) / 65536)
  let elems : Tab (BitVec 32) := (List.range 1024).map (fun n =>
    (n, BitVec.ofNat 32 (macRNE32 (d.get (n / 32) (n % 32)) (col.getD (n / 32) 0) (row.getD (n % 32) 0))))
  setTile s g (base + bitsOf t 187 185) { d with elems := elems, bad := [] }
/-- Whether a step of an entry meets a tile error (R299): in what it accumulates to, in its lines of A and B, in the line it stores.
[DEDUCED, unsafe: log 125] -/
def tileError (s : State) (g base : Nat) (t : Tcw) (k : Nat) : Bool :=
  let a := tileOf s g (base + bitsOf t 184 182); let b := tileOf s g (base + bitsOf t 181 179); let d := tileOf s g (base + bitsOf t 187 185)
  match tcwOp t with
  | 0x01 | 0x02 =>
    (!(tcwOp t == 0x02 && k == 0) && !d.bad.isEmpty) || a.lineBad (!bitOf t 173) k || b.lineBad (bitOf t 172) k
  | 0x05 => d.lineBad (bitOf t 183) k
  | _ => false

/-- A write of an entry's step once it can be made, and the entry after it. -/
def unitPut (s : State) (u : UnitFor) (e : Entry) (a : Word) (bs : List Byte) (next : State → Entry) : UnitRes Entry :=
  match unitAsk s u [(a, bs.length)] with
  | (s, false) => .wait s
  | (s, true) =>
    match unitWrite (entryUndo s e [(a, bs.length)]) u a bs with
    | .ok s _ => .ok s (next s)
    | .wait s => .wait s
    | .fail s c x d => .fail s c x d
/-- One row of ALOAD and ASTORE (R401): BF16 widens as a conversion does, a NaN to the canonical one (R224). -/
def rowStep (s : State) (u : UnitFor) (g base : Nat) (e : Entry) (r : Nat) : UnitRes Entry :=
  let t := e.tcw
  let f32 := bitOf t 184; let tr := bitOf t 183
  let sz := if f32 then 4 else 2
  let a := BitVec.ofNat 64 (bitsOf t 150 87) + BitVec.ofNat 64 (r * bitsOf t 182 151)
  let ti := base + bitsOf t 187 185
  let next := { e with progress := r + 1 }
  if tcwOp t = 0x04 then
    match unitRead (entryNoteRead s e [(a, 32 * sz)]) u a (32 * sz) with
    | .wait s => .wait s
    | .fail s c x d => .fail s c x d
    | .ok s bs =>
      let vs := (unitsOf 32 sz bs).map (fun v => if f32 then v else (Fmt.f32.convert 0 0 false (Fmt.bf16.value v)).1)
      let tile := vs.zipIdx.foldl (fun (tl : Tile) p => if tr then tl.put p.2 r p.1 else tl.put r p.2 p.1) (tileOf s g ti)
      .ok (setTile s g ti tile) next
  else
    let tile := tileOf s g ti
    let bs := (List.range 32).flatMap (fun c =>
      let v := if tr then tile.get c r else tile.get r c
      natBytes sz (if f32 then v else (Fmt.bf16.convert 0 0 false (Fmt.f32.value v)).1))
    unitPut s u e a bs (fun s => entryNoteWrite s next [(a, 32 * sz)] bs)

/-- The ranges of a side of a COPY for n bytes from byte b. -/
def copySide (desc : Option (BitVec 256)) (a : Word) (b n : Nat) : List (Word × Nat) :=
  match desc with
  | some d => shRanges d b n
  | none => [(a + BitVec.ofNat 64 b, n)]

/-- What a failing unit of a COPY or FILL leaves (R402: it may be partly written): of each aligned 16-byte piece on this device it is a
free choice whether it is written. [DESIGN CHOICE, safe: log 123] -/
def partlyWritten (s : State) (u : UnitFor) (dst : List (Word × Nat)) (bs : List Byte) : State :=
  let ps := (dst.foldl (fun (acc : List (Word × List Byte) × List Byte) r =>
    (acc.1 ++ (cuts r.1.toNat r.2 16).map (fun c => (BitVec.ofNat 64 c.1, (acc.2.drop (c.1 - r.1.toNat)).take c.2)), acc.2.drop r.2)) ([], bs)).1
  ps.foldl (fun s p =>
    let (s, b) := freshBit s
    match decodeAddr s p.1 with
    | .peer _ _ => s
    | _ => if b then (match unitWrite s u p.1 p.2 with | .ok s _ => s | _ => s) else s) s

/-- Ranges without their first n bytes. -/
def dropRanges (l : List (Word × Nat)) (n : Nat) : List (Word × Nat) :=
  match l with
  | [] => []
  | r :: rest => if r.2 ≤ n then dropRanges rest (n - r.2) else (r.1 + BitVec.ofNat 64 n, r.2 - n) :: rest
/-- Bytes read from some ranges and, transformed, written to others. Where a limit of R64 is reached the entry pauses at that request: what
has been written of the step is kept in `part`. -/
def moveStep (s : State) (u : UnitFor) (e : Entry) (src dst : List (Word × Nat)) (f : List Byte → List Byte) : UnitRes Entry :=
  let src := dropRanges src e.part
  let dst := dropRanges dst e.part
  match unitReads (entryNoteRead s e src) u src with
  | .wait s => .wait s
  | .fail s c x d => .fail s c x d
  | .ok s bs =>
    match unitRoom s u dst with
    | (s, k) =>
      if k = 0 && !dst.isEmpty then .wait s
      else
        let now := dst.take k
        let n := (now.map (fun r => r.2)).sum
        match unitWrites (entryUndo s e now) u now ((f bs).take n) with
        | .ok s _ =>
          let e := entryNoteWrite s e now ((f bs).take n)
          .ok s (if k < dst.length then { e with part := e.part + n } else { e with progress := e.progress + 1, part := 0 })
        | .wait s => .wait s
        | .fail s' c x d => .fail (if tcwOp e.tcw == 0x10 || tcwOp e.tcw == 0x15 then partlyWritten s u dst (f bs) else s') c x d

/-- The wide format of DECOMP and COMPR. -/
def wideFmt (t : Tcw) : Fmt := if bitOf t 182 then .f32 else .bf16
/-- The packed bytes of a group of 32 elements. -/
def packedBytes (t : Tcw) : Nat := if tcwEtype t = 0x18 then 32 else mxBytes (tcwEtype t) + 1
/-- A packed group expanded (R235, R236). -/
def expandGroup (t : Tcw) (tb : List (BitVec 19)) (bs : List Byte) : List Byte :=
  let f := wideFmt t; let w := f.width / 8
  if tcwEtype t = 0x18 then bs.flatMap (fun b => natBytes w (f.convert 0 0 false (Fmt.e8m10.value (tb.getD b.toNat 0).toNat)).1)
  else
    let img := leNat bs
    (mxElems (tcwEtype t) img).flatMap (fun x => natBytes w (mxDecodeElem (tcwEtype t) (mxScale (tcwEtype t) img) x f).1)
/-- A wide group packed (R234, R236). -/
def compressGroup (t : Tcw) (tb : List (BitVec 19)) (draws : List Nat) (bs : List Byte) : List Byte :=
  let f := wideFmt t; let w := f.width / 8
  let xs := (unitsOf 32 w bs).map (fun v => f.value v)
  if tcwEtype t = 0x18 then xs.map (fun x => BitVec.ofNat 8 (tableEncode tb (bitOf t 181) x).1)
  else
    let (es, sc, _) := mxEncode (tcwEtype t) (tcwRm t) (bitOf t 181) draws xs
    natBytes (mxBytes (tcwEtype t) + 1) (mxPack (tcwEtype t) es sc)
/-- One group of DECOMP or COMPR (R404). -/
def groupStep (s : State) (u : UnitFor) (e : Entry) : UnitRes Entry :=
  let t := e.tcw; let k := e.progress
  let tb := match (s.core u.core).table with | some x => if x.launch == e.launch then x.codes else [] | none => []
  let wide := 32 * ((wideFmt t).width / 8); let pk := packedBytes t
  if tcwOp t = 0x11 then
    moveStep s u e [(tcwSrc t + BitVec.ofNat 64 (k * pk), pk)] [(tcwDst t + BitVec.ofNat 64 (k * wide), wide)] (expandGroup t tb)
  else
    let draws := (List.range 32).map (fun i =>
      drawOf u.launch.seed.toNat e.srSel.toNat e.wid.toNat ((e.srBase.toNat + 32 * k + i) % 2 ^ 32))
    moveStep s u e [(tcwSrc t + BitVec.ofNat 64 (k * wide), wide)] [(tcwDst t + BitVec.ofNat 64 (k * pk), pk)] (compressGroup t tb draws)

/-- One position of GATHER or SCATTER (R169, R405). -/
def indexStep (s : State) (u : UnitFor) (e : Entry) : UnitRes Entry :=
  let t := e.tcw; let k := e.progress; let w := tcwIdxw t / 8; let es := tcwEsize t
  let slot := localRef (bitsOf t 50 32) 19 16 + BitVec.ofNat 64 (k * es)
  match unitRead s u (localRef (bitsOf t 69 51) 19 16 + BitVec.ofNat 64 (k * w)) w with
  | .wait s => .wait s
  | .fail s c x d => .fail s c x d
  | .ok s ib =>
    let i := leNat ib
    let next := { e with progress := k + 1 }
    if tcwSenen t && i == 2 ^ tcwIdxw t - 1 then
      let e' := { next with zfilled := e.zfilled + 1 }
      if tcwOp t = 0x13 then unitPut s u e slot (List.replicate es 0) (fun _ => e') else .ok s e'
    else if tcwBound t ≤ i then
      .ok s { next with skipped := e.skipped + 1, firstSkip := if e.skipped = 0 then k else e.firstSkip }
    else
      let a := bitsOf t 187 140 + i * bitsOf t 139 116
      if 2 ^ 48 < a + es then .fail s 0x10 (BitVec.ofNat 64 a) (ownId s)
      else if tcwOp t = 0x13 then
        match moveStep s u e [(BitVec.ofNat 64 a, es)] [(slot, es)] id with
        | .ok s e => .ok s { next with wrote := e.wrote }
        | r => r
      else
        match moveStep s u e [(slot, es)] [(BitVec.ofNat 64 a, es)] id with
        | .ok s e => .ok s { next with wrote := e.wrote }
        | r => r

/-- Whether an element is live (R406). -/
def liveElem (c : TypeCode) (v : Nat) : Bool :=
  match c with
  | .flt f => (match f.value v with | .fin _ 0 _ => false | _ => true)
  | _ => v != 0
/-- One element of NZSCAN, and at the end the count (R406). `skipped` counts the entries written. -/
def scanStep (s : State) (u : UnitFor) (e : Entry) : UnitRes Entry :=
  let t := e.tcw; let k := e.progress
  let ty := typeOf (bitsOf t 164 160); let w := ty.container / 8; let iw := tcwIdxw t / 8
  let next := { e with progress := k + 1 }
  if k = bitsOf t 159 143 then unitPut s u e (localRef (bitsOf t 122 103) 20 8) (natBytes 8 e.skipped) (fun _ => next)
  else
    match unitRead s u (localRef (bitsOf t 187 165) 23 1 + BitVec.ofNat 64 (k * w)) w with
    | .wait s => .wait s
    | .fail s c x d => .fail s c x d
    | .ok s bs =>
      if liveElem ty (leNat bs) then
        unitPut s u e (localRef (bitsOf t 141 123) 19 16 + BitVec.ofNat 64 (e.skipped * iw)) (natBytes iw k)
          (fun _ => { next with skipped := e.skipped + 1 })
      else .ok s next

/-- One step of a running entry. -/
def entryStep (s : State) (u : UnitFor) (g : Nat) (e : Entry) : UnitRes Entry :=
  let t := e.tcw; let k := e.progress
  let base := match u.launch.onCore g with | some a => a.tile | none => 0
  if tileError s g base t k then .fail (s.setCore g { s.core g with regUe := (s.core g).regUe + 1 }) 0x60 0 (ownId s) else
  match tcwOp t with
  | 0x01 | 0x02 => .ok (mmaStep s g base t k) { e with progress := k + 1 }
  | 0x03 =>
    .ok (if bitOf t (180 + k) then setTile s g (base + k) { tileOf s g (base + k) with elems := [], bad := [] } else s) { e with progress := k + 1 }
  | 0x04 | 0x05 => rowStep s u g base e k
  | 0x10 =>
    let n := min 4096 (copyBytes e - 4096 * k)
    moveStep s u e (copySide e.srcDesc (tcwSrc t) (4096 * k) n) (copySide e.dstDesc (tcwDst t) (4096 * k) n) id
  | 0x15 =>
    let n := min 4096 (tcwBytes t - 4096 * k)
    moveStep s u e [] [(tcwDst t + BitVec.ofNat 64 (4096 * k), n)]
      (fun _ => (List.range n).map (fun b => BitVec.ofNat 8 (bitsOf t 187 124 / 2 ^ (8 * (b % 8)))))
  | 0x11 | 0x12 => groupStep s u e
  | 0x13 | 0x14 => indexStep s u e
  | 0x16 => scanStep s u e
  | _ => .ok s { e with progress := k + 1 }

/-! ## Completion -/

/-- An entry's completion word (R193, R390), or the cause with which it cannot be written. -/
def entryWord (s : State) (u : UnitFor) (t : Tcw) (v : Nat) : Except Nat State :=
  match launchKey s u.launch u.core (localRef (tcwCword t) 20 8) 8 with
  | .error c => .error c
  | .ok k => match homeFails s k 8 false with | some c => .error c | none => .ok (memWrite s k (natBytes 8 v))
/-- The completion word arrives at its home, or waits there (R163). -/
def entryWordArrive (s : State) (u : UnitFor) (t : Tcw) : State × Bool :=
  if !tcwSig t then (s, false)
  else match launchKey s u.launch u.core (localRef (tcwCword t) 20 8) 8 with | .ok k => arrive s (.unit u.tid) [(k, 8)] | .error _ => (s, false)

/-- A fault record of an entry (R390). [DESIGN CHOICE, safe: log 101] -/
def entryFault (s : State) (u : UnitFor) (q : Nat) (e : Entry) (code : Nat) (a : Word) (dev : Nat) : State :=
  writeFault s u.launch.ctx { dev := dev, tid := some e.tid, retired := e.retired, agent := entryAgent e q, code := code, addr := a,
                              wid := e.wid, opc := tcwOp e.tcw, pc := e.pc }

/-- Entries that may run while another is paused or about to be (R190, R398): the first that qualifies, and the queue without it. -/
def overtaker (s : State) (g : Nat) (p : Entry) (l : List Entry) : Option Entry :=
  match l with
  | [] => none
  | e :: r =>
    if e.fence.isSome || !tcwTileOnly e.tcw then none
    else if p.eprio < e.eprio && (entryTiles s g e &&& entryTiles s g p) == 0 && tokensFree s g (entryTiles s g e) then some e
    else overtaker s g p r
/-- An entry as it starts or resumes: its effective priority returns to PRIO (R324, R398). -/
def Entry.started' (e : Entry) : Entry := { e with eprio := tcwPrio e.tcw, started := true, paused := false }

/-- An entry that starts or resumes: its local references are checked over their whole extent, before any access (R390). -/
def runNow (s : State) (g q : Nat) (u : EngQueue) (e : Entry) : State :=
  let e := e.started'
  let bad := match entryUnit s g q e with
    | none => none
    | some f => (entryLocals e.tcw).find? (fun (l : Word × Nat) => l.2 != 0 && (match launchKey s f.launch g l.1 l.2 with | .ok _ => false | .error _ => true))
  setQueue s g q { u with running := some (match bad with
    | some l => { e with failing := e.failing.or (some (0x11, l.1, ownId s)) }
    | none => e) }
/-- The paused entry of a free engine resumes, unless another meets the test against it (R398). -/
def resumePaused (s : State) (g q : Nat) (u : EngQueue) (p : Entry) : State :=
  match overtaker s g p u.queued with
  | some e => runNow s g q { u with queued := u.queued.filter (fun x => x.id != e.id) } e
  | none => setQueue s g q { u with running := some p.started', paused := none }
/-- The engine after its running entry has ended: tokens pass on (R133), and a paused entry resumes (R398). -/
def afterEntry (s : State) (g q : Nat) : State :=
  let u := { queueOf s g q with running := none }
  let s := if q = 0 then passTokens (setQueue s g q u) g else s
  match u.paused with
  | none => setQueue s g q u
  | some p => resumePaused s g q u p

/-- An entry ends (R193, R390): the fault record first where it failed, its completion word, the status that eng.stat reads, the
digest, and the engine goes on. [DEDUCED, unsafe: log 100] -/
def entryEnd (s : State) (g q : Nat) (u : UnitFor) (e : Entry) (cause : Option (Nat × Word × Nat)) : State :=
  let s := match cause with | some (c, a, d) => entryFault s u q e c a d | none => s
  let v := match cause with | some (c, _, _) => 2 ^ 63 + c * 2 ^ 32 + tcwCval e.tcw | none => tcwCval e.tcw
  let (s, code) :=
    if tcwSig e.tcw then
      match entryWord s u e.tcw v with
      | .ok s => (s, match cause with | some (c, _, _) => c | none => 0)
      | .error c =>
        (match cause with
         | some (c0, _, _) => (s, c0)
         | none => (entryFault s u q e c (localRef (tcwCword e.tcw) 20 8) (ownId s), c))
    else (s, match cause with | some (c, _, _) => c | none => 0)
  let t := s.thread e.tid
  let gs := tcwOp e.tcw = 0x13 || tcwOp e.tcw = 0x14
  let s := s.setThread e.tid { t with
    engCode := if q = 0 then (code, t.engCode.2) else (t.engCode.1, code)
    gatherCounts := if gs then (e.skipped, e.zfilled, e.firstSkip) else t.gatherCounts }
  afterEntry (foldEntry (forgetMisses (unitLeave s u.tid) u.tid) e) g q

/-- The running entry of a queue replaced. -/
def setRunning (s : State) (g q : Nat) (e : Entry) : State := setQueue s g q { queueOf s g q with running := some e }

/-- A running entry ends once its accesses have ended (R193) and its completion word can be written. -/
def finishEntry (s : State) (g q : Nat) (u : UnitFor) (e : Entry) (cause : Option (Nat × Word × Nat)) : State :=
  if unitBusy s u.tid then setRunning s g q { e with failing := cause }
  else match entryWordArrive s u e.tcw with
    | (s, true) => setRunning s g q { e with failing := cause }
    | (s, false) => entryEnd s g q u e cause
/-- The entry that is to overtake the running one at its k-step boundary (R190, R398): the engine holds no other paused one. -/
def overtakes (s : State) (g : Nat) : Option Entry :=
  match (s.core g).mq.running, (s.core g).mq.paused with
  | some r, none => if tcwTileOnly r.tcw && r.progress != 0 && r.failing.isNone then overtaker s g r (s.core g).mq.queued else none
  | _, _ => none
/-- At a k-step boundary a queued entry of higher priority pauses the running one (R190, R398). -/
def overtake (s : State) (g : Nat) : State :=
  match overtakes s g with
  | some e => runNow s g 0 { (s.core g).mq with paused := (s.core g).mq.running.map (fun r => { r with paused := true }),
                                                queued := (s.core g).mq.queued.filter (fun x => x.id != e.id) } e
  | none => s

/-- One step of the running entry of a queue: another may overtake it first (R398); it waits for the answers of the step before; a failure
ends it; after the last step it ends. -/
def runEntry (s : State) (g q : Nat) : State :=
  match (queueOf s g q).running with
  | none => s
  | some e =>
    match entryUnit s g q e with
    | none => afterEntry s g q
    | some u =>
      match (match e.failing with | some c => some c | none => (unitFailed s u.tid).map (fun f => (f.fail, f.addr, f.party s))) with
      | some c => finishEntry s g q u e (some c)
      | none =>
        if unitPosted s u.tid then (if unitBusy s u.tid then s else unitForget s u.tid)
        else if entrySteps e ≤ e.progress then finishEntry s g q u e none
        else if q = 0 && (overtakes s g).isSome then overtake s g
        else
          match entryStep s u g e with
          | .wait s => s
          | .fail s c a d => finishEntry s g q u e (some (c, a, d))
          | .ok s e' => setRunning (if unitPosted s u.tid then s else unitForget s u.tid) g q e'

/-- Whether a fence entry is complete (R191): every entry pushed earlier to a named queue has ended. -/
def fenceDone (s : State) (g : Nat) (e : Entry) (mask : BitVec 2) : Bool :=
  !((bitOf mask 0 && (s.core g).mq.all.any (fun x => x.id < e.id)) || (bitOf mask 1 && (s.core g).cq.all.any (fun x => x.id < e.id)))

/-- The head of a queue starts (R398): with the engine free and its tokens held by the engine. A paused entry comes first. -/
def startEntry (s : State) (g q : Nat) : State :=
  let u := queueOf s g q
  match u.running, u.paused, u.queued with
  | none, some p, _ => resumePaused s g q u p
  | none, none, e :: r => if e.fence.isSome || !tokensFree s g (entryTiles s g e) then s else runNow s g q { u with queued := r } e
  | _, _, _ => s

/-- The fence at the head of a queue leaves it once it is complete (R391). -/
def endFence (s : State) (g q : Nat) : State :=
  let u := queueOf s g q
  match u.running, u.queued with
  | none, e :: r =>
    (match e.fence with
     | some m => if fenceDone s g e m then setQueue s g q { u with queued := r } else s
     | none => s)
  | _, _ => s

end Sys2Proof.Machine
end

