-- ==== Sys2Proof/Machine/EngineOps.lean ====
section
/-! DEFINITION. Machine/EngineOps.lean: custom-3 group 001 (R387): pushing entries, fences, waits and status, tile tokens, shape slots,
the decode table, saving and resuming a queue (R388 to R397), and row moves (R386). -/
namespace Sys2Proof.Machine

/-- The executing thread set's launch. -/
def State.myLaunch (s : State) : Option Launch := launchOf s s.cur
/-- Its launch's sequence number; all ones where it runs nothing. -/
def State.mySeq (s : State) : Nat := match s.myAct with | some a => a.launch | none => 0xFFFFFFFFFFFFFFFF

/-! ## Pushing (R388, R391) -/

/-- The TCW in a register pair (R142), with RM 110 replaced by the thread set's FRM (R404). [DEDUCED, unsafe: log 98] -/
def pairTcw (s : State) (a : Reg) : Tcw :=
  let t : Tcw := (rdV s (a + 1) ++ rdV s a)
  if tcwOp t = 0x12 ∧ tcwRm t = 6 then (t &&& ~~~(BitVec.ofNat 256 (7 * 2 ^ 178))) ||| BitVec.ofNat 256 (s.frmNow * 2 ^ 178) else t

/-- The shape slot that the executing launch loaded, if it is slot i (R135). -/
def mySlotDesc (s : State) (i : Nat) : Option (BitVec 256) :=
  match s.co.shapes.toList.getD i none with
  | some x => if x.launch == s.mySeq then some x.desc else none
  | none => none

/-- The checks of eng.push (R388) on the raw pair: the cause of the first that fails. -/
def pushCause (s : State) (raw t : Tcw) : Option Nat :=
  let tab := (tcwOp t = 0x11 || tcwOp t = 0x12) && tcwEtype t == 0x18
  if !tcwOk raw then some 0x22
  else if tcwTiles t / 2 ^ (tilesOf s s.cur).1 != 0 then some 0x20
  else if (tcwSsh t && (mySlotDesc s (tcwSslot t)).isNone) || (tcwDsh t && (mySlotDesc s (tcwDslot t)).isNone) then some 0x23
  else if tab && (myTable s).isNone then some 0x23
  else if !tcwLimitsOk t then some 0x23
  else
    match (if tcwSsh t then mySlotDesc s (tcwSslot t) else none), (if tcwDsh t then mySlotDesc s (tcwDslot t) else none) with
    | some x, some y => if shBytes x == shBytes y then none else some 0x22
    | _, _ => none

/-- Whether n bytes lie in one own window. -/
def localRange (s : State) (a : Word) (n : Nat) : Bool :=
  match decodeAddr s a, decodeAddr s (a + BitVec.ofNat 64 (n - 1)) with
  | .ownTcm _, .ownTcm _ => true
  | .ownSpad _, .ownSpad _ => true
  | _, _ => false
/-- The outermost rows of a shape: between them lie all others. -/
def shCorners (d : BitVec 256) : List Word :=
  (List.range 8).map (fun c =>
    shBase d + BitVec.ofInt 64 ((List.range 3).foldl (fun (v : Int) i => if c / 2 ^ i % 2 = 1 then v + (shSize d (i + 1) - 1 : Nat) * shStride d (i + 1) else v) 0))
/-- The parts of an entry's destination that lie furthest out: every byte that it can write lies between them. -/
def dstBounds (s : State) (t : Tcw) : List (Word × Nat) :=
  match tcwOp t with
  | 0x05 =>
    let n := if bitOf t 184 then 128 else 64
    [(BitVec.ofNat 64 (bitsOf t 150 87), n), (BitVec.ofNat 64 (bitsOf t 150 87) + BitVec.ofNat 64 (31 * bitsOf t 182 151), n)]
  | 0x10 =>
    (match (if tcwDsh t then mySlotDesc s (tcwDslot t) else none) with
     | some d => (shCorners d).map (fun a => (a, shRow d))
     | none => [(tcwDst t, if tcwSsh t then (match mySlotDesc s (tcwSslot t) with | some d => shBytes d | none => 0) else tcwBytes t)])
  | 0x15 => [(tcwDst t, tcwBytes t)]
  | 0x11 => [(tcwDst t, tcwNgrp t * (32 * ((wideFmt t).width / 8)))]
  | 0x12 => [(tcwDst t, tcwNgrp t * packedBytes t)]
  | 0x14 =>
    let a := bitsOf t 187 140
    if tcwCount t = 0 then []
    else [(BitVec.ofNat 64 a, tcwEsize t), (BitVec.ofNat 64 (a + (tcwBound t - 1) * bitsOf t 139 116), tcwEsize t)]
  | _ => []
/-- Whether an entry can write a far byte (R199, R388): its destination does not lie wholly in one own window. -/
def writesFar (s : State) (t : Tcw) : Bool :=
  let l := dstBounds s t
  l.any (fun p => !localRange s p.1 p.2 || (match decodeAddr s p.1, decodeAddr s (l.headD (0, 0)).1 with
    | .ownTcm _, .ownTcm _ => false
    | .ownSpad _, .ownSpad _ => false
    | _, _ => true))

/-- The entry that a push places (R388). [DEDUCED, safe: log 102] -/
def pushEntry (s : State) (t : Tcw) (id : Nat) (fence : Option (BitVec 2)) : Entry :=
  { id := id, tcw := t, fence := fence, launch := s.mySeq, tid := s.cur, kernel := s.kernelNow, wid := s.th.wid, pc := s.pcNow
    eprio := tcwPrio t, srcDesc := if tcwSsh t then mySlotDesc s (tcwSslot t) else none
    dstDesc := if tcwDsh t then mySlotDesc s (tcwDslot t) else none }

/-- The command log (R304): an accepted TCW of the logged core's matrix queue is appended after the snapshot. -/
def elogAppend (s : State) (g q : Nat) (e : Entry) : State :=
  let c := s.dbg.elogCtl
  if bitOf c 0 && q == 0 && bitsOf c 27 16 == g && e.fence.isNone then
    let n := bitsOf c 63 32
    let a := s.dbg.elogBase.toNat + 4096 * s.dbg.snapshot.length + 64 * n
    let bs := natBytes 32 e.tcw.toNat ++ natBytes 8 e.wid.toNat ++ natBytes 8 e.pc.toNat ++ natBytes 8 (Config.cycleAt s.steps).toNat ++ natBytes 8 0
    let s := if isHbm a && physOk a 64 then memWrite s a bs else s
    { s with dbg := { s.dbg with
      log := s.dbg.log ++ [(e.tcw, e.wid, e.pc, e.launch)]
      elogCtl := BitVec.ofNat 64 (c.toNat % 2 ^ 32 + (n + 1) % 2 ^ 32 * 2 ^ 32) } }
  else s
/-- An entry put at the tail of a queue, with a number; SRCTR moves on where it rounds with SR (R230). -/
def placeEntry (s : State) (q : Nat) (e : Entry) : State :=
  let (s, id) := freshId s
  let e := { e with id := id }
  let s := elogAppend s s.myCore q e
  setQueue s s.myCore q { queueOf s s.myCore q with queued := (queueOf s s.myCore q).queued ++ [e] }

/-- SRBASE and SRSEL of an entry that rounds with SR, and SRCTR moved on. -/
def takeSr (s : State) (e : Entry) : State × Entry :=
  if tcwDraws e.tcw 0 then
    let c := s.th.srctr
    (s.setTh { s.th with srctr := BitVec.ofNat 64 (srSel c * 2 ^ 32 + (srCnt c + 32 * tcwNgrp e.tcw) % 2 ^ 32) },
     { e with srBase := BitVec.ofNat 32 (srCnt c), srSel := BitVec.ofNat 32 (srSel c) })
  else (s, e)

/-- What an entry takes as it is appended for a thread set (R388): copies of the shape slots that it names, and SRCTR where it rounds with
SR. -/
def appendEntry (s : State) (tid : Nat) (e : Entry) : State × Entry :=
  let s1 := { s with cur := tid }
  let x := takeSr s1 { e with
    srcDesc := if tcwSsh e.tcw then (mySlotDesc s1 (tcwSslot e.tcw)).or e.srcDesc else none
    dstDesc := if tcwDsh e.tcw then (mySlotDesc s1 (tcwDslot e.tcw)).or e.dstDesc else none }
  ({ x.1 with cur := s.cur }, x.2)
/-- A push that finds its queue full: 0x21 where the head waits for a token of the same thread set (R134), else a wait. -/
def pushFull (s : State) (q : Nat) : Eff :=
  let own := match (queueOf s s.myCore q).queued with
    | e :: _ => e.fence.isNone && (List.range 8).any (fun t => entryTiles s s.myCore e / 2 ^ t % 2 == 1 && (tileOf s s.myCore t).holder == some s.cur)
    | [] => false
  if own then trapE s 0x21 else waitE s

/-- The effect of eng.push. -/
def pushEff (s : State) (m : Mask) (a : Reg) : Eff :=
  let raw : Tcw := rdV s (a + 1) ++ rdV s a
  let t := pairTcw s a
  match pushCause s raw t with
  | some c => trapE s c
  | none =>
    if (m.taint &&& s.th.outstanding) != 0 then waitE s
    else
      let e := pushEntry s t 0 none
      if inOrdered s s.cur && writesFar s t then
        match s.myAct with
        | none => .ok s
        | some x =>
          let (s, id) := freshId s
          .ok (setAct s (logAt s { x with held := x.held ++ [.entry { e with id := id, fold := true } (tcwQueue t == 1)] } [(BitVec.ofNat 64 id, [])]))
      else if (queueOf s s.myCore (tcwQueue t)).full then pushFull s (tcwQueue t)
      else
        let (s, e) := takeSr s e
        .ok (placeEntry s (tcwQueue t) e)

/-- R388: eng.push. It counts as drawing where its entry rounds with SR, or may, while the register with its header is pending. -/
def execEngPush (a : Reg) (s : State) : Host.Outcome State Fault Refusal :=
  let pending := farPendV s s.cur (a + 1) || s.th.entries.any (fun e => e.use.wv.contains (a + 1))
  issueD (.engPush a) { rv := [a, a + 1], draws := pending || tcwDraws (pairTcw s a) 0, afterStores := true, queue := true } (fun m s => pushEff s m a) s

/-- R391: eng.qfence: a fence entry at the tail of a queue. -/
def execEngQfence (i : BitVec 5) (s : State) : Host.Outcome State Fault Refusal :=
  issueD (.engQfence i) { queue := true } (fun _ s =>
    let q := if bitOf i 2 then 1 else 0
    if (queueOf s s.myCore q).full then waitE s
    else .ok (placeEntry s q (pushEntry s 0 0 (some (BitVec.ofNat 2 (bitsOf i 1 0)))))) s

/-- R392: eng.wait: until every entry that the thread set pushed to the queue has completed. -/
def execEngWait (i : BitVec 5) (s : State) : Host.Outcome State Fault Refusal :=
  issueN (.engWait i) false (fun s =>
    if (queueOf s s.myCore (bitsOf i 0 0)).all.any (fun e => e.tid == s.cur) then waitE s else .ok s) s

/-- The word of eng.stat (R393). -/
def engStatWord (s : State) (q : Nat) : Word :=
  let t := s.th
  let code := if q = 0 then t.engCode.1 else t.engCode.2
  let (sk, zf, fs) := if q = 0 then (0, 0, 0) else t.gatherCounts
  BitVec.ofNat 64 ((queueOf s s.myCore q).all.length % 8 * 2 ^ 61 + code % 128 * 2 ^ 54 + fs % 2 ^ 16 * 2 ^ 34 + zf % 2 ^ 17 * 2 ^ 17 + sk % 2 ^ 17)
/-- R393: eng.stat. -/
def execEngStat (d : Reg) (i : BitVec 5) (s : State) : Host.Outcome State Fault Refusal :=
  issueD (.engStat d i) { wx := [d], noMask := true, late := true } (fun _ s => .ok (wrX s {} d (engStatWord s (bitsOf i 0 0)))) s

/-! ## Queue images (R397) -/

/-- The 128 bytes of an entry in a queue image. A fence entry has an all-zero TCW but for its mask in bits [1:0].
[DEDUCED, unsafe: log 98] -/
def entryImage (e : Entry) : List Byte :=
  let t : Nat := match e.fence with | some m => m.toNat | none => e.tcw.toNat
  let hi := e.srcDesc.isNone
  natBytes 32 t ++ natBytes 8 e.progress ++
  natBytes 8 (e.eprio % 4 + e.tid % 4 * 4 + (if e.paused then 16 else 0)) ++ natBytes 8 e.wid.toNat ++
  natBytes 8 (e.srBase.toNat + e.srSel.toNat * 2 ^ 32) ++
  (if hi then natBytes 8 0 ++ natBytes 8 (e.skipped % 2 ^ 17 + e.zfilled % 2 ^ 17 * 2 ^ 17 + e.firstSkip % 2 ^ 16 * 2 ^ 34) ++ natBytes 16 0
   else natBytes 32 (match e.srcDesc with | some d => d.toNat | none => 0)) ++
  natBytes 32 (match e.dstDesc with | some d => d.toNat | none => 0)
/-- The image of some entries of a launch's queue: 576 bytes. -/
def queueImage (q seq : Nat) (es : List Entry) : List Byte :=
  (natBytes 8 (es.length % 8 + q % 2 * 8 + 16) ++ natBytes 8 seq ++ natBytes 48 0 ++ (es.take 4).flatMap entryImage ++
    List.replicate (576 - 64 - 128 * (min 4 es.length)) 0).take 576
/-- An entry read back from an image (R397), `started` where it is to resume. The PC of its eng.push is not in the image: a free value.
[DEDUCED, unsafe: log 98] -/
def entryFrom (s : State) (seq : Nat) (bs : List Byte) (id : Nat) (pc : Word) (started : Bool) : Entry :=
  let t : Tcw := BitVec.ofNat 256 (leNat (bs.take 32))
  let w := leWord (bs.drop 40)
  let cnt := leWord (bs.drop 0x48)
  let desc := fun (on : Bool) (o : Nat) => if on then some (BitVec.ofNat 256 (leNat ((bs.drop o).take 32))) else none
  let fence := t.toNat != 0 && t.toNat < 4
  { id := id, tcw := if fence then 0 else t, fence := if fence then some (BitVec.ofNat 2 t.toNat) else none, launch := seq
    tid := s.myCore * 4 + bitsOf w 3 2, kernel := s.kernelNow, wid := leWord (bs.drop 0x30), pc := pc
    progress := (leWord (bs.drop 32)).toNat, eprio := bitsOf w 1 0, paused := bitOf w 4, started := started
    srBase := BitVec.ofNat 32 (bitsOf (leWord (bs.drop 0x38)) 31 0), srSel := BitVec.ofNat 32 (bitsOf (leWord (bs.drop 0x38)) 63 32)
    srcDesc := desc (tcwSsh t) 0x40, dstDesc := desc (tcwDsh t) 0x60
    skipped := if tcwSsh t then 0 else bitsOf cnt 16 0, zfilled := if tcwSsh t then 0 else bitsOf cnt 33 17
    firstSkip := if tcwSsh t then 0 else bitsOf cnt 49 34 }

/-- The checks of x[rs1] that eng.save and eng.resume share: queue and image address. -/
def imageArg (s : State) (v : Word) : Except Stop (Nat × Word) := do
  if inOrdered s s.cur then trapE s 0x01
  if bitsOf v 5 1 != 0 then trapE s 0x23
  .ok (bitsOf v 0 0, v &&& ~~~(63 : Word))

/-- R397: eng.save: the launch's entries leave the queue for the image. [DEDUCED, unsafe: log 98] -/
def execEngSave (a : Reg) (s : State) : Host.Outcome State Fault Refusal :=
  issueNR (.engSave a) false [a] [] (fun s => afterAcquire s do
    let (q, addr) ← imageArg s (rdX s a)
    let u := queueOf s s.myCore q
    let mine := fun (e : Entry) => e.launch == s.mySeq
    if u.running.any mine && (unitBusy s (unitTid s.myCore q) || (unitFailed s (unitTid s.myCore q)).isSome ||
        u.running.any (fun e => e.failing.isSome || e.part != 0)) then waitE s
    let es := (u.running.toList ++ u.paused.toList ++ u.queued).filter mine
    let s ← ownWrite s (s.th.maskX a) addr (queueImage q s.mySeq es)
    let s := if u.running.any mine then forgetMisses (unitForget s (unitTid s.myCore q)) (unitTid s.myCore q) else s
    .ok (passTokens (setQueue s s.myCore q
      { u with running := u.running.filter (fun e => !mine e), paused := u.paused.filter (fun e => !mine e), queued := u.queued.filter (fun e => !mine e) }) s.myCore)) s

/-- Entries installed in a queue in image order (R295, R397): the first one, where it had been started and is neither paused nor a fence,
resumes once its tokens are the engine's; one marked PAUSED is the paused entry; the others are queued. [DEDUCED, unsafe: log 98] -/
def installEntries (s : State) (g q : Nat) (u : EngQueue) (es : List Entry) : State :=
  let rest := fun (u : EngQueue) (l : List Entry) =>
    { u with paused := (l.find? (fun e => e.paused)).or u.paused, queued := u.queued ++ l.filter (fun e => !e.paused) }
  match es with
  | [] => setQueue s g q u
  | e :: r =>
    if e.started && !e.paused && e.fence.isNone && u.running.isNone && u.queued.isEmpty && tokensFree s g (entryTiles s g e) then
      runNow s g q (rest u r) e
    else setQueue s g q (rest u es)

/-- R397: eng.resume: the image's entries enter the empty queue. -/
def execEngResume (a : Reg) (s : State) : Host.Outcome State Fault Refusal :=
  issueNR (.engResume a) false [a] [] (fun s => afterAcquire s do
    let (q, addr) ← imageArg s (rdX s a)
    let u := queueOf s s.myCore q
    if !inOwnAllot s s.cur addr 576 then trapE s 0x11 addr
    if !u.all.isEmpty || !u.writeback.isEmpty || unitBusy s (unitTid s.myCore q) then waitE s
    let (s, bs) ← ownRead s (s.th.maskX a) addr 576
    let w := leWord bs
    let n := bitsOf w 2 0
    if bitsOf w 7 4 != 1 || 4 < n || bitsOf w 3 3 != q || (leWord (bs.drop 8)).toNat != s.mySeq then trapE s 0x23 addr
    let (s, es) := (List.range n).foldl (fun (acc : State × List Entry) i =>
      let (s, pc) := freshWord acc.1
      let (s, id) := freshId s
      (s, acc.2 ++ [entryFrom s s.mySeq (bs.drop (64 + 128 * i)) id pc (i == 0)])) (s, [])
    .ok (installEntries s s.myCore q u es)) s

/-! ## Tile tokens (R394) -/

/-- The effect of acc.take on a tile of the launch. -/
def takeEff (s : State) (i : Nat) : Eff :=
  let (acct, base) := tilesOf s s.cur
  if acct ≤ i then trapE s 0x20
  else
    let t := base + i; let g := s.myCore
    let v := tileOf s g t
    let bound := match v.waiters.find? (fun w => w.1 == s.cur) with | some w => w.2 | none => s.nextId
    let waiting := setTile s g t { v with waiters := if v.waiters.any (fun w => w.1 == s.cur) then v.waiters else v.waiters ++ [(s.cur, bound)] }
    match v.holder with
    | some h => if h == s.cur then .ok s else waitE waiting
    | none =>
      if olderNames s g t bound then waitE waiting
      else .ok (setTile s g t { v with holder := some s.cur, waiters := v.waiters.filter (fun w => w.1 != s.cur) })
/-- A tile read and written, as R129 counts it. -/
def tileBit (i : Nat) : BitVec 8 := BitVec.ofNat 8 (2 ^ (i % 8))
/-- R394: acc.take. -/
def execAccTake (i : BitVec 5) (s : State) : Host.Outcome State Fault Refusal :=
  issueD (.accTake i) { rt := tileBit i.toNat, wt := tileBit i.toNat } (fun _ s => takeEff s i.toNat) s
/-- R394: acc.give. -/
def execAccGive (i : BitVec 5) (s : State) : Host.Outcome State Fault Refusal :=
  issueD (.accGive i) { rt := tileBit i.toNat, wt := tileBit i.toNat } (fun _ s =>
    let (acct, base) := tilesOf s s.cur
    if acct ≤ i.toNat then trapE s 0x20
    else if (tileOf s s.myCore (base + i.toNat)).holder != some s.cur then trapE s 0x20
    else .ok (giveToken s s.myCore (base + i.toNat))) s

/-! ## Row moves (R386) -/

/-- The physical tile, row and first column that x[rs1] names, or 0x20. -/
def rowSel (s : State) (v : Word) : Except Stop (Nat × Nat × Nat) :=
  let (acct, base) := tilesOf s s.cur
  if acct ≤ bitsOf v 2 0 then trapE s 0x20
  else if (tileOf s s.myCore (base + bitsOf v 2 0)).holder != some s.cur then trapE s 0x20
  else .ok (base + bitsOf v 2 0, bitsOf v 7 3, 4 * bitsOf v 10 8)
/-- R386: vacc.ld. While rs1 is pending it counts as reading every tile. -/
def execVaccLd (d a : Reg) (s : State) : Host.Outcome State Fault Refusal :=
  let rt : BitVec 8 := if s.winRun.isSome then 0 else if regsPend s [a] [] || s.th.entries.any (fun e => meetX [a] e.use.wx) then 255 else tileBit (bitsOf (rdX s a) 2 0)
  issueD (.vaccLd d a) { rx := [a], wv := [d], rt := rt } (fun m s => do
    let (t, r, c) ← rowSel s (rdX s a)
    if (List.range 4).any (fun k => (tileOf s s.myCore t).bad.contains (32 * r + c + k)) then
      trapE (s.setCo { s.co with regUe := s.co.regUe + 1 }) 0x60
    .ok (wrV s m d (packV 32 ((List.range 4).map (fun k => (tileOf s s.myCore t).get r (c + k)))))) s
/-- R386: vacc.st. -/
def execVaccSt (a b : Reg) (s : State) : Host.Outcome State Fault Refusal :=
  let rt : BitVec 8 := if s.winRun.isSome then 0 else if regsPend s [a] [] || s.th.entries.any (fun e => meetX [a] e.use.wx) then 255 else tileBit (bitsOf (rdX s a) 2 0)
  issueD (.vaccSt a b) { rx := [a], rv := [b], rt := rt, wt := rt } (fun _ s => do
    let (t, r, c) ← rowSel s (rdX s a)
    .ok (setTile s s.myCore t ((List.range 4).foldl (fun (tl : Tile) k => tl.put r (c + k) (lane 32 (rdV s b) k)) (tileOf s s.myCore t)))) s

/-! ## Shape slots and the decode table (R395, R396) -/

/-- A shape slot of the core. -/
def shapeOf (s : State) (i : Nat) : Option ShapeSlot := s.co.shapes.toList.getD i none
/-- A shape slot replaced. -/
def setShape (s : State) (i : Nat) (x : Option ShapeSlot) : State := s.setCo { s.co with shapes := s.co.shapes.setIfInBounds i x }
/-- Whether a slot is owned by another launch (R135). [DEDUCED, safe: log 103] -/
def foreignSlot (s : State) (i : Nat) : Bool := match shapeOf s i with | some x => x.launch != s.mySeq | none => false
/-- R395: shp.ld. -/
def execShpLd (a : Reg) (i : BitVec 5) (s : State) : Host.Outcome State Fault Refusal :=
  issueD (.shpLd a i) { rx := [a], mem := some { base := a, off := 0, size := 32, store := false } } (fun m s => blockDone (do
    if foreignSlot s i.toNat then trapE s 0x23
    if (rdX s a).toNat % 32 != 0 then trapE s 0x23 (rdX s a)
    let (s, bs) ← blockRead s m (rdX s a) 32
    let d : BitVec 256 := BitVec.ofNat 256 (leNat bs)
    if !shOk d then trapE s 0x23 (rdX s a)
    .ok (setShape s i.toNat (some { desc := d, launch := s.mySeq })))) s
/-- R395: shp.st. -/
def execShpSt (a : Reg) (i : BitVec 5) (s : State) : Host.Outcome State Fault Refusal :=
  issueD (.shpSt a i) { rx := [a], mem := some { base := a, off := 0, size := 32, store := true } } (fun m s => blockDone (do
    if foreignSlot s i.toNat || (shapeOf s i.toNat).isNone then trapE s 0x23
    if (rdX s a).toNat % 32 != 0 then trapE s 0x23 (rdX s a)
    let d := match shapeOf s i.toNat with | some x => x.desc | none => 0
    blockStores s m (rdX s a) ((List.range 4).map (fun k => natBytes 8 (bitsOf d (64 * k + 63) (64 * k)))))) s
/-- R395: shp.evict. -/
def execShpEvict (i : BitVec 5) (s : State) : Host.Outcome State Fault Refusal :=
  issueD (.shpEvict i) {} (fun _ s =>
    if foreignSlot s i.toNat || (shapeOf s i.toNat).isNone then trapE s 0x23 else .ok (setShape s i.toNat none)) s
/-- Whether an entry uses the decode table. -/
def Entry.usesTable (e : Entry) : Bool := (tcwOp e.tcw == 0x11 || tcwOp e.tcw == 0x12) && tcwEtype e.tcw == 0x18
/-- R396: tbl.ld. -/
def execTblLd (a : Reg) (s : State) : Host.Outcome State Fault Refusal :=
  issueD (.tblLd a) { rx := [a], mem := some { base := a, off := 0, size := 1024, store := false } } (fun m s => blockDone (do
    if (rdX s a).toNat % 64 != 0 then trapE s 0x23 (rdX s a)
    let foreign := match s.co.table with
      | some t => t.launch != s.mySeq && s.launches.any (fun l => l.seq == t.launch)
      | none => false
    if foreign then trapE s 0x23
    if (s.co.cq.all).any (fun e => e.usesTable) then waitE s
    let (s, bs) ← blockRead s m (rdX s a) 1024
    let ws := unitsOf 256 4 bs
    if ws.any (fun w => 2 ^ 19 ≤ w) then trapE s 0x23 (rdX s a)
    if !ws.any (fun w => (Fmt.e8m10.value w).isFin) then trapE s 0x23 (rdX s a)
    .ok (s.setCo { s.co with table := some { codes := ws.map (fun w => BitVec.ofNat 19 w), launch := s.mySeq } }))) s

end Sys2Proof.Machine
end

