-- ==== Sys2Proof/Machine/PacketFields.lean ====
section
/-! DEFINITION. Machine/PacketFields.lean: the BODY fields of a packet by kind (R50, R74), and packets of this device as it builds them. -/
namespace Sys2Proof.Machine

/-- BODY [hi:lo]. -/
def pbits (p : Packet) (hi lo : Nat) : Nat := bitsOf p.body hi lo
/-- A BODY from fields (hi, lo, value): every other bit is zero (R50). -/
def bodyOf (fs : List (Nat × Nat × Nat)) : BitVec 424 :=
  fs.foldl (fun b f => b ||| BitVec.ofNat 424 (f.2.2 % 2 ^ (f.1 + 1 - f.2.1) * 2 ^ f.2.1)) 0
/-- A BODY with the field [hi:lo] replaced. -/
def setBits (b : BitVec 424) (hi lo v : Nat) : BitVec 424 :=
  BitVec.ofNat 424 (b.toNat - bitsOf b hi lo * 2 ^ lo + v % 2 ^ (hi + 1 - lo) * 2 ^ lo)

/-- ADDR of a request. -/
def pAddr (p : Packet) : Nat := pbits p 423 376
/-- SIZE of a request. -/
def pSize (p : Packet) : Nat := pbits p 375 363
/-- TAG. -/
def pTag (p : Packet) : Nat := pbits p 362 347
/-- VIA, the intermediate group. -/
def pVia (p : Packet) : Nat := pbits p 346 337
/-- VIAV. -/
def pViaV (p : Packet) : Bool := pbits p 336 336 == 1
/-- VIADONE. -/
def pViaDone (p : Packet) : Bool := pbits p 335 335 == 1
/-- FIRST. -/
def pFirst (p : Packet) : Bool := pbits p 334 334 == 1
/-- STATUS of a response: 0, or a cause code. -/
def pStatus (p : Packet) : Nat := pbits p 329 322

/-- The fields common to all requests (R50). -/
def reqFields (addr size tag : Nat) : List (Nat × Nat × Nat) := [(423, 376, addr), (375, 363, size), (362, 347, tag)]
/-- The fields common to all responses (R50). -/
def respFields (tag status : Nat) : List (Nat × Nat × Nat) := [(362, 347, tag), (329, 322, status)]

/-- Bytes filled up with zeros to whole data flits. -/
def flitPad (bs : List Byte) : List Byte := bs ++ List.replicate ((bs.length + 63) / 64 * 64 - bs.length) 0
/-- A packet of this device, before its injection (R28, R53). -/
def newPacket (s : State) (kind dest : Nat) (job : BitVec 16) (fs : List (Nat × Nat × Nat)) (data : List Byte) : Packet := {
  kind := BitVec.ofNat 8 kind, len := (data.length + 63) / 64, dest := BitVec.ofNat 16 dest, origin := BitVec.ofNat 16 (ownId s),
  job := job, seq := 0, gen := s.fabric.cur, esc := false, hops := 0, body := bodyOf fs, data := flitPad data }

/-- Whether a kind is a sequenced one (R50). -/
def sequenced (kind : Nat) : Bool := kind == 1 || kind == 3 || kind == 5 || kind == 7 || kind == 0x0D || kind == 0x0E
/-- Whether a KIND is defined (R50). -/
def kindDefined (kind : Nat) : Bool := (1 ≤ kind && kind ≤ 9) || (0x0B ≤ kind && kind ≤ 0x0E)

/-- The local context of a job tag: the entry of lowest index (R49). -/
def jobCtx (s : State) (job : BitVec 16) : Option Nat :=
  (List.range 64).findSome? (fun j =>
    let e := tget s.fabric.jobs j 0
    if bitOf e 63 && bitsOf e 15 0 == job.toNat then some (bitsOf e 21 16) else none)

end Sys2Proof.Machine
end

