-- ==== Sys2Proof/Machine/Sched.lean ====
section
/-! DEFINITION. Machine/Sched.lean: deques (R110 to R112), where a call record goes and its refusals (R115), return messages (R116),
continuation records (R117, R118), the live count (R120), and the end of an activation's hold on its thread set (R118, R340). -/
namespace Sys2Proof.Machine

/-! ## Deques -/

/-- A launch's deque on a core, head first. It keeps its records while the context is Saved (R124). [DEDUCED, unsafe: log 47] -/
def dequeOf (s : State) (g seq : Nat) : List Record := tget (s.core g).deques seq []
/-- How many entries of a deque, from its head, are on the core (R110). -/
def onCoreOf (s : State) (g seq : Nat) : Nat := tget (s.core g).onCore seq 0
/-- The on-core entries of a launch's deques. -/
def Launch.onCap (l : Launch) : Nat := 16 * l.tsets
/-- The key of entry k of a deque's backing tiers on a core: first those in TCM, then those in die SRAM, where the tables of the context
place them (R100, R104, R110). [DEDUCED, unsafe: log 47] -/
def tierKey (s : State) (l : Launch) (g k : Nat) : Option Nat :=
  if k < l.dqtcm then (l.onCore g).map (fun a => tcmByte s l g (a.tcm * 4096) (l.tcmu * 4096 - l.dqtcm * 64 + 64 * k))
  else if k < l.dqtcm + l.dqsram then
    let va := l.dqbase + 64 * (l.dqsram * g + (k - l.dqtcm))
    match walkTables s l.ctx va with | .ok e => some (e.physOf va) | .error _ => none
  else none
/-- Records written to the backing tiers from their head on; the tables say where each goes before any is written. -/
def spill (s : State) (l : Launch) (g : Nat) (rs : List Record) : State :=
  (rs.mapIdx (fun k r => (tierKey s l g k, r))).foldl (fun s p =>
    match p.1 with
    | some a => if (homeFails s a 64 false).isSome then s else memWrite s a (wordsBytes p.2.words)
    | none => s) s
/-- A deque and its on-core count replaced, in the image too while the context is Saved (R124): the entries beyond the count stand in the
tiers in their order, each at its place from the head. -/
def setDeque (s : State) (g seq : Nat) (d : List Record) (on : Nat) : State :=
  let s := s.setCore g { s.core g with deques := tset (s.core g).deques seq d, onCore := tset (s.core g).onCore seq on }
  match s.launch seq with
  | some l =>
    let s := if launchSaved s l then
      memWrite s (imageBase s l + l.coreOff g + 0x2000) (fitBytes 0x1000 ((d.take on).flatMap (fun r => wordsBytes r.words))) else s
    spill s l g (d.drop on)
  | none => s
/-- The on-core count after entries have left: below half it is filled up again from the tiers, by at most 16 (R110). -/
def refilled (cap len on : Nat) : Nat := if 2 * on < cap then min (min len cap) (on + 16) else min len on

/-- The entries of a deque over its three tiers (R110). -/
def Launch.dequeCap (l : Launch) : Nat := l.onCap + l.dqtcm + l.dqsram
/-- The free entries of a deque. -/
def dequeRoom (s : State) (l : Launch) (g : Nat) : Nat := l.dequeCap - (dequeOf s g l.seq).length
/-- Whether a creation finds the deque full: it would leave fewer than TSETS entries free (R111). -/
def createFull (s : State) (l : Launch) (g : Nat) : Bool := decide (dequeRoom s l g ≤ l.tsets)
/-- The on-core entries of a launch by its number. -/
def onCapOf (s : State) (seq : Nat) : Nat := match s.launch seq with | some l => l.onCap | none => 0
/-- A record placed at the head, on the core: the last on-core entry spills where there is no room. -/
def putHead (s : State) (g seq : Nat) (r : Record) : State :=
  setDeque s g seq (r :: dequeOf s g seq) (min (onCoreOf s g seq + 1) (onCapOf s seq))
/-- Records placed at the tail: on the core where the tiers are empty and there is room. -/
def putTails (s : State) (g seq : Nat) (rs : List Record) : State :=
  let d := dequeOf s g seq
  let on := onCoreOf s g seq
  setDeque s g seq (d ++ rs) (if d.length ≤ on then min (on + rs.length) (max on (onCapOf s seq)) else on)
/-- One record placed at the tail. -/
def putTail (s : State) (g seq : Nat) (r : Record) : State := putTails s g seq [r]
/-- Record i taken out. -/
def takeRecordAt (s : State) (g seq i : Nat) : State :=
  let d := (dequeOf s g seq).eraseIdx i
  let on := onCoreOf s g seq
  setDeque s g seq d (refilled (onCapOf s seq) d.length (if i < on then on - 1 else on))
/-- The last n records taken out. -/
def dropTail (s : State) (g seq n : Nat) : State :=
  let d := (dequeOf s g seq).take ((dequeOf s g seq).length - n)
  setDeque s g seq d (refilled (onCapOf s seq) d.length (min (onCoreOf s g seq) d.length))

/-- The live count of a launch changed (R120). -/
def liveUp (s : State) (seq : Nat) : State :=
  match s.launch seq with | some l => s.setLaunch { l with live := l.live + 1 } | none => s
/-- As `liveUp`, down by one. -/
def liveDown (s : State) (seq : Nat) : State :=
  match s.launch seq with | some l => s.setLaunch { l with live := l.live - 1 } | none => s

/-! ## Calls (R115, R338) -/

/-- Whether a launch is resident on a core, or in a cluster. -/
def Launch.residentAt (l : Launch) (pool : Bool) (w : Nat) : Bool :=
  l.admitted && !l.stopped && (if pool then (l.inCluster w).isSome else (l.onCore w).isSome)
/-- The receiving launch (R115): the caller's where it is resident, else the oldest resident one with CALLIN of the context to which the job
maps here (R49). -/
def receiver (s : State) (caller : Option Nat) (job : BitVec 16) (pool : Bool) (w : Nat) : Option Launch :=
  match s.launches.find? (fun l => some l.seq == caller && l.residentAt pool w) with
  | some l => some l
  | none => s.launches.find? (fun l => some l.ctx == jobCtx s job && l.callin && l.residentAt pool w)
/-- A call record placed in the deque or the pool that a target word names, or the cause of its refusal (R115). -/
def placeCall (s : State) (caller : Option Nat) (job : BitVec 16) (target : Nat) (r : Record) : Except Nat State :=
  let pool := target / 0x8000 % 2 == 1
  let w := target % 0x1000
  match receiver s caller job pool w with
  | none => .error 0x53
  | some l =>
    if pool then .ok (refreshLaunch (liveUp (s.setLaunch { l with poolRecords := tset l.poolRecords w (tget l.poolRecords w [] ++ [r]) }) l.seq) l.seq)
    else if createFull s l w then .error 0x50
    else .ok (refreshLaunch (liveUp (putTail s w l.seq r) l.seq) l.seq)

/-! ## Return messages (R116, R339) -/

/-- The four words of a mailbox where a message lies in it. [DESIGN CHOICE, safe: log 12] -/
def boxMerge (s : State) (old new : List Word) : State × List Word :=
  if old.getD 3 0 = 0 then (s, new)
  else (List.range 4).foldl (fun (acc : State × List Word) i =>
    let (s, b) := freshBit acc.1
    (s, acc.2 ++ [if b then old.getD i 0 else new.getD i 0])) (s, [])
/-- The launch of a context that holds a mailbox in its TCM allotment. -/
def boxLaunch (s : State) (c g mbox : Nat) : Option Launch :=
  s.launches.find? (fun l => l.ctx == c && l.admitted &&
    (match l.onCore g with | some a => a.tcm * 4096 ≤ mbox && mbox + 32 ≤ a.tcm * 4096 + l.tcmu * 4096 | none => false))
/-- A message written to a mailbox, FLAG last; into the saved image while the context is Saved (R124). None where no launch of the
context holds the mailbox. -/
def deliverMessage (s : State) (c g mbox : Nat) (vals : List Word) : Option State :=
  match boxLaunch s c g mbox with
  | none => none
  | some l =>
    let b := match l.onCore g with | some a => a.tcm * 4096 | none => 0
    let k := tcmByte s l g b (mbox - b)
    let (s, v) := boxMerge s (leWords 4 (memRead s k 32)) vals
    some (memWrite s k (wordsBytes v))

/-- The words of a return message for a refused call record (R115). -/
def refusalWords (code : Nat) (r : Record) : List Word :=
  [0, 0, BitVec.ofNat 64 (2 ^ 63 + code), r.w1 ||| BitVec.ofNat 64 (2 ^ 63)]

/-- Who sends a message or a record, as a fault record names it. -/
structure Sender where
  tid : Nat
  ctx : Nat
  wid : Word
  pc  : Word
  agent : Nat := 9
  retired : Bool := false

/-- A far access of the scheduler for a thread set, which PACKET_INJECT sends (R50, R53). -/
def sendSched (s : State) (f : Sender) (kind : FarKind) (dev target : Nat) (data : List Byte) : State :=
  let (s, id) := freshId s
  let s := (takePeerSlot s f.ctx dev).1
  { s with far := s.far ++ [{
      id := id, tid := f.tid, ctx := f.ctx, kernel := false, wid := f.wid, pc := f.pc, kind := kind
      addr := BitVec.ofNat 64 ((dev + 1) * 2 ^ 48 + target), pieces := [{ key := target, pos := 0, len := data.length }], data := data
      dest := .none, slot := none, taint := 0, dev := dev + 1, retired := f.retired }] }

/-- A fault record of the scheduler or of a commit. -/
def schedFault (s : State) (f : Sender) (code dev : Nat) : State :=
  writeFault s f.ctx { dev := dev, tid := some f.tid, retired := f.retired, agent := f.agent, code := code, wid := f.wid, pc := f.pc }

/-- A return message on its way (R116): written at once on this device, else a Return message packet. One that cannot be delivered is
discarded with a fault record 0x30. [DEDUCED, unsafe: log 51] -/
def sendMessage (s : State) (f : Sender) (rdev core mbox : Nat) (vals : List Word) : State :=
  if rdev = 0 ∨ rdev = ownId s + 1 then
    match deliverMessage s f.ctx core mbox vals with
    | some s => s
    | none => schedFault s f 0x30 (ownId s)
  else if 0x8000 < rdev then schedFault s f 0x30 (ownId s)
  else sendSched s f .message (rdev - 1) (tcmBase + core * 0x20000 + mbox) (wordsBytes vals)

/-- A refusal of a record that its creator no longer waits for (R115): the fault record, and for a call record its own return
message. -/
def refuseRecord (s : State) (f : Sender) (code : Nat) (r : Record) : State :=
  let s := schedFault s f code (ownId s)
  if r.kind = 3 then sendMessage s f r.rdev r.rcore r.mbox (refusalWords code r) else s

/-- A call record sent to its target (R115, R338). [DEDUCED, unsafe: log 51] -/
def sendCall (s : State) (f : Sender) (caller : Option Nat) (target : Word) (r : Record) : State :=
  let df := deviceField target
  if df = 0 ∨ df = ownId s + 1 then
    match placeCall s caller (s.ctx f.ctx).job (target.toNat % 0x10000) r with
    | .ok s => s
    | .error c => refuseRecord s f c r
  else sendSched s f .record (df - 1) (addr48 target) (wordsBytes r.words)

/-! ## Suspension (R118, R340) -/

/-- The continuation record of an activation at an entry (R117, R118). -/
def contRecord (t : Thread) (kind : Option Nat) (entry : Word) : Record :=
  match t.act with
  | none => {}
  | some a =>
    { w0 := BitVec.ofNat 64 ((kind.getD a.record.kind) * 2 ^ 52 + a.record.prio * 2 ^ 48 + addr48 entry / 4 * 4)
      w1 := t.wid, w2 := t.tstamp, w3 := t.getX 10, w4 := t.getX 11, w5 := t.getX 12, w6 := t.getX 13, w7 := a.record.w7 }

/-- What a thread set gives up where its activation suspends, ends or is aborted: tokens (R133), streams (R139), the repetition
(R340); what it leaves on its way is marked as left by an ended activation (R288). -/
def suspendGive (s : State) (tid : Nat) : State :=
  let g := coreOf tid
  let s := leaveUnits (giveAll s g tid) tid
  let s := { s with far := s.far.map (fun (f : Far) => if f.tid == tid then { f with retired := true } else f)
                    coll := s.coll.map (fun (c : CollRank) => if c.tid == tid then { c with retired := true } else c)
                    barSent := s.barSent.map (fun (b : BarSent) => if b.tid == tid then { b with retired := true } else b) }
  let mark := fun (e : Entry) => if e.tid == tid then { e with retired := true } else e
  let queue := fun (q : EngQueue) => { q with queued := q.queued.map mark, running := q.running.map mark, paused := q.paused.map mark }
  let c := s.core g
  let s := s.setCore g { c with
    mq := queue c.mq, cq := queue c.cq
    streams := c.streams.map (fun u => match u with | some x => if x.owner == tid then none else u | none => none)
    rx := c.rx.map (fun r => r.map (fun (x : RxStream) => if x.folder == some tid then { x with folder := none } else x)) }
  s.setThread tid { s.thread tid with rep := none, window := [], defTrap := none, drain := false, anyList := none, anyOver := false, mark := none }

/-- The thread set is idle (R118); what still follows it goes on by itself (R123). -/
def goIdle (s : State) (tid : Nat) : State :=
  detachFollowers ((forgetMisses s tid).setThread tid { s.thread tid with act := none, run := .idle, fol := none }) tid

/-- A waiter in the image: its mailbox, whether its message has been loaded, the record. -/
def waiterBytes (w : Waiter) : List Byte := natBytes 8 (w.mbox + (if w.loaded then 2 ^ 32 else 0)) ++ wordsBytes w.record.words
/-- The waiter table of a launch on a core, as its image holds it. -/
def waiterTable (s : State) (g seq : Nat) : List Byte := fitBytes 0x1000 (((s.core g).waiters.filter (fun w => w.launch == seq)).flatMap waiterBytes)
/-- The waiters of a core replaced; those of a launch in its image too while its context is Saved (R124). -/
def setWaiters (s : State) (g seq : Nat) (ws : List Waiter) : State :=
  let s := s.setCore g { s.core g with waiters := ws }
  match s.launch seq with
  | some l => if launchSaved s l then memWrite s (imageBase s l + l.coreOff g + 0x3000) (waiterTable s g seq) else s
  | none => s
/-- A return record parked in the waiter table of a core (R117). -/
def parkRecord (s : State) (g seq mbox : Nat) (r : Record) : State :=
  s.setCore g { s.core g with waiters := (s.core g).waiters ++ [{ launch := seq, mbox := mbox, record := r }] }
/-- The waiters of a core and the parkings that await a commit on it (R117). -/
def waiterCount (s : State) (g : Nat) : Nat :=
  ((s.core g).waiters.filter (fun w => match s.launch w.launch with | some l => !launchSaved s l | none => true)).length + (s.threads.filter (fun p => coreOf p.1 == g && (match p.2.run with | .committing (.park _ _) => true | _ => false))).length

/-- The words of the return message of an exit (R116). -/
def exitWords (t : Thread) : List Word := [t.getX 10, t.getX 11, 0, t.wid ||| BitVec.ofNat 64 (2 ^ 63)]

/-- What a suspension does once nothing holds it any more (R118): at once, or at the end of Committing in an ordered launch. -/
def finishSuspension (s : State) (tid : Nat) (a : AfterCommit) : State :=
  let t := s.thread tid
  match t.act with
  | none => goIdle s tid
  | some act =>
    let g := coreOf tid
    let s' := match a with
      | .yield r => putTail s g act.launch r
      | .suspend r => putHead s g act.launch r
      | .park m r => parkRecord s g act.launch m r
      | .exit => liveDown s act.launch
    goIdle s' tid

end Sys2Proof.Machine
end

