-- ==== Sys2Proof/Machine/Control.lean ====
section
/-! DEFINITION. Machine/Control.lean: the control group of custom-3 (R334 to R347): work identifier, node child, calls, mailboxes,
suspension points, deque instructions, following, and frep. -/
namespace Sys2Proof.Machine

/-- R334: wid.get. -/
def execWidGet (d : Reg) (s : State) : Host.Outcome State Fault Refusal :=
  issueD (.widGet d) { wx := [d], noMask := true } (fun _ s => .ok (wrX s {} d s.th.wid)) s

/-- The heap child of a node that a sum selects (R271), for a sum that is no NaN. -/
def heapChild (n : Nat) (sum : Nat) : Nat := 2 * n + 1 + (if (Fmt.f32.value sum).lt (.fin false 0 0) then 0 else 1)
/-- R335: node.ch. -/
def execNodeCh (d a b : Reg) (s : State) : Host.Outcome State Fault Refusal :=
  issueD (.nodeCh d a b) { rx := [a, b], wx := [d] } (fun m s =>
    let v := (rdX s b).toNat % 2 ^ 32
    if (Fmt.f32.value v).isNan then trapE s 0x43
    else .ok (wrX s m d (BitVec.ofNat 64 (heapChild (rdX s a).toNat v)))) s

/-! ## Record images (R337) -/

/-- The access of a record image. -/
def imageUse (a : Reg) (store : Bool) : MemUse := { base := a, off := 0, size := 64, store := store }
/-- The record in an image, checked against R108. -/
def readImage (s : State) (m : Mask) (a : Word) : Except Stop (State × Record) := do
  if a.toNat % 64 != 0 then trapE s 0x23 a
  else
    let (s, bs) ← ownRead s m a 64
    if (recordOf bs).valid then .ok (s, recordOf bs) else trapE s 0x23 a
/-- A record as task.split finds it in an image: read without the checks of a creation. -/
def readRange (s : State) (m : Mask) (a : Word) : Except Stop (State × Record) := do
  if a.toNat % 64 != 0 then trapE s 0x23 a
  else
    let (s, bs) ← ownRead s m a 64
    .ok (s, recordOf bs)
/-- A record written to an image. -/
def writeImage (s : State) (m : Mask) (a : Word) (r : Record) : Eff :=
  if a.toNat % 64 != 0 then trapE s 0x23 a else ownWrite s m a (wordsBytes r.words)

/-- The executing thread set as a sender. -/
def State.sender (s : State) : Sender := { tid := s.cur, ctx := s.myCtx, wid := s.th.wid, pc := s.pcNow }
/-- An operation held until the activation commits (R119). -/
def holdOp (s : State) (h : HeldOp) : State :=
  match s.myAct with
  | some a => setAct s { a with held := a.held ++ [h] }
  | none => s

/-! ## Calls and mailboxes -/

/-- The word of a call.at target checked (R338): 0x10 for a device field above 0x8000, 0x23 for a reserved bit.
[DEDUCED, unsafe: log 50] -/
def targetCause (t : Word) : Option Nat :=
  if 0x8000 < deviceField t then some 0x10
  else if bitsOf t 47 16 != 0 || bitsOf t 14 12 != 0 || (bitOf t 15 && bitsOf t 11 8 != 0) then some 0x23
  else none
/-- A call record with the return fields that the hardware fills in (R338). -/
def callRecord (s : State) (r : Record) : Record :=
  if r.kind = 3 then
    { r with w7 := BitVec.ofNat 64 ((ownId s + 1) * 2 ^ 48 + s.myCore * 2 ^ 36 + s.cur % 4 * 2 ^ 32 + r.mbox) }
  else r
/-- The check of R108 on the image of a call.at: for a call record bits [63:32] of w7 are ignored. -/
def callImage (r : Record) : Record := if r.kind = 3 then { r with w7 := BitVec.ofNat 64 r.mbox } else r
/-- The effect of call.at. -/
def callEff (s : State) (m : Mask) (a t : Word) : Eff := do
  let (s, r0) ← readRange s m a
  if !(callImage r0).valid then trapE s 0x23 a
  else
    let r := callRecord s r0
    match targetCause t with
    | some c => trapE s c (if c = 0x10 then t else 0)
    | none =>
      if inOrdered s s.cur then .ok (holdOp s (.record r t false s.pcNow))
      else
        let own := deviceField t = 0 ∨ deviceField t = ownId s + 1
        let w := t.toNat % 0x10000
        if own then
          match placeCall s (some s.mySeq) (s.ctx s.myCtx).job w r with
          | .ok s => .ok s
          | .error c =>
            if c = 0x50 ∧ w = s.myCore ∧ (receiver s (some s.mySeq) (s.ctx s.myCtx).job false w).map (·.seq) = some s.mySeq then trapE s 0x50
            else .ok (refuseRecord s s.sender c r)
        else if peerLimit s (deviceField t - 1) (addr48 t) false then waitE s
        else .ok (sendSched s s.sender .record (deviceField t - 1) (addr48 t) (wordsBytes r.words))
/-- R338: call.at. -/
def execCallAt (a b : Reg) (s : State) : Host.Outcome State Fault Refusal :=
  issueD (.callAt a b) { rx := [a, b], mem := some (imageUse a false), afterStores := true } (fun m s => callEff s m (rdX s a) (rdX s b)) s

/-- A suspension point (R118, R340): in an ordered launch the thread set enters Committing. -/
def suspendNow (s : State) (a : AfterCommit) : State :=
  let s := suspendGive s s.cur
  if inOrdered s s.cur then s.setTh { s.th with run := .committing a } else finishSuspension s s.cur a

/-- The effect of msg.wait. -/
def msgEff (s : State) (a e : Word) : Eff := do
  if a.toNat % 32 != 0 || decide (0x20000 ≤ a.toNat) || e.toNat % 4 != 0 then trapE s 0x23
  else
    let inside := match s.myLaunch with
      | some l => (match tcmAllot l s.myCore with | some (b, n) => decide (b ≤ a.toNat) && decide (a.toNat + 32 ≤ b + n) | none => false)
      | none => false
    if !inside then trapE s 0x11 a
    else
      let k := tcmKey s.myCore a.toNat
      let (s, bs) ← localRead s {} a k 32
      let w := leWords 4 bs
      if w.getD 3 0 != 0 then
        let s := memWrite s (k + 24) (natBytes 8 0)
        let s := wrX (wrX (wrX (wrX s {} 10 (w.getD 0 0)) {} 11 (w.getD 1 0)) {} 12 (w.getD 2 0)) {} 13 (w.getD 3 0)
        .ok (s.setTh { s.th with pc := e })
      else if 16 ≤ waiterCount s s.myCore then trapE s (0x50 + 128)
      else if !(pendStores s).isEmpty then waitE s
      else
        let s ← checkRegs s [10, 11, 12, 13] []
        .ok (suspendNow s (.park a.toNat (contRecord s.th (some 2) e)))
/-- R339: msg.wait. -/
def execMsgWait (a b : Reg) (s : State) : Host.Outcome State Fault Refusal :=
  if regsPend s [a, b] [10, 11, 12, 13] then .next s
  else issueJ (.msgWait a b) (fun s => do let s ← checkRegs s [a, b] []; afterAcquire s (msgEff s (rdX s a) (rdX s b))) s

/-- The effect of suspend and yield: the continuation is the next instruction. -/
def suspendEff (s : State) (a : Record → AfterCommit) : Eff := do
  let n := s.th.pc + BitVec.ofNat 64 s.ilen
  if n.toNat % 4 != 0 then trapE s 0x23
  if !(pendStores s).isEmpty then waitE s
  let s ← checkRegs s [10, 11, 12, 13] []
  .ok (suspendNow (s.setTh { s.th with pc := n }) (a (contRecord s.th none n)))
/-- R340: suspend. -/
def execSuspend (s : State) : Host.Outcome State Fault Refusal := issueJ .suspend (fun s => suspendEff s .suspend) s
/-- R340: yield. -/
def execYield (s : State) : Host.Outcome State Fault Refusal := issueJ .yield (fun s => suspendEff s .yield) s

/-- The effect of exit (R116, R340, R341): the stores of its write streams have been performed (R139). -/
def exitEff (s : State) : Eff :=
  if !(pendStores s).isEmpty then waitE s
  else
  match s.myAct with
  | none => .ok (suspendNow s .exit)
  | some act =>
    if act.record.kind = 3 then do
      let s ← checkRegs s [10, 11, 12, 13] []
      if inOrdered s s.cur then
        .ok (suspendNow (holdOp s (.message act.record.rdev act.record.rcore act.record.mbox (exitWords s.th) s.pcNow)) .exit)
      else if s.far.any (fun f => f.tid == s.cur && !f.over) then waitE s
      else
        let peer := act.record.rdev != 0 && act.record.rdev != ownId s + 1 && decide (act.record.rdev ≤ 0x8000)
        if peer && peerLimit s (act.record.rdev - 1) (tcmBase + act.record.rcore * 0x20000 + act.record.mbox) false then waitE s
        else .ok (suspendNow (sendMessage s s.sender act.record.rdev act.record.rcore act.record.mbox (exitWords s.th)) .exit)
    else .ok (suspendNow s .exit)
/-- R340: exit. -/
def execExit (s : State) : Host.Outcome State Fault Refusal := issueJ .exit (fun s => afterAcquire s (exitEff s)) s

/-! ## Deque instructions (R342 to R344) -/

/-- A record created at the head of the issuer's own deque: 0x50 where it is full (R111). -/
def pushOwn (s : State) (r : Record) : Eff :=
  match s.myLaunch with
  | none => trapE s 0x50
  | some l => if createFull s l s.myCore then trapE s 0x50 else .ok (liveUp (putHead s s.myCore l.seq r) l.seq)

/-- R342: task.push. -/
def execTaskPush (a : Reg) (s : State) : Host.Outcome State Fault Refusal :=
  issueD (.taskPush a) { rx := [a], mem := some (imageUse a false) } (fun m s => do
    let (s, r) ← readImage s m (rdX s a)
    if inOrdered s s.cur then .ok (holdOp s (.record r (BitVec.ofNat 64 s.myCore) true s.pcNow)) else pushOwn s r) s

/-- R342: task.pop. -/
def execTaskPop (d : Reg) (s : State) : Host.Outcome State Fault Refusal :=
  issueD (.taskPop d) { rx := [d], wx := [d], mem := some (imageUse d true), noMask := true } (fun m s => do
    if inOrdered s s.cur then trapE s 0x01
    else if (rdX s d).toNat % 64 != 0 then trapE s 0x23 (rdX s d)
    else
      match localKey s s.cur (rdX s d) 64 with
      | .error c => trapE s c (rdX s d)
      | .ok _ =>
        match dequeOf s s.myCore s.mySeq with
        | [] => .ok (wrX s {} d 0)
        | r :: _ =>
          let s ← writeImage s m (rdX s d) r
          .ok (wrX (liveDown (takeRecordAt s s.myCore s.mySeq 0) s.mySeq) {} d 1)) s

/-- The two parts of a range record cut at `mid` (R343, R344): the lower keeps its place, the upper starts at `mid`. -/
def splitAt (r : Record) (mid : Word) : Record × Record :=
  ({ r with w4 := mid }, { r with w3 := mid, w1 := mid, w2 := BitVec.ofNat 64 (r.w2.toNat / 2 ^ 32 * 2 ^ 32 + mid.toNat % 2 ^ 32) })

/-- R343: task.split. -/
def execTaskSplit (d a : Reg) (s : State) : Host.Outcome State Fault Refusal :=
  issueD (.taskSplit d a) { rx := [a], wx := [d], mem := some (imageUse a true), noMask := true } (fun m s => do
    if inOrdered s s.cur then trapE s 0x01
    else
      let (s, r) ← readRange s m (rdX s a)
      if r.kind = 1 ∧ r.w4.toNat < r.w3.toNat then trapE s 0x23 (rdX s a)
      else if r.kind ≠ 1 ∨ r.w4.toNat - r.w3.toNat ≤ 1 then .ok (wrX s {} d 0)
      else
        let g := (r.w4.toNat - r.w3.toNat) / 2
        let (lo, hi) := splitAt r (r.w4 - BitVec.ofNat 64 g)
        if !hi.valid then trapE s 0x23 (rdX s a)
        else
          let _ ← pushOwn s hi
          let s1 ← writeImage s m (rdX s a) lo
          let s2 ← pushOwn s1 hi
          .ok (wrX s2 {} d (BitVec.ofNat 64 g))) s

/-- The torus neighbours of a core in its cluster among cores 0 to n - 1 (R113, R11): a 4 x 4 torus in rows. -/
def torusNear (c n : Nat) : List Nat :=
  let r := c / 4; let k := c % 4
  (List.range 16).filter (fun x => decide (x < n) && [4 * r + (k + 1) % 4, 4 * r + (k + 3) % 4, (r + 1) % 4 * 4 + k, (r + 3) % 4 * 4 + k].contains x)

/-- The neighbour with the deepest deque (R344): ties to the lowest core number. -/
def stealFrom (s : State) (l : Launch) : Option Nat :=
  let base := s.myCluster * 16
  (torusNear (s.myCore % 16) l.ncores).foldl (fun best c =>
    let n := (dequeOf s (base + c) l.seq).length
    match best with
    | none => if n = 0 then none else some (base + c)
    | some b => if (dequeOf s b l.seq).length < n then some (base + c) else best) none
/-- R344: task.steal. [DEDUCED, unsafe: log 49] -/
def execTaskSteal (d a : Reg) (s : State) : Host.Outcome State Fault Refusal :=
  issueD (.taskSteal d a) { rx := [a], wx := [d], mem := some (imageUse a true), noMask := true } (fun m s => do
    if inOrdered s s.cur then trapE s 0x01
    else if (rdX s a).toNat % 64 != 0 then trapE s 0x23 (rdX s a)
    else
      match localKey s s.cur (rdX s a) 64 with
      | .error c => trapE s c (rdX s a)
      | .ok _ =>
        match s.myLaunch.bind (fun l => if l.crlvl = 7 then (stealFrom s l).map (fun g => (l, g)) else none) with
        | none => .ok (wrX s {} d 0)
        | some (l, g) =>
          match (dequeOf s g l.seq).getLast? with
          | none => .ok (wrX s {} d 0)
          | some t =>
            if t.kind = 1 ∧ t.w3.toNat + 2 ≤ t.w4.toNat then
              let (lo, hi) := splitAt t (t.w3 + BitVec.ofNat 64 ((t.w4.toNat - t.w3.toNat) / 2))
              let s ← writeImage s m (rdX s a) hi
              .ok (wrX (setDeque s g l.seq ((dequeOf s g l.seq).dropLast ++ [lo]) (onCoreOf s g l.seq)) {} d 1)
            else
              let s ← writeImage s m (rdX s a) t
              .ok (wrX (liveDown (dropTail s g l.seq 1) l.seq) {} d 1)) s

/-- R342: task.cnt. -/
def execTaskCnt (d : Reg) (s : State) : Host.Outcome State Fault Refusal :=
  issueD (.taskCnt d) { wx := [d], noMask := true } (fun _ s => .ok (wrX s {} d (BitVec.ofNat 64 (dequeOf s s.myCore s.mySeq).length))) s

/-! ## Following (R122, R345, R346) -/

/-- The thread set that follow names. -/
def leaderOf (s : State) (v : Word) : Nat := (s.myCluster * 16 + bitsOf v 3 0) * 4 + bitsOf v 5 4
/-- Whether a leader qualifies: another thread set that runs an activation of the same launch and does not itself follow. -/
def leads (s : State) (tid : Nat) : Bool :=
  tid != s.cur && (s.thread tid).fol.isNone && (s.thread tid).run != .idle &&
  (match (s.thread tid).act with | some a => some a.launch == s.myAct.map (·.launch) | none => false)
/-- R345: follow. A thread set that executes it detaches its own followers. -/
def execFollow (a : Reg) (s : State) : Host.Outcome State Fault Refusal :=
  issueNR (.follow a) true [a] [] (fun s =>
    let s := detachFollowers s s.cur
    let l := leaderOf s (rdX s a)
    .ok (if leads s l then s.setTh { s.th with fol := some { leader := l } } else s)) s

/-- R346: follow.end: followers go on at the instruction after it, which they do not execute. -/
def execFollowEnd (s : State) : Host.Outcome State Fault Refusal :=
  if s.th.fol.isSome then .next (s.setTh { s.th with pc := s.th.pc + BitVec.ofNat 64 s.ilen, fol := none })
  else if !s.th.entries.isEmpty then .next s
  else if inRep s then .next (repTrap s)
  else .next (detachFollowers (finish s .followEnd) s.cur)

/-! ## frep (R140, R347) -/

/-- R347: frep: the body starts after it; the pass count is x[rs1]. -/
def execFrep (a : Reg) (l m n : BitVec 4) (s : State) : Host.Outcome State Fault Refusal :=
  if regsPend s [a] [] then .next s
  else if !s.th.entries.isEmpty then .next s
  else if inRep s then .next (repTrap s)
  else
    let p := (rdX s a).toNat
    match checkRegs s [a] [] with
    | .error (.trap s' c f) => .next (takeTrap s' c f)
    | .error (.wait s') => .next s'
    | .ok s =>
    if p = 0 ∨ 4096 < p then .next (takeTrap s 0x01)
    else
      let start := s.th.pc + BitVec.ofNat 64 s.ilen
      let s1 := finish s (.frep a l m n)
      .next (s1.setTh { s1.th with rep := some {
        start := start, n := n.toNat + 1, stag := m, lim := l.toNat + 1, passes := p, pass := 0, pos := 0 } })

/-! ## Stream units (R383, R384) -/

/-- The unit of a stream descriptor (R383). -/
def streamOf (tid : Nat) (w : List Word) : StreamUnit := {
  owner := tid, base := w.getD 0 0
  stride := [toSigned 32 (bitsOf (w.getD 1 0) 31 0), toSigned 32 (bitsOf (w.getD 1 0) 63 32), toSigned 32 (bitsOf (w.getD 2 0) 31 0)]
  count := [bitsOf (w.getD 3 0) 15 0, bitsOf (w.getD 3 0) 31 16, bitsOf (w.getD 3 0) 47 32]
  write := bitOf (w.getD 3 0) 63 }
/-- The checks of a descriptor that raise 0x23. -/
def streamWordsOk (w : List Word) (u : StreamUnit) : Bool :=
  bitsOf (w.getD 2 0) 63 32 == 0 && bitsOf (w.getD 3 0) 62 48 == 0 && u.base.toNat % 16 == 0 &&
  u.stride.all (fun x => x % 16 == 0) && u.count.all (fun c => c != 0)
/-- The first byte of a pattern relative to BASE, and one past the last: the extreme corners. -/
def StreamUnit.extent (u : StreamUnit) : Int × Int :=
  (List.zip u.stride u.count).foldl (fun (a : Int × Int) p =>
    let e := p.1 * ((p.2 : Int) - 1)
    (a.1 + min 0 e, a.2 + max 0 e)) (0, 16)
/-- Whether the whole pattern lies in the allotment of BASE's window (R138). -/
def streamInside (s : State) (u : StreamUnit) : Bool :=
  let (lo, hi) := u.extent
  match localKey s s.cur u.base 16, localKey s s.cur (u.base + BitVec.ofInt 64 lo) (hi - lo).toNat with
  | .ok _, .ok _ => (u.base.toNat : Int) + lo == ((u.base + BitVec.ofInt 64 lo).toNat : Int)
  | _, _ => false
/-- The effect of strm.cfg. -/
def streamCfgEff (s : State) (m : Mask) (i : Nat) (a : Word) : Eff := do
  match s.co.streams.toList.getD i none with
  | some x => if x.owner != s.cur then waitE s else .ok ()
  | none => .ok ()
  if a.toNat % 32 != 0 then trapE s 0x23 a
  else
    let (s, bs) ← ownRead s m a 32
    let w := leWords 4 bs
    let u := streamOf s.cur w
    if !streamWordsOk w u then trapE s 0x23 a
    else if !streamInside s u then trapE s 0x11 u.base
    else .ok (setUnit s i (some u))
/-- R383: strm.cfg. The end of an own binding waits for what still reads or writes its register (R384). -/
def execStrmCfg (a : Reg) (u : BitVec 2) (s : State) : Host.Outcome State Fault Refusal :=
  issueD (.strmCfg a u)
    { rx := [a], uv := if (boundUnit s u.toNat).isSome then [u.zeroExtend 5] else [], mem := some { base := a, off := 0, size := 32, store := false } } (fun m s =>
    streamCfgEff s m u.toNat (rdX s a)) s
/-- R384: strm.bind. -/
def execStrmBind (u : BitVec 2) (s : State) : Host.Outcome State Fault Refusal :=
  issueN (.strmBind u) false (fun s =>
    match s.co.streams.toList.getD u.toNat none with
    | some x =>
      if x.owner != s.cur then (if x.bound then waitE s else trapE s 0x23)
      else if x.bound then trapE s 0x23
      else .ok (setUnit s u.toNat (some { x with bound := true }))
    | none => trapE s 0x23) s
/-- R384: strm.end: a write stream's outstanding stores come first. -/
def execStrmEnd (u : BitVec 2) (s : State) : Host.Outcome State Fault Refusal :=
  issueN (.strmEnd u) false (fun s =>
    match boundUnit s u.toNat with
    | some x => if x.write && farPendV s s.cur (u.zeroExtend 5) then waitE s else .ok (setUnit s u.toNat none)
    | none => .ok s) s

end Sys2Proof.Machine
end

