-- ==== Sys2Proof/Machine/Rank.lean ====
section
/-! DEFINITION. Machine/Rank.lean: the rank unit's instructions (R411 to R422): configuration (R250 to R252), the encoder (R245, R246), sends
(R413), folding and the margin checker (R255 to R260, R263), rk.drain, gradients (R265) and waves (R420 to R422). -/
namespace Sys2Proof.Machine

/-- The frame of an instruction that reads no register and executes in its turn: it is held while deferred accesses wait, or an
earlier ld.acq (R176, R186, R192). -/
def issueHold (i : Instr) (eff : State → Eff) (s : State) : Host.Outcome State Fault Refusal :=
  if acquireOut s || !(pendStores s).isEmpty || s.th.entries.any (fun e => !e.use.accesses.isEmpty) then .next s else settle i (eff s)

/-- Stream i of the executing core where the executing launch owns it, else 0x23 (R410). -/
def myRx (s : State) (i : Nat) : Except Stop RxStream :=
  match rxOf s s.myCore i with
  | some r => if r.launch == s.mySeq then .ok r else trapE s 0x23
  | none => trapE s 0x23

/-- Whether an address lies in the own-TCM or own-scratchpad window. -/
def inOwnWindow (s : State) (a : Word) : Bool :=
  match decodeAddr s a with | .ownTcm _ => true | .ownSpad _ => true | _ => false
/-- 0x11 where n bytes do not lie in the own allotment; nothing for no bytes. [DEDUCED, unsafe: log 109] -/
def needOwn (s : State) (a : Word) (n : Nat) : Except Stop Unit :=
  if n = 0 then .ok () else match localKey s s.cur a n with | .ok _ => .ok () | .error c => trapE s c a
/-- A read of the own allotment that may be of no bytes. -/
def ownBytes (s : State) (m : Mask) (a : Word) (n : Nat) : Except Stop (State × List Byte) := if n = 0 then .ok (s, []) else ownRead s m a n
/-- Little-endian 32-bit values. -/
def words32 (n : Nat) (bs : List Byte) : List Nat := unitsOf n 4 bs

/-! ## rk.cfg (R247, R251, R411) -/

/-- The checks of R247 on an encoder setup block. -/
def encoderOk (s : State) (w : List Word) : Bool :=
  let w0 := w.getD 0 0; let w1 := w.getD 1 0
  let th := bitsOf w0 31 0
  !bitOf w0 48 && bitsOf w1 63 13 == 0 && (th == 0x80000000 || decide (th ≤ 0x7F800000)) && bitsOf w0 47 32 ≤ 4096 &&
  1 ≤ bitsOf w1 12 0 && bitsOf w1 12 0 ≤ 4096 && inOwnWindow s (w.getD 2 0) && inOwnWindow s (w.getD 3 0)

/-- The members of DSET. -/
def RxStream.dset (r : RxStream) : List Nat :=
  (List.range 256).filter (fun j => bitOf (r.word (10 + j / 64)) (j % 64))
/-- The bytes of a weight row. -/
def RxStream.rowBytes (r : RxStream) : Nat := r.nout * (if r.wbf16 then 2 else 1)
/-- The address of a channel's weight row (R257). -/
def RxStream.rowAddr (r : RxStream) (c : Nat) : Word := r.word 2 + BitVec.ofNat 64 (c * bitsOf (r.word 1) 63 32)

/-- The checks of R251. -/
def rxBlockOk (s : State) (i : Nat) (r : RxStream) : Bool :=
  let w0 := r.word 0
  let d := r.dset
  let wmax := bitsOf (r.word 1) 31 0
  !bitOf w0 59 && !bitOf w0 48 && bitsOf w0 21 16 == 0 && bitsOf (r.word 9) 63 16 == 0 && r.word 14 == 0 && r.word 15 == 0 &&
  r.mmode != 3 && (!r.isShort || (r.nprod == 1 && decide (r.nchan ≤ 32768))) && !(bitOf w0 54 && inOrdered s s.cur) &&
  (r.mmode != 1 || !d.isEmpty) && (r.mmode != 2 || decide (2 ≤ d.length)) && d.all (fun j => j < r.nout) &&
  decide (0 < wmax) && decide (wmax < 0x7F800000) && r.inlet.toNat % 4096 == 0 &&
  !s.cores.any (fun p => (List.range 8).any (fun j =>
    match p.2.rx.toList.getD j none with
    | some x => !(p.1 == s.myCore && j == i) && x.ctx == s.myCtx && addr48 x.inlet == addr48 r.inlet
    | none => false)) &&
  inOwnWindow s (r.word 2) && inOwnWindow s (r.word 6) && (r.trace == 0 || inOwnWindow s r.trace) && (r.ovf == 0 || inOwnWindow s r.ovf) &&
  (r.word 3).toNat % 2 == 0 && (r.word 5).toNat % 4 == 0

/-- Whether a falling sequence falls (R255); −0 counts as 0. -/
def seqFalls (l : List Nat) : Bool :=
  l.all (fun v => v == 0x8000 || decide (v < 0x7F80)) &&
  (List.range l.length).all (fun k => k == 0 || decide (l.getD k 0 % 0x8000 ≤ l.getD (k - 1) 0 % 0x8000))

/-- rk.cfg of a receive stream (R411). -/
def rxConfigure (s : State) (m : Mask) (a : Word) (blk : List Word) : Eff := do
  let i := bitsOf (blk.getD 0 0) 58 56
  let r : RxStream := { block := blk, seq := [], launch := s.mySeq, ctx := s.myCtx, gen := 0 }
  if !rxBlockOk s i r then trapE s 0x23 a
  else
    match rxOf s s.myCore i with
    | some o => if o.launch != s.mySeq then trapE s 0x23 else .ok ()
    | none => .ok ()
    needOwn s (r.word 6) (4 * r.nout)
    needOwn s r.trace (if r.trace == 0 then 0 else 4 * min r.nchan 4096)
    needOwn s r.ovf (if r.ovf == 0 then 0 else 4 * r.ovfn)
    needOwn s (r.word 2) r.rowBytes
    let (s, bs) ← blockRead s m (r.word 3) (2 * r.len)
    let l := unitsOf r.len 2 bs
    if !seqFalls l then trapE (myForget s) 0x40
    else
      match rxOf s s.myCore i with
      | some o => if o.state = .folding then waitE s else .ok ()
      | none => .ok ()
      let s := myForget s
      let s := match (rxOf s s.myCore i).bind (·.folder) with
        | some t => s.setThread t { s.thread t with rk := { (s.thread t).rk with st := (s.thread t).rk.st &&& ~~~(0x40 : Word) } }
        | none => s
      let (s, gen) := freshId s
      .ok (setRx s s.myCore i (some { r with
        seq := l.map (fun v => BitVec.ofNat 16 (v % 0x8000)), gen := gen, arrive := List.replicate r.nprod 0 }))

/-- The effect of rk.cfg. -/
def rkCfgEff (s : State) (m : Mask) (a : Word) : Eff := do
  if a.toNat % 32 != 0 then trapE s 0x23 a
  else
    let (s, bs) ← blockRead s m a 32
    let w := leWords 4 bs
    match bitsOf (w.getD 0 0) 63 60 with
    | 1 =>
      if !encoderOk s w then trapE (myForget s) 0x23 a
      else .ok ((myForget s).setTh { s.th with enc := some { w0 := w.getD 0 0, w1 := w.getD 1 0, w2 := w.getD 2 0, w3 := w.getD 3 0 } })
    | 2 =>
      if a.toNat % 64 != 0 then trapE (myForget s) 0x23 a
      else
        let (s, more) ← blockRead s m (a + 32) 96
        rxConfigure s m a (w ++ leWords 12 more)
    | _ => trapE (myForget s) 0x23 a
/-- R411: rk.cfg. -/
def execRkCfg (a : Reg) (s : State) : Host.Outcome State Fault Refusal :=
  issueD (.rkCfg a) { rx := [a], mem := some { base := a, off := 0, size := 128, store := false, wide := true } }
    (fun m s => rkCfgEff s m (rdX s a)) s

/-! ## rk.enc (R245, R246, R412) -/

/-- SHORT of the encoder state. -/
def EncState.isShort (e : EncState) : Bool := bitOf e.w0 50
/-- EREF of the encoder state. -/
def EncState.eref (e : EncState) : Int := toSigned 8 (bitsOf e.w0 59 52)
/-- The candidates of a vector of FP32 magnitudes and signs, best first: (channel, negative, magnitude bits). -/
def candidates (th : Nat) (l : List Nat) : List (Nat × Bool × Nat) :=
  let cs := (l.mapIdx (fun c v => (c, decide (0x80000000 ≤ v), v % 0x80000000))).filter (fun p => p.2.2 ≤ 0x7F800000 && th < p.2.2)
  sortBy (fun a b => decide (b.2.2 < a.2.2) || (a.2.2 == b.2.2 && decide (a.1 ≤ b.1))) cs
/-- floor(log2) of an FP32 magnitude, 128 for an infinity (R245). -/
def magLog (m : Nat) : Int := if m < 0x800000 then (Nat.log2 m : Int) - 149 else (m / 0x800000 : Nat) - 127
/-- The band of a magnitude (R245). -/
def bandOf (eref : Int) (m : Nat) : Nat := (min 31 (max 0 (eref - magLog m))).toNat
/-- The event list of an encoding: the words, how many are channel events, how many channels are NaN. -/
def EncState.encode (e : EncState) (l : List Nat) : List Nat × Nat × Nat :=
  let all := candidates (bitsOf e.w0 31 0 % 0x80000000) l
  let k := bitsOf e.w0 47 32
  let keep := if k = 0 then all else all.take k
  let nan := (l.filter (fun v => decide (0x7F800000 < v % 0x80000000))).length
  let ev := keep.map (fun p =>
    if e.isShort then (if p.2.1 then 0x8000 else 0) + p.1
    else bandOf e.eref p.2.2 * 2 ^ 17 + (if p.2.1 then 2 ^ 16 else 0) + p.1)
  let mark := if e.isShort then [] else [(if keep.length < all.length then 2 else 1) * 2 ^ 22 + keep.length % 65536]
  (ev ++ mark, keep.length, nan)

/-- The effect of rk.enc. -/
def rkEncEff (s : State) : Eff := do
  match s.th.enc with
  | none => trapE s 0x23
  | some e =>
    let n := bitsOf e.w1 12 0
    let es := if bitOf e.w0 51 then 4 else 2
    let (s, bs) ← ownRead s {} e.w2 (n * es)
    let l := (unitsOf n es bs).map (fun v => if es = 2 then v * 65536 else v)
    let (ws, emit, nan) := e.encode l
    let out := ws.flatMap (fun v => natBytes (if e.isShort then 2 else 4) v)
    let s ← (if out.isEmpty then .ok s else ownWrite s {} e.w3 out)
    let t := s.th
    let s := s.setTh { t with rk := { t.rk with
      emit := BitVec.ofNat 64 emit, nanc := BitVec.ofNat 64 nan, st := if nan = 0 then t.rk.st else t.rk.st ||| 0x20 } }
    if nan != 0 && bitOf e.w0 49 then trapE s 0x44 else .ok s
/-- R412: rk.enc. -/
def execRkEnc (s : State) : Host.Outcome State Fault Refusal := issueHold .rkEnc rkEncEff s

/-! ## rk.send (R413, R414) -/

/-- How many bytes from an address on lie in its own window's allotment. -/
def ownRoom (s : State) (a : Word) : Nat :=
  match decodeAddr s a, s.myLaunch with
  | .ownTcm o, some l => (match tcmAllot l s.myCore with | some (_, n) => n - o | none => 0)
  | .ownSpad o, some l => (match spadAllot l s.myCluster with | some (_, n) => n - o | none => 0)
  | _, _ => 0
/-- The length in bytes of a long list: up to and including its first marker among the first words. -/
def listLength (s : State) (k room : Nat) : Option Nat :=
  ((List.range (min 4097 (room / 4))).find? (fun j => leNat (memRead s (k + 4 * j) 4) / 2 ^ 22 % 4 == 1 || leNat (memRead s (k + 4 * j) 4) / 2 ^ 22 % 4 == 2)).map
    (fun j => 4 * (j + 1))
/-- The list of a send read and checked. -/
def sendList (s : State) (m : Mask) (e : EncState) (a : Word) : Except Stop (State × List Byte) := do
  if a.toNat % (if e.isShort then 2 else 4) != 0 then trapE s 0x23 a
  else if e.isShort then ownBytes s m a (2 * s.th.rk.emit.toNat)
  else
    match localKey s s.cur a 4 with
    | .error c => trapE s c a
    | .ok k =>
      match listLength s k (ownRoom s a) with
      | some n => ownRead s m a n
      | none => if ownRoom s a < 4 * 4097 then trapE s 0x11 a else trapE s 0x23 a
/-- The 16-byte stores of a list. -/
def sendStores (slot : Word) (bs : List Byte) : List (Word × List Byte) :=
  (List.range ((bs.length + 15) / 16)).map (fun i => (slot, (bs.drop (16 * i)).take 16))

/-- The event stores of a send from number k on: each waits for its limit (R64). -/
def sendRest (s : State) (m : Mask) (a slot : Word) (p : Place) (k : Nat) (l : List (Word × List Byte)) : Eff :=
  match l with
  | [] => .ok s
  | x :: r =>
    let held := match p with | .peer d va => peerLimit s d va true | _ => false
    if held then
      waitE (match s.th.enc with
        | some e => s.setTh { s.th with enc := some { e with sendList := a, sendSlot := slot, sent := k } }
        | none => s)
    else sendRest (sendFar s m .store x.1 (placePieces s x.1 p x.2.length) (placeDev p) x.2 .none none).1 m a slot p (k + 1) r

/-- The effect of rk.send. -/
def rkSendEff (s : State) (m : Mask) (a slot : Word) : Eff := do
  match s.th.enc with
  | none => trapE s 0x23
  | some e =>
    if slot.toNat % (if e.isShort then 4096 else 64) != 0 then trapE s 0x23 slot
    else
      let (s, bs) ← sendList s m e a
      match decodeAddr s slot with
      | .translated _ => .ok ()
      | .peer _ _ => .ok ()
      | _ => trapE s 0x10 slot
      let (s, p) ← place s slot 16 [rightWR]
      let stores := sendStores slot bs
      let beat : List (Word × List Byte) := if e.isShort then [(slot + 0x40, natBytes 8 (s.th.rk.emit.toNat % 65536))] else []
      if inOrdered s s.cur then
        .ok (holdOp (match s.myAct with | some x => setAct s (logAt s x (stores ++ beat)) | none => s) (.send s.pcNow (stores ++ beat) m.taint))
      else
        let done := if e.sendList = a ∧ e.sendSlot = slot then e.sent else 0
        let s ← sendRest s m a slot p done (stores.drop done)
        let s := s.setTh { s.th with enc := some { e with sendList := a, sendSlot := slot, sent := stores.length } }
        let s ← (if e.isShort && s.far.any (fun f => f.tid == s.cur && f.kind == .store && f.addr == slot && f.pc == s.pcNow && !f.over) then waitE s
          else do
            let (s, q) ← (if beat.isEmpty then .ok (s, p) else place s (slot + 0x40) 8 [rightWR])
            sendRest s m a slot q stores.length beat)
        .ok (s.setTh { s.th with enc := some { e with sendList := 0, sendSlot := 0, sent := 0 } })
/-- R413: rk.send. -/
def execRkSend (a b : Reg) (s : State) : Host.Outcome State Fault Refusal :=
  issueD (.rkSend a b) { rx := [a, b], afterStores := true, mem := some { base := a, off := 0, size := 16, store := true, wide := true } } (fun m s => rkSendEff s m (rdX s a) (rdX s b)) s

/-! ## The margin checker (R256, R258) -/

/-- The suffix sums S[0] to S[L] as FP32 bits (R256). -/
def suffixSums (l : List (BitVec 16)) : List Nat :=
  l.foldr (fun d acc => (Fmt.f32.lane 3 0 ((Fmt.f32.value (acc.headD 0)).add (Fmt.bf16.value d.toNat) false)).1 :: acc) [0]
/-- R of R258 after n arrivals, as FP32 bits. -/
def RxStream.bound_ (r : RxStream) (n : Nat) : Nat :=
  (Fmt.f32.lane 3 0 ((Fmt.f32.value ((suffixSums r.seq).getD (min n r.len) 0)).mul (Fmt.f32.value (bitsOf (r.word 1) 31 0)))).1
/-- x × 2^-12. -/
def eps12 (x : FVal) : FVal := (x.mul (.fin false 1 (-12))).1
/-- x + y, exactly. -/
def plus (x y : FVal) : FVal := (x.add y false).1
/-- Whether an infinity is among two values, and then which of them is below the other. -/
def decidedTop (l q : FVal) (need : FVal) : Bool :=
  match l, q with
  | .fin _ _ _, .fin _ _ _ => need.lt (plus (plus l q.neg) (eps12 (plus l.abs q.abs)).neg)
  | _, _ => q.lt l
/-- The stop test of R258: the stop word of RK.ST (leader, runner-up, reason, STOPPED) where the fold stops. -/
def RxStream.stopTest (r : RxStream) (y : List (BitVec 32)) (bound : Nat) : Option Word :=
  let v := fun j => Fmt.f32.value (y.getD j 0).toNat
  let R := Fmt.f32.value bound
  match r.mmode with
  | 1 =>
    let ok := r.dset.all (fun j =>
      match v j with
      | .nan _ => false
      | .inf _ => true
      | x => (plus R (.fin false 1 (-139))).lt (plus x.abs (eps12 x.abs).neg))
    if ok then some (BitVec.ofNat 64 (2 ^ 12 + 2 ^ 11)) else none
  | 2 =>
    if r.dset.any (fun j => (v j).isNan) then none
    else
      let best := fun (js : List Nat) => js.foldl (fun b j => if (v b).lt (v j) then j else b) (js.headD 0)
      let l := best r.dset
      let q := best (r.dset.filter (fun j => j != l))
      if decidedTop (v l) (v q) (plus (plus R R) (.fin false 1 (-138))) then
        some (BitVec.ofNat 64 (q * 2 ^ 24 + l * 2 ^ 16 + 2 * 2 ^ 12 + 2 ^ 11))
      else none
  | _ => none

/-! ## rk.fold (R257, R259, R260, R263, R415) -/

/-- The stream kept in the suspended state where rk.fold traps (R263). -/
def suspendFold (s : State) (i : Nat) : State :=
  match rxOf s s.myCore i with
  | some r => rkSync (setRx s s.myCore i (some { r with state := .suspended })) s.myCore i
  | none => s
/-- A trap of a running rk.fold. [DEDUCED, unsafe: log 91] -/
def foldTrap (s : State) (i code : Nat) (a : Word := 0) : Eff := trapE (suspendFold s i) code a

/-- A weight of a row (R257). -/
def RxStream.weight (r : RxStream) (x : Nat) : FVal :=
  if r.wbf16 then Fmt.bf16.value x else .fin (decide (128 ≤ x)) (if 128 ≤ x then 256 - x else x) 0
/-- RNE32(y + d × s × w). -/
def foldOne (y : BitVec 32) (d : BitVec 16) (neg : Bool) (w : FVal) : BitVec 32 :=
  let dv := Fmt.bf16.value d.toNat
  BitVec.ofNat 32 (Fmt.f32.lane 0 0 ((if neg then dv.neg else dv).fma w (Fmt.f32.value y.toNat) false)).1

/-- The outputs stored and the fold returns (R260): at a margin stop the wave is drained, at its end the stream is Open for the next
wave. -/
def endFold (s : State) (i : Nat) (stop : Option Word) : Eff := do
  match rxOf s s.myCore i with
  | none => .ok s
  | some r =>
    let s ← ownWrite s {} (r.word 6) (r.y.flatMap (fun v => natBytes 4 v.toNat))
    let s := s.setTh { s.th with lastWave := s.th.lastWave.setIfInBounds i (some (r.gen, r.fold)) }
    match stop with
    | some w =>
      let s := rkSync (setRx s s.myCore i (some { r with stop := w, stopn := r.n, state := .draining })) s.myCore i
      .ok (rxSettle (rxFuel s s.myCore i) s s.myCore i)
    | none =>
      let r := { r with stop := 0, stopn := r.n, tracen := r.tcount }
      let r := if r.fold == r.closed then r.close else r
      let s := rkSync (setRx s s.myCore i (some r)) s.myCore i
      match rxOf s s.myCore i with
      | none => .ok s
      | some r =>
        let s := setRx s s.myCore i (some r.nextWave.trim)
        .ok (rxSettle (rxFuel s s.myCore i) s s.myCore i)

/-- Folding goes on as far as the ranked events reach. `fuel` bounds the events. -/
def foldLoop (fuel : Nat) (s : State) (i : Nat) : Eff :=
  match fuel with
  | 0 => waitE s
  | k + 1 =>
    match rxOf s s.myCore i with
    | none => trapE s 0x23
    | some r =>
      let w := r.wave r.fold
      let b := r.bound_ r.n
      let r := { r with bnd := BitVec.ofNat 32 b }
      let s := setRx s s.myCore i (some r)
      match r.stopTest r.y b with
      | some word => endFold s i (some word)
      | none =>
        match w.ranked[r.pos]? with
        | none =>
          if w.closed || (w.complete && (!r.spike || r.due) && r.fold == r.closed) then endFold s i none
          else waitE (rkSync s s.myCore i)
        | some e =>
          if r.len ≤ r.pos then
            let (s, r) := traceEvent s s.myCore r r.pos e 1
            let w := { w with beyond := w.beyond + 1 }
            foldLoop k (setRx s s.myCore i (some { r.setWave r.fold w with pos := r.pos + 1 })) i
          else
            let a := r.rowAddr e.chan
            match localKey s s.cur a r.rowBytes with
            | .error _ =>
              let (s, r) := traceEvent s s.myCore r r.pos e 3
              foldTrap (setRx s s.myCore i (some r)) i 0x11 a
            | .ok key =>
              match localRead s {} a key r.rowBytes with
              | .error (.wait s) => waitE s
              | .error (.trap s c a) =>
                let (s, r) := traceEvent s s.myCore r r.pos e 3
                foldTrap (setRx s s.myCore i (some r)) i c a
              | .ok (s, bs) =>
                let ws := (unitsOf r.nout (if r.wbf16 then 2 else 1) bs).map r.weight
                if ws.any (fun x => (Fmt.f32.value (bitsOf (r.word 1) 31 0)).lt x.abs) then
                  let (s, r) := traceEvent s s.myCore r r.pos e 3
                  foldTrap (setRx s s.myCore i (some { r with bound := true })) i 0x42
                else
                  let (s, r) := traceEvent s s.myCore r r.pos e 0
                  let y := List.zipWith (fun y x => foldOne y (r.seq.getD r.pos 0) e.sign x) r.y ws
                  foldLoop k (setRx s s.myCore i (some { r with y := y, n := r.n + 1, pos := r.pos + 1 })) i

/-- The next recorded condition is raised (R263), else folding goes on. -/
def foldGo (s : State) (i : Nat) : Eff :=
  match rxOf s s.myCore i with
  | none => trapE s 0x23
  | some r =>
    match r.pend with
    | c :: rest => foldTrap (setRx s s.myCore i (some { r with pend := rest })) i c
    | [] => foldLoop ((r.wave r.fold).ranked.length + 2) s i

/-- The fold of a wave begins (R257, R415). A recorded condition is raised before anything is folded, RK.N being 0 and the flag standing in
RK.ST (R263). -/
def foldBegin (s : State) (i : Nat) (r : RxStream) : Eff := do
  match r.pend with
  | c :: rest => trapE (rkSync (takeRecord (setRx s s.myCore i (some { r with pend := rest, n := 0 })) s.myCore i s.cur) s.myCore i) c
  | [] => .ok ()
  if r.state != .open || r.heldByTree || decide (r.closed < r.fold) then waitE s
  else
    let (s, y) ← (if r.word 5 = 0 then .ok (s, List.replicate r.nout (0 : BitVec 32))
      else do
        let (s, bs) ← blockRead s {} (r.word 5) (4 * r.nout)
        .ok (myForget s, (words32 r.nout bs).map (BitVec.ofNat 32)))
    let s := takeRecord s s.myCore i s.cur
    match rxOf s s.myCore i with
    | none => trapE s 0x23
    | some r =>
      let r := { r with state := .folding, y := y, n := 0, pos := 0, tcount := 0, stop := 0, stopn := 0 }
      foldGo (rkSync (setRx s s.myCore i (some r)) s.myCore i) i

/-- The effect of rk.fold. [DEDUCED, unsafe: log 91] -/
def rkFoldEff (s : State) (i : Nat) : Eff := do
  let r ← myRx s i
  match r.state with
  | .folding => if r.folder == some s.cur then foldGo s i else waitE s
  | .suspended =>
    let s := takeRecord (setRx s s.myCore i (some (if r.bound then { r with stop := BitVec.ofNat 64 (3 * 2 ^ 12) } else { r with state := .folding }))) s.myCore i s.cur
    if r.bound then .ok (rkSync s s.myCore i) else foldGo s i
  | _ => foldBegin s i r
/-- R415: rk.fold. -/
def execRkFold (i : BitVec 3) (s : State) : Host.Outcome State Fault Refusal := issueHold (.rkFold i) (fun s => rkFoldEff s i.toNat) s

/-! ## rk.stat, rk.drain (R416, R417) -/

/-- STATE of rk.stat. -/
def StreamState.code : StreamState → Nat
  | .open => 1 | .folding => 2 | .suspended => 3 | .draining => 4 | .discard => 4
/-- The status word of a stream (R416). -/
def rkStatWord (s : State) (i : Nat) : Word :=
  match rxOf s s.myCore i with
  | none => 0
  | some r =>
    if r.launch != s.mySeq then 0
    else BitVec.ofNat 64 (r.state.code * 2 ^ 60 + r.heldEvents false % 2 ^ 12 * 2 ^ 48 + r.closed % 2 ^ 16 * 2 ^ 32 + r.n % 2 ^ 11 * 2 ^ 21 +
      ((r.flags &&& 0x780).toNat + (if r.bound then 0x40 else 0) + i))
/-- R416: rk.stat. -/
def execRkStat (d : Reg) (i : BitVec 3) (s : State) : Host.Outcome State Fault Refusal :=
  issueD (.rkStat d i) { wx := [d], noMask := true } (fun _ s => .ok (wrX s {} d (rkStatWord s i.toNat))) s

/-- A wave ended without folding: its events discarded and counted, later ones as they merge (R417). Those that have a rank have their trace
entries (R264); one that a trap has kept from being folded keeps its own. -/
def killWave (s : State) (g : Nat) (r : RxStream) (n : Nat) : State × RxStream :=
  let w := r.wave n
  let done := if n = r.fold then r.pos else 0
  let seen := if n = r.fold && r.state = .suspended then max done r.tcount else done
  traceDead s g (r.setWave n { w with
    unmerged := [], dead := true, traced := seen, drain := w.drain + (w.ranked.length - done) + w.unmerged.length }) n
/-- A wave whose fold has stopped is discarding already (R263): what it has buffered goes at once. -/
def dropUnmerged (r : RxStream) (n : Nat) : RxStream :=
  let w := r.wave n
  r.setWave n { w with unmerged := [], drain := w.drain + w.unmerged.length }
/-- The effect of rk.drain: the wave to wait for stays with the thread set. -/
def rkDrainEff (s : State) (i : Nat) : Eff := do
  let r ← myRx s i
  let done := s.setTh { s.th with mark := none }
  match s.th.mark with
  | some (j, g, n) => if j = i ∧ g = r.gen ∧ r.closed ≤ n then waitE s else .ok done
  | none =>
    if r.state = .folding then waitE s
    else
      let n := r.closed
      let (s, r1) := if r.state = .suspended then killWave s s.myCore r r.fold else (s, r)
      let r1 := if r.state = .suspended then
          { r1 with state := .open
                    tracen := if r.fold + 1 = n then (if r.trace = 0 then 0 else min 4096 (r1.wave r.fold).ranked.length) else r1.tracen }
        else r1
      let (s, r2) := if r.state = .suspended && r.fold == n then (s, r1)
        else if (r.state = .draining || r.state = .discard) && r.fold == n then (s, dropUnmerged r1 n)
        else killWave s s.myCore r1 n
      let r2 := { r2 with bound := false }
      let s := rkSync (setRx s s.myCore i (some r2)) s.myCore i
      let r3 := if r.state = .suspended then { r2 with pos := 0, fold := r2.skipDead (r2.waves.length + 1) (r2.fold + 1) } else r2
      let s := setRx (s.setTh { s.th with mark := some (i, r.gen, n) }) s.myCore i (some r3)
      let s := rxSettle (rxFuel s s.myCore i) s s.myCore i
      match rxOf s s.myCore i with
      | some x => if x.closed ≤ n then waitE s else .ok (s.setTh { s.th with mark := none })
      | none => .ok (s.setTh { s.th with mark := none })
/-- R417: rk.drain. -/
def execRkDrain (i : BitVec 3) (s : State) : Host.Outcome State Fault Refusal := issueHold (.rkDrain i) (fun s => rkDrainEff s i.toNat) s

/-! ## Gradients (R265, R418, R419) -/

/-- The stream of a gradient instruction: its trace must stand (0x23), and it waits while a fold runs. -/
def gradStream (s : State) (i : Nat) : Except Stop RxStream := do
  let r ← myRx s i
  if r.closed = 0 || r.trace == 0 then trapE s 0x23
  else if r.state = .folding then waitE s
  else .ok r
/-- The vector g of a gradient instruction. -/
def readG (s : State) (m : Mask) (a : Word) (r : RxStream) : Except Stop (State × List Nat) := do
  if a.toNat % 4 != 0 then trapE s 0x23 a
  else
    let (s, bs) ← ownRead s m a (4 * r.nout)
    .ok (s, words32 r.nout bs)
/-- Whether a trace entry enters the sums. -/
def RxStream.graded (r : RxStream) (x : Nat) : Bool :=
  let st := x / 2 ^ 17 % 4
  st == 0 || (r.gmode && st != 3)
/-- G of one trace entry over its weight row. -/
def gradSum (ws : List FVal) (g : List Nat) : Nat :=
  (List.zip ws g).foldl (fun acc p => (Fmt.f32.lane 0 0 (p.1.fma (Fmt.f32.value p.2) (Fmt.f32.value acc) false)).1) 0
/-- The entries of G in order. -/
def gradEntries (s : State) (m : Mask) (r : RxStream) (g : List Nat) (l : List Nat) : Except Stop (State × List Nat) :=
  match l with
  | [] => .ok (s, [])
  | x :: rest => do
    let (s, v) ← (if r.graded x then do
        let (s, bs) ← ownRead s m (r.rowAddr (x % 65536)) r.rowBytes
        .ok (s, gradSum ((unitsOf r.nout (if r.wbf16 then 2 else 1) bs).map r.weight) g)
      else .ok (s, 0))
    let (s, vs) ← gradEntries s m r g rest
    .ok (s, v :: vs)
/-- R418: rk.grad. -/
def execRkGrad (a b : Reg) (i : BitVec 3) (s : State) : Host.Outcome State Fault Refusal :=
  issueD (.rkGrad a b i) { rx := [a, b], afterStores := true, mem := some { base := a, off := 0, size := 16, store := true, wide := true } } (fun m s => do
    let r ← gradStream s i.toNat
    if (rdX s b).toNat % 4 != 0 then trapE s 0x23 (rdX s b)
    else
      let (s, g) ← readG s m (rdX s a) r
      needOwn s (rdX s b) (4 * r.tracen)
      let (s, tr) ← ownBytes s m r.trace (4 * r.tracen)
      let (s, G) ← gradEntries s m r g (words32 r.tracen tr)
      if r.tracen = 0 then .ok s else ownWrite s m (rdX s b) (G.flatMap (fun v => natBytes 4 v))) s

/-- dW of one row after one trace entry. -/
def wgradRow (d : BitVec 16) (neg : Bool) (g row : List Nat) : List Nat :=
  let dv := if neg then (Fmt.bf16.value d.toNat).neg else Fmt.bf16.value d.toNat
  List.zipWith (fun x y => (Fmt.f32.lane 0 0 (dv.fma (Fmt.f32.value x) (Fmt.f32.value y) false)).1) g row
/-- The address of a gradient row. -/
def wgradAddr (base : Word) (stride c : Nat) : Word := base + BitVec.ofNat 64 (c * stride)
/-- The rows in order: those before one that does not lie in the allotment stay written. -/
def wgradRows (s : State) (r : RxStream) (g : List Nat) (base : Word) (stride k : Nat) (l : List Nat) : Eff :=
  match l with
  | [] => .ok s
  | x :: rest =>
    if r.graded x && decide (k < r.len) then do
      let a := wgradAddr base stride (x % 65536)
      match localKey s s.cur a (4 * r.nout) with
      | .error c => trapE s c a
      | .ok key =>
        match homeFails s key (4 * r.nout) true with
        | some c => trapE s c a
        | none =>
          let row := wgradRow (r.seq.getD k 0) (x / 2 ^ 16 % 2 == 1) g (words32 r.nout (memRead s key (4 * r.nout)))
          wgradRows (memWrite s key (row.flatMap (fun v => natBytes 4 v))) r g base stride (k + 1) rest
    else wgradRows s r g base stride (k + 1) rest
/-- The rows of a trace arrive at their homes: nothing is written while one of them has to wait. -/
def wgradArrive (s : State) (m : Mask) (r : RxStream) (base : Word) (stride : Nat) (l : List Nat) : Eff :=
  keysArrive s m (l.filterMap (fun x =>
    match localKey s s.cur (wgradAddr base stride (x % 65536)) (4 * r.nout) with | .ok k => some (k, 4 * r.nout) | .error _ => none))
/-- R419: rk.wgrad. -/
def execRkWgrad (a b : Reg) (i : BitVec 3) (s : State) : Host.Outcome State Fault Refusal :=
  issueD (.rkWgrad a b i) { rx := [a, b], afterStores := true, mem := some { base := a, off := 0, size := 16, store := true, wide := true } } (fun m s => do
    let r ← gradStream s i.toNat
    let (s, g) ← readG s m (rdX s a) r
    if (rdX s b).toNat % 16 != 0 then trapE s 0x23 (rdX s b)
    else
      let (s, ds) ← ownRead s m (rdX s b) 16
      let w := leWords 2 ds
      let base := w.getD 0 0; let stride := bitsOf (w.getD 1 0) 31 0
      if base.toNat % 4 != 0 || stride % 4 != 0 || bitsOf (w.getD 1 0) 63 32 != 0 then trapE s 0x23 (rdX s b)
      else
        let (s, tr) ← ownBytes s m r.trace (4 * r.tracen)
        let l := words32 r.tracen tr
        let s ← wgradArrive s m r base stride l
        wgradRows s r g base stride 0 l) s

/-! ## Waves (R420 to R422) -/

/-- The distinct tick periods in use on the device, the stream i of core g apart (R420). -/
def periodsInUse (s : State) (g i : Nat) : List Nat :=
  (s.cores.flatMap (fun p => (List.range 8).filterMap (fun j =>
    match p.2.rx.toList.getD j none with
    | some r => if r.spike && !(p.1 == g && j == i) then some r.period else none
    | none => none) ++ p.2.rxSaved.filterMap (fun q => if q.2.spike then some q.2.period else none))).eraseDups
/-- R420: wave.cfg. -/
def execWaveCfg (a : Reg) (i : BitVec 3) (s : State) : Host.Outcome State Fault Refusal :=
  issueD (.waveCfg a i) { rx := [a], mem := some { base := a, off := 0, size := 16, store := false } } (fun m s => do
    let a := rdX s a
    if a.toNat % 16 != 0 then trapE s 0x23 a
    else
      let (s, bs) ← blockRead s m a 16
      let w := leWords 2 bs
      let p := bitsOf (w.getD 0 0) 11 0
      let r ← myRx (myForget s) i.toNat
      if bitsOf (w.getD 0 0) 63 12 != 4 * 2 ^ 48 || w.getD 1 0 != 0 || decide (4000 < p) || !r.spike then trapE (myForget s) 0x23
      else if r.state = .folding then waitE s
      else
        let p := if p = 0 then 1000 else p
        let ps := periodsInUse s s.myCore i.toNat
        if !ps.contains p && decide (32 ≤ ps.length) then trapE (myForget s) 0x23
        else
          .ok (rkSync (setRx (myForget s) s.myCore i.toNat (some { r with period := p, ticks := 0, stretch := 0 })) s.myCore i.toNat)) s

/-- Every producer whose marker has not arrived is taken as ended (R421). -/
def Wave.force (w : Wave) : Wave :=
  { w with prods := w.prods.map (fun (p : WaveProd) => if p.ended then p else { p with ended := true, forced := true }) }
/-- R421: wave.close. -/
def execWaveCloseInstr (i : BitVec 3) (s : State) : Host.Outcome State Fault Refusal :=
  issueD (.waveCloseInstr i) {} (fun _ s => do
    let r ← myRx s i.toNat
    let s := setRx s s.myCore i.toNat (some (r.setWave r.closed (r.wave r.closed).force))
    .ok (rxSettle (rxFuel s s.myCore i.toNat) s s.myCore i.toNat)) s

/-- The effect of wave.wait: the count it waits for stays with the thread set. -/
def waveWaitEff (s : State) (i : Nat) : Eff := do
  let r ← myRx s i
  let m := match s.th.mark with
    | some (j, g, n) => if j = i ∧ g = r.gen then n else r.closed
    | none => match s.th.lastWave.toList.getD i none with | some (g, n) => if g = r.gen then n else r.closed | none => r.closed
  if m < r.closed then .ok (s.setTh { s.th with mark := none })
  else waitE (s.setTh { s.th with mark := some (i, r.gen, m) })
/-- R422: wave.wait. -/
def execWaveWait (i : BitVec 3) (s : State) : Host.Outcome State Fault Refusal :=
  issueN (.waveWait i) false (fun s => waveWaitEff s i.toNat) s

end Sys2Proof.Machine
end

