-- ==== Sys2Proof/Machine/Coll.lean ====
section
/-! DEFINITION. Machine/Coll.lean: the hub collective engine (R72 to R81) and its instructions (R424 to R427). -/
namespace Sys2Proof.Machine

/-! ## Fields of the request block (R73, R74) -/

/-- Word i. -/
def CollRank.word (c : CollRank) (i : Nat) : Word := c.block.getD i 0
/-- OP. -/
def CollRank.op (c : CollRank) : Nat := bitsOf (c.word 0) 7 0
/-- NRANK. -/
def CollRank.nrank (c : CollRank) : Nat := bitsOf (c.word 0) 35 24 + 1
/-- MTYPE. -/
def CollRank.mtype (c : CollRank) : Nat := bitsOf (c.word 0) 23 19
/-- WTYPE. -/
def CollRank.wtype (c : CollRank) : Nat := bitsOf (c.word 0) 18 14
/-- RED. -/
def CollRank.red (c : CollRank) : Nat := bitsOf (c.word 0) 13 12
/-- MX. -/
def CollRank.mx (c : CollRank) : Bool := bitOf (c.word 0) 11
/-- COUNT. -/
def CollRank.count (c : CollRank) : Nat := (c.word 1).toNat
/-- COUNT/NRANK. -/
def CollRank.slice (c : CollRank) : Nat := c.count / c.nrank
/-- Whether the operation reduces. -/
def CollRank.reduces (c : CollRank) : Bool := c.op == 1 || c.op == 2 || c.op == 4
/-- The bits of an element in memory: a whole block with its scale where MX is set (R77). -/
def CollRank.memBits (c : CollRank) : Nat := if c.mx then 8 * (mxBytes c.mtype + 1) else (typeOf c.mtype).container
/-- The bits of an element on the wire. -/
def CollRank.wireBits (c : CollRank) : Nat := if c.reduces then (typeOf c.wtype).container else c.memBits

/-- The parent of a rank; 0xFFFF for the root. -/
def parentOf (t : List (List Nat)) (r : Nat) : Nat := (t.getD r []).getD 0 0xFFFF
/-- The children of a rank, in summation order. -/
def childrenOf (t : List (List Nat)) (r : Nat) : List Nat := ((t.getD r []).drop 2).take ((t.getD r []).getD 1 0)
/-- The ranks below a rank and itself; `fuel` bounds the depth. -/
def subtreeOf (t : List (List Nat)) (fuel r : Nat) : List Nat :=
  match fuel with
  | 0 => []
  | k + 1 => r :: (childrenOf t r).flatMap (fun c => subtreeOf t k c)
/-- Whether a tree table forms one tree (R75). -/
def treeTableOk (t : List (List Nat)) (n : Nat) : Bool :=
  let roots := (List.range n).filter (fun r => parentOf t r == 0xFFFF)
  let kids := (List.range n).flatMap (fun r => childrenOf t r)
  t.all (fun e => e.getD 1 0 ≤ 14) && roots.length == 1 && kids.length == kids.eraseDups.length &&
  (List.range n).all (fun r => (childrenOf t r).all (fun c => decide (c < n) && parentOf t c == r)) &&
  (let reached := subtreeOf t n (roots.headD 0); (List.range n).all (fun r => reached.contains r))

/-- The local port to a member of the own group (R47). -/
def localPort (me m : Nat) : Nat := (m + 31 - me % 32) % 32
/-- Group entry g of a generation. [DESIGN CHOICE, unsafe: log 87] -/
def groupEntry (s : State) (gen : Bool) (g : Nat) : Word × Word :=
  tget s.fabric.groups ((if gen then 1024 else 0) + g) (BitVec.ofNat 64 (0x7F * 2 ^ 48), 0)
/-- Member entry m of a generation. -/
def memberEntry (s : State) (gen : Bool) (m : Nat) : Word :=
  tget s.fabric.members ((if gen then 32 else 0) + m) (BitVec.ofNat 64 (0x7F * 2 ^ 32))
/-- A port's record. -/
def State.port (s : State) (p : Nat) : Port := tget s.ports p {}
/-- The state with a port's record replaced. -/
def State.setPort (s : State) (p : Nat) (v : Port) : State := { s with ports := tset s.ports p v }
/-- Whether a device id has a route in the current generation (R75): this device, a member of its group that is entered or whose
direct port is Up, a group that is entered. -/
def routeValid (s : State) (dev : Nat) : Bool :=
  if dev = ownId s then true
  else if dev / 32 = ownId s / 32 then
    bitOf (memberEntry s s.fabric.cur (dev % 32)) 63 || (s.port (localPort (ownId s) (dev % 32))).state == .up
  else bitOf (groupEntry s s.fabric.cur (dev / 32)).1 63

/-- The checks of R75. [DEDUCED, unsafe: log 94] -/
def collOk (s : State) (c : CollRank) : Bool :=
  let isWide := fun (t : Nat) => t == 8 || t == 10
  1 ≤ c.op && c.op ≤ 8 && c.red != 3 && bitsOf (c.word 0) 10 8 == 0 && c.rank < c.nrank &&
  1 ≤ c.count && c.count ≤ 2 ^ 32 && typeOf c.mtype != .none &&
  (if c.reduces then isWide c.wtype && isWide c.mtype else c.wtype == c.mtype) &&
  ((c.op != 4 && c.op != 8) || c.count % c.nrank == 0) &&
  (if c.mx then 16 ≤ c.mtype && c.mtype ≤ 21 else c.mtype != 21) &&
  treeTableOk c.table c.nrank && c.map.all (fun d => decide (d < 0x8000) && routeValid s d) &&
  (c.word 2).toNat % 64 == 0 && (c.word 3).toNat % 64 == 0 && (c.word 5).toNat % 64 == 0 && (c.word 6).toNat % 8 == 0

/-! ## Identity and accesses of a rank -/

/-- Thread numbers of the collective engine's ranks in the list of far accesses. -/
def collTid (c : CollRank) : Nat := 0x400000 + c.id
/-- For whom the engine acts. -/
def collUnit (s : State) (c : CollRank) : Option UnitFor :=
  (s.launch c.launch).map (fun l => { tid := collTid c, core := coreOf c.tid, launch := l, kernel := c.kernel, wid := c.wid, pc := c.pc })
/-- A fault record of a rank (R80, R81). -/
def collFault (s : State) (c : CollRank) (code dev : Nat) (a : Word) : State :=
  writeFault s c.ctx { dev := dev, tid := some c.tid, retired := c.retired, agent := 6, code := code, addr := a, wid := c.wid, pc := c.pc }
/-- A rank replaced. -/
def setColl (s : State) (c : CollRank) : State := { s with coll := s.coll.map (fun (x : CollRank) => if x.id == c.id then c else x) }
/-- Whether a rank is accepted and not complete. -/
def CollRank.inFlight (c : CollRank) : Bool := c.phase < 5
/-- Whether two ranks belong to one instance: they are matched by job tag and COLLID (R72); one whose COLLID clashed at its commit does not
(R425). -/
def CollRank.sameInstance (a b : CollRank) : Bool := a.job == b.job && a.collid == b.collid && a.clash == b.clash
/-- A rank's instance has failed: its record is placed, and its completion word is to be written, after the tree log that is on its way
(R81). -/
def failRank (s : State) (c : CollRank) (code dev : Nat) (a : Word) : State :=
  let s := if c.log = 2 then s else forgetMisses { s with far := s.far.filter (fun f => f.tid != collTid c) } (collTid c)
  setColl (collFault s c code dev a) { c with phase := 4, code := code, out := none }
/-- Every rank of an instance in flight on this device fails (R75, R80). [DEDUCED, unsafe: log 88] -/
def failInstance (s : State) (job collid : BitVec 16) (code dev : Nat) : State :=
  (s.coll.filter (fun c => c.job == job && c.collid == collid && c.inFlight && c.code == 0)).foldl (fun s c => failRank s c code dev 0) s

/-! ## Elements and regions -/

/-- Elements of b bits from bytes. -/
def elemsOf (b n : Nat) (bs : List Byte) : List Nat := let v := leNat bs; (List.range n).map (fun i => v / 2 ^ (b * i) % 2 ^ b)
/-- The bytes of elements of b bits. -/
def elemBytes (b : Nat) (es : List Nat) : List Byte := natBytes ((es.length * b + 7) / 8) (packNat b es)

/-- The elements of one region of a direction (R76, R79): arrivals are counted in it. -/
def CollRank.region (c : CollRank) (dir : Nat) : Nat := if c.op == 8 || (c.op == 4 && dir == 1) then c.slice else c.count
/-- The regions, by first offset, that a rank is to receive from a sender. -/
def CollRank.expects (c : CollRank) (dir sender : Nat) : List Nat :=
  match dir with
  | 0 => if c.reduces then [0] else (subtreeOf c.table c.nrank sender).map (· * c.count)
  | 1 =>
    if c.op == 1 || c.op == 3 then [0]
    else if c.op == 7 then (List.range c.nrank).map (· * c.count)
    else (subtreeOf c.table c.nrank c.rank).map (· * c.region 1)
  | _ => [sender * c.slice]
/-- What has arrived from a sender. -/
def CollRank.arrivals (c : CollRank) (dir sender : Nat) : Tab Nat :=
  match c.got.find? (fun g => g.1 == dir && g.2.1 == sender) with | some g => g.2.2 | none => []
/-- Whether a sender's whole contribution has arrived. -/
def CollRank.whole (c : CollRank) (dir sender : Nat) : Bool :=
  (c.arrivals dir sender).length == (c.expects dir sender).length * c.region dir
/-- An arrival placed by its offset (R79): elements outside what the rank expects are ignored. [DEDUCED, unsafe: log 89] -/
def CollRank.put (c : CollRank) (dir sender off : Nat) (es : List Nat) : CollRank :=
  let start := off / c.region dir * c.region dir
  if c.region dir = 0 || !(c.expects dir sender).contains start then c
  else
    let es := es.take (start + c.region dir - off)
    let t := (es.mapIdx (fun i v => (off + i, v))).foldl (fun t p => tset t p.1 p.2) (c.arrivals dir sender)
    { c with got := c.got.filter (fun g => !(g.1 == dir && g.2.1 == sender)) ++ [(dir, sender, t)] }

/-! ## Packets (R79) -/

/-- The packets of one region of elements. -/
def collPackets (s : State) (c : CollRank) (dir target off : Nat) (es : List Nat) : List Packet :=
  let per := 4096 * 8 / c.wireBits
  (List.range ((es.length + per - 1) / per)).map (fun k =>
    newPacket s 0x0C (c.map.getD target 0) c.job
      [(423, 408, c.collid.toNat), (407, 396, c.rank), (395, 384, target), (383, 382, dir), (381, 334, off + k * per)]
      (elemBytes c.wireBits ((es.drop (k * per)).take per)))
/-- The rank that a Collective packet is for, where it has been accepted. -/
def collTarget (s : State) (p : Packet) : Option CollRank :=
  s.coll.find? (fun c => c.job == p.job && c.collid.toNat == pbits p 423 408 && c.rank == pbits p 395 384 && c.inFlight && !c.clash)
/-- A packet's elements placed in a rank. -/
def CollRank.take (c : CollRank) (p : Packet) : CollRank :=
  c.put (pbits p 383 382) (pbits p 407 396) (pbits p 381 334) (elemsOf c.wireBits (p.len * 512 / c.wireBits) p.data)
/-- The bytes in the staging store. -/
def stagedBytes (s : State) : Nat := (s.staged.map (fun p => 64 * p.len)).foldl (· + ·) 0
/-- A Collective packet delivered: placed, or held in the staging store; none where that is full (R79). -/
def collDeliver (s : State) (p : Packet) : Option State :=
  match collTarget s p with
  | some c => some (setColl s (c.take p))
  | none => if stagedBytes s + 64 * p.len ≤ 64 * 2 ^ 20 then some { s with staged := s.staged ++ [p] } else none
/-- Packets of a rank on their way: those for ranks of this device are delivered at once. -/
def collSend (s : State) (ps : List Packet) : State :=
  ps.foldl (fun s p =>
    if p.dest.toNat = ownId s then (match collDeliver s p with | some s => s | none => { s with staged := s.staged ++ [p] })
    else { s with fabric := { s.fabric with inject := s.fabric.inject ++ [p] } }) s

/-! ## Reduction (R78) -/

/-- COMBINE on FP32 values. -/
def combine (red a b : Nat) : Nat :=
  match red with
  | 0 => (addRNE32 a b).1
  | 1 => (Fmt.f32.minmaxL true a b).1
  | _ => (Fmt.f32.minmaxL false a b).1
/-- The format of BF16 or FP32. -/
def wideOf (t : Nat) : Fmt := if t = 10 then .f32 else .bf16
/-- An FP32 value rounded to a wide type. -/
def roundTo (t v : Nat) : Nat := ((wideOf t).convert 0 0 false (Fmt.f32.value v)).1
/-- The element that a node sends up or that is the root's result, in WTYPE. -/
def reduceElem (c : CollRank) (i : Nat) : Nat :=
  let acc := (childrenOf c.table c.rank).foldl (fun acc k =>
    combine c.red acc ((wideOf c.wtype).widen32 (tget (c.arrivals 0 k) i 0)).1) ((wideOf c.mtype).widen32 (c.own.getD i 0)).1
  roundTo c.wtype acc
/-- A reduced element as it stands in memory. -/
def storedElem (c : CollRank) (v : Nat) : Nat := roundTo c.mtype ((wideOf c.wtype).widen32 v).1

/-! ## Progress of a rank -/

/-- The bytes of INBUF that a rank reads. -/
def CollRank.inElems (c : CollRank) : Nat :=
  let root := parentOf c.table c.rank == 0xFFFF
  if c.op = 3 then (if root then c.count else 0)
  else if c.op = 6 then (if root then c.nrank * c.count else 0)
  else c.count
/-- Ranges of up to 4,096 bytes. -/
def rangesOf (a : Word) (n : Nat) : List (Word × Nat) :=
  (List.range ((n + 4095) / 4096)).map (fun k => (a + BitVec.ofNat 64 (4096 * k), min 4096 (n - 4096 * k)))

/-- Whether a rank awaits an arrival (R80). -/
def CollRank.awaits (c : CollRank) : Bool :=
  c.code == 0 && c.out.isNone &&
  (match c.phase with
   | 1 => !(childrenOf c.table c.rank).all (fun k => c.whole 0 k)
   | 2 => parentOf c.table c.rank != 0xFFFF && !c.whole 1 (parentOf c.table c.rank)
   | 3 => !(List.range c.nrank).all (fun q => c.whole 2 q)
   | _ => false)
/-- Every rank of an instance that awaits an arrival fails: a participant is unreachable (R80). -/
def failWaiting (s : State) (job collid : BitVec 16) (dev : Nat) : State :=
  (s.coll.filter (fun c => c.job == job && c.collid == collid && c.awaits)).foldl (fun s c => failRank s c 0x30 dev 0) s

/-- What a rank of a gather holds of its subtree, by offset. -/
def CollRank.gathered (c : CollRank) : Tab Nat :=
  c.own.mapIdx (fun i v => (c.rank * c.count + i, v)) ++ (childrenOf c.table c.rank).flatMap (fun k => c.arrivals 0 k)
/-- The values that a rank holds to pass down, by offset (R78). -/
def CollRank.downData (c : CollRank) : Tab Nat :=
  if parentOf c.table c.rank == 0xFFFF then
    (if c.reduces then (List.range c.count).map (fun i => (i, reduceElem c i))
     else if c.op = 7 then c.gathered
     else c.own.mapIdx (fun i v => (i, v)))
  else c.arrivals 1 (parentOf c.table c.rank)
/-- The elements of a region in a table. -/
def regionElems (t : Tab Nat) (off n : Nat) : List Nat := (List.range n).map (fun i => tget t (off + i) 0)
/-- What a rank passes to a child. -/
def CollRank.toChild (s : State) (c : CollRank) (k : Nat) : List Packet :=
  let offs := if c.op == 1 || c.op == 3 then [0] else if c.op == 7 then (List.range c.nrank).map (· * c.count)
    else (subtreeOf c.table c.nrank k).map (· * c.region 1)
  let t := c.downData
  offs.flatMap (fun o => collPackets s c 1 k o (regionElems t o (c.region 1)))
/-- What a rank passes to its parent. -/
def CollRank.toParent (s : State) (c : CollRank) : List Packet :=
  let p := parentOf c.table c.rank
  if c.reduces then collPackets s c 0 p 0 ((List.range c.count).map (reduceElem c))
  else (subtreeOf c.table c.nrank c.rank).flatMap (fun q => collPackets s c 0 p (q * c.count) (regionElems c.gathered (q * c.count) c.count))
/-- OUTBUF at the end of the way down. -/
def CollRank.downOut (c : CollRank) : List Byte :=
  let t := c.downData
  let es := match c.op with
    | 1 => (regionElems t 0 c.count).map (storedElem c)
    | 3 => regionElems t 0 c.count
    | 4 => (regionElems t (c.rank * c.slice) c.slice).map (storedElem c)
    | 6 => regionElems t (c.rank * c.count) c.count
    | _ => regionElems t 0 (c.nrank * c.count)
  elemBytes c.memBits es
/-- OUTBUF of the root of a reduce or of a gather. -/
def CollRank.rootOut (c : CollRank) : List Byte :=
  if c.reduces then elemBytes c.memBits ((List.range c.count).map (fun i => storedElem c (reduceElem c i)))
  else elemBytes c.memBits (regionElems c.gathered 0 (c.nrank * c.count))
/-- OUTBUF of a rank of an all-to-all (R76). -/
def CollRank.allOut (c : CollRank) : List Byte :=
  elemBytes c.memBits ((List.range c.nrank).flatMap (fun q => regionElems (c.arrivals 2 q) (q * c.slice) c.slice))

/-- INBUF has been read: its elements are on their way, or the way up begins. -/
def collBegin (s : State) (c : CollRank) : State :=
  let ph := if c.op = 8 then 3 else if c.op = 3 ∨ c.op = 6 then 2 else 1
  let c := { c with phase := ph }
  let s := setColl s c
  if c.op = 8 then
    collSend s ((List.range c.nrank).flatMap (fun q => collPackets s c 2 q (c.rank * c.slice) ((c.own.drop (q * c.slice)).take c.slice)))
  else s

/-- One step of a rank once what it waits for has arrived. -/
def collMove (s : State) (c : CollRank) : State :=
  let root := parentOf c.table c.rank == 0xFFFF
  match c.phase with
  | 1 =>
    if (childrenOf c.table c.rank).all (fun k => c.whole 0 k) then
      let s := if root then s else collSend s (c.toParent s)
      if c.op = 2 ∨ c.op = 5 then
        (if root then setColl s { c with out := some c.rootOut } else setColl s { c with phase := 4 })
      else setColl s { c with phase := 2 }
    else s
  | 2 =>
    if root || c.whole 1 (parentOf c.table c.rank) then
      setColl (collSend s ((childrenOf c.table c.rank).flatMap (fun k => c.toChild s k))) { c with out := some c.downOut }
    else s
  | 3 => if (List.range c.nrank).all (fun q => c.whole 2 q) then setColl s { c with out := some c.allOut } else s
  | _ => s

/-- The next part of OUTBUF written; after the last, and once every part has been performed, the completion word is due (R80). -/
def collWrite (s : State) (c : CollRank) (u : UnitFor) (bs : List Byte) : State :=
  let fail := fun (s : State) (code dev : Nat) (a : Word) => failRank s c code dev a
  match unitFailed s u.tid with
  | some f => fail s f.fail (f.party s) f.addr
  | none =>
    if c.written < bs.length then
      let n := min 4096 (bs.length - c.written)
      let a := c.word 3 + BitVec.ofNat 64 c.written
      match unitAsk s u [(a, n)] with
      | (s, false) => s
      | (s, true) =>
        match unitWrite s u a ((bs.drop c.written).take n) with
        | .ok s _ => setColl s { c with written := c.written + n }
        | .wait s => s
        | .fail s code a dev => fail s code dev a
    else if unitBusy s u.tid then s
    else setColl (forgetMisses (unitForget s u.tid) u.tid) { c with phase := 4 }

/-- Whether every rank that a rank map places on this device has been accepted and is complete (R74). -/
def CollRank.allDone (s : State) (c : CollRank) : Bool :=
  c.map.zipIdx.all (fun p => p.1 != ownId s || s.coll.any (fun d => d.sameInstance c && d.rank == p.2 && d.phase == 5))
/-- Ranks of an instance leave the device once none of them is in flight and none of those that it hosts is still to come: until then a
rank is held against its parent's copy (R75). -/
def collSweep (s : State) (c : CollRank) : State :=
  if c.clash then { s with coll := s.coll.filter (fun d => d.id != c.id) }
  else if s.coll.any (fun d => d.sameInstance c && d.inFlight) || !c.allDone s then s
  else { s with coll := s.coll.filter (fun d => !(d.sameInstance c && d.phase == 5)) }
/-- The completion word (R80, R424): a word that cannot be written is reported by a fault record. -/
def collComplete (s : State) (c : CollRank) (u : UnitFor) : State :=
  let v := if c.code = 0 then 1 else 2 ^ 63 + c.code
  match launchKey s u.launch u.core (c.word 6) 8 with
  | .error k => collSweep (setColl (collFault s c k (ownId s) (c.word 6)) { c with phase := 5 }) c
  | .ok k =>
    match arrive s (.unit u.tid) [(k, 8)] with
    | (s, true) => s
    | (s, false) =>
      let s := match homeFails s k 8 false with
        | some code => collFault s c code (ownId s) (c.word 6)
        | none => memWrite s k (natBytes 8 v)
      collSweep (setColl s { c with phase := 5 }) c

/-- Whether two copies of a request differ in what every rank must present alike (R75). -/
def CollRank.differs (a b : CollRank) : Bool :=
  (a.op, a.red, a.mtype, a.wtype, a.mx, a.count, a.nrank) != (b.op, b.red, b.mtype, b.wtype, b.mx, b.count, b.nrank) ||
  a.map != b.map || a.table != b.table
/-- Whether a rank's copy differs from its parent's, complete or not, or its instance has failed for that at a rank of this device, or of
another, of which the event tells (R75). [DEDUCED, unsafe: log 88] -/
def collDiffers (s : State) (c : CollRank) (told : Bool) : Bool :=
  s.coll.any (fun p => p.sameInstance c && p.phase ≤ 5 && ((p.rank == parentOf c.table c.rank && p.differs c) || p.code == 0x23)) ||
  (told && c.map.any (fun d => d != ownId s))

/-- The accepted instances of the device, or of one context (R72). -/
def collCount (s : State) (ctx : Option Nat) : Nat :=
  ((s.coll.filter (fun c => c.inFlight && (ctx == none || ctx == some c.ctx))).map (fun c => (c.job, c.collid))).eraseDups.length
/-- Whether a limit of R72 holds an acceptance back. -/
def collLimit (s : State) (c : CollRank) : Bool :=
  let joins := s.coll.any (fun x => x.sameInstance c && x.inFlight)
  !joins && (decide (16 ≤ collCount s (some c.ctx)) || decide (256 ≤ collCount s none))
/-- Whether the COLLID is in flight for the job on the device with this rank already accepted (R72, R424). -/
def collConflict (s : State) (c : CollRank) : Bool :=
  s.coll.any (fun x => x.sameInstance c && x.phase ≤ 5 && x.rank == c.rank) && s.coll.any (fun x => x.sameInstance c && x.inFlight)

/-- The canonical tree encoding (R81). -/
def treeEncoding (c : CollRank) : List Byte :=
  natBytes 2 c.nrank ++ [BitVec.ofNat 8 c.op, BitVec.ofNat 8 c.red, BitVec.ofNat 8 c.wtype] ++ c.table.flatMap (fun e => e.flatMap (fun h => natBytes 2 h))
/-- Acceptance (R73, R81, R424): what the staging store holds for the rank is placed; the tree log is to be written. A COLLID whose
instance has this rank complete and none in flight begins another instance. -/
def collAccept (s : State) (c : CollRank) : State :=
  let mine := fun (p : Packet) => p.job == c.job && pbits p 423 408 == c.collid.toNat && pbits p 395 384 == c.rank
  let c1 := (s.staged.filter mine).foldl (fun c p => c.take p) { c with phase := 0, log := if c.word 7 = 0 then 0 else 1 }
  let again := s.coll.any (fun x => x.sameInstance c && x.phase == 5 && x.rank == c.rank)
  { s with staged := s.staged.filter (fun p => !mine p), coll := s.coll.filter (fun x => !(again && x.sameInstance c && x.phase == 5)) ++ [c1] }
/-- The hash of the tree written to LOGADDR, and awaited (R81). -/
def collLog (s : State) (c : CollRank) (u : UnitFor) : State :=
  if c.log = 2 then
    if unitBusy s u.tid then s
    else
      let s1 := setColl (unitForget s u.tid) { c with log := 0 }
      match unitFailed s u.tid with
      | some f => collFault s1 c f.fail (f.party s) f.addr
      | none => s1
  else
    let bs := sha3 (treeEncoding c)
    match unitAsk s u [(c.word 7, bs.length)] with
    | (s, false) => s
    | (s, true) =>
      match unitWrite s u (c.word 7) bs with
      | .ok s _ => setColl s { c with log := 2 }
      | .wait s => s
      | .fail s code a dev => collFault (setColl s { c with log := 0 }) c code dev a

/-- One step of a rank of the collective engine; `told`: the instance has failed at a rank of another device for R75. -/
def collStep (s : State) (id : Nat) (told : Bool) : State :=
  match s.coll.find? (fun c => c.id == id) with
  | none => s
  | some c =>
    match collUnit s c with
    | none => s
    | some u =>
      if c.phase = 7 then
        let s0 := { s with coll := s.coll.filter (fun x => x.id != id) }
        if collConflict s0 c then failRank s { c with clash := true } 0x23 (ownId s) 0
        else if collLimit s0 c then s
        else collAccept s0 c
      else if 5 ≤ c.phase then s
      else if c.log != 0 then collLog s c u
      else if c.phase = 4 then collComplete s c u
      else if collDiffers s c told then failInstance s c.job c.collid 0x23 (ownId s)
      else
        match c.out with
        | some bs => collWrite s c u bs
        | none =>
          if c.phase = 0 then
            let n := (c.inElems * c.memBits + 7) / 8
            match unitReads s u (rangesOf (c.word 2) n) with
            | .fail s code a dev => failRank s c code dev a
            | .wait s => s
            | .ok s bs => collBegin (forgetMisses (unitForget s u.tid) u.tid) { c with own := elemsOf c.memBits c.inElems bs }
          else collMove s c

/-! ## Instructions -/

/-- The effect of coll.go (R424, R425): its reads are accesses of the thread set, and fail as such (R166). -/
def collGoEff (s : State) (m : Mask) (a : Word) : Eff := do
  if a.toNat % 64 != 0 then trapE s 0x23 a
  else
    let (s, bs, fs) ← softReads s m [] [(a, 64)]
    let w := leWords 8 bs
    let n := bitsOf (w.getD 0 0) 35 24 + 1
    let (s, mapB, fs) ← softReads s m fs (rangesOf (w.getD 4 0) (8 * n))
    let (s, tabB, fs) ← softReads s m fs (rangesOf (w.getD 5 0) (32 * n))
    let s0 := blockFails (myForget s) fs
    let (s1, id) := freshId s0
    let c : CollRank := {
      id := id, collid := BitVec.ofNat 16 (bitsOf (w.getD 0 0) 63 48), rank := bitsOf (w.getD 0 0) 47 36, job := (s.ctx s.myCtx).job
      ctx := s.myCtx, launch := s.mySeq, tid := s.cur, wid := s.th.wid, pc := s.pcNow, kernel := s.kernelNow, block := w
      map := unitsOf n 8 mapB, table := (List.range n).map (fun r => unitsOf 16 2 (tabB.drop (32 * r))) }
    if !collOk s c then trapE s0 0x23 a
    else if inOrdered s s.cur then .ok (holdOp s0 (.coll bs mapB tabB s.pcNow))
    else if collConflict s c then trapE s0 0x23 a
    else if collLimit s c then waitE s
    else .ok (collAccept s1 c)
/-- R424: coll.go. -/
def execCollGo (a : Reg) (s : State) : Host.Outcome State Fault Refusal :=
  issueD (.collGo a) { rx := [a], mem := some { base := a, off := 0, size := 64, store := false }, afterStores := true } (fun m s =>
    collGoEff s m (rdX s a)) s

/-- The rank of this context that a word names (R426). -/
def namedRank (s : State) (v : Word) : Option CollRank :=
  s.coll.find? (fun c => c.ctx == s.myCtx && c.collid.toNat == bitsOf v 15 0 && c.rank == bitsOf v 27 16 && c.inFlight)
/-- R426: coll.wait. -/
def execCollWait (a : Reg) (s : State) : Host.Outcome State Fault Refusal :=
  issueNR (.collWait a) false [a] [] (fun s => if (namedRank s (rdX s a)).isSome then waitE s else .ok s) s

/-- The word of coll.stat (R427). -/
def collWord (s : State) (v : Word) : Word :=
  match namedRank s v with
  | none => 0
  | some c =>
    let done := ((childrenOf c.table c.rank).filter (fun k => c.whole 0 k)).length
    BitVec.ofNat 64 (2 ^ 63 + c.phase % 8 * 2 ^ 60 + done % 16 * 2 ^ 56 + c.written % 2 ^ 52)
/-- R427: coll.stat. -/
def execCollStat (d a : Reg) (s : State) : Host.Outcome State Fault Refusal :=
  issueD (.collStat d a) { rx := [a], wx := [d], noMask := true } (fun _ s => .ok (wrX s {} d (collWord s (rdX s a)))) s

end Sys2Proof.Machine
end

