-- ==== Sys2Proof/Decode.lean ====
section
/-! DEFINITION. Decode.lean: from bytes to instructions and back. `decode` is total: a word is an instruction, an illegal
encoding (cause 0x01), a reserved field that is not zero (cause 0x02) (R308, R309), or nothing at all (too few bytes). The
encoder is written from the same encoding tables (R313 to R321, R329, R387, R409, R428). -/
namespace Sys2Proof

/-- What a fetched instruction decodes to (R308, R309). `reserved` carries whether the instruction is kernel-only,
because privilege is checked before reserved fields. -/
inductive Decoded where
  | ok (i : Instr)
  | illegal
  | reserved (kernelOnly : Bool)
  deriving DecidableEq, Repr

/-- The six fields every 32-bit format is made of (R328): bits [31:25], [24:20], [19:15], [14:12], [11:7], [6:0]. -/
structure Fields where
  f7 : Nat
  b  : Nat
  a  : Nat
  f3 : Nat
  d  : Nat
  op : Nat
  deriving DecidableEq, Repr

/-- n bits of w from bit lo upward. -/
def bitsAt (w lo n : Nat) : Nat := w / 2 ^ lo % 2 ^ n

/-- A 32-bit word from its fields (R328). -/
def packFields (f : Fields) : Nat :=
  f.op + 128 * (f.d + 32 * (f.f3 + 8 * (f.a + 32 * (f.b + 32 * f.f7))))

/-- The fields of a 32-bit word (R328). -/
def unpackFields (w : Nat) : Fields :=
  { f7 := w / 33554432 % 128, b := w / 1048576 % 32, a := w / 32768 % 32, f3 := w / 4096 % 8, d := w / 128 % 32, op := w % 128 }

/-- A register number from a field (R321). -/
def regOf (n : Nat) : Reg := BitVec.ofNat 5 n

/-- A 12-bit immediate from its upper and lower parts (R328, formats I and S). -/
def imm12 (hi lo : Nat) : BitVec 12 := BitVec.ofNat 12 (hi * 32 + lo)

/-- Bits [12:1] of a branch offset (R328, format B). -/
def immB (f7 d : Nat) : BitVec 12 :=
  BitVec.ofNat 12 (f7 / 64 * 2048 + d % 2 * 1024 + f7 % 64 * 16 + d / 2)

/-- Bits [20:1] of a jump offset (R328, format J). -/
def immJ (f7 b a f3 : Nat) : BitVec 20 :=
  BitVec.ofNat 20 (f7 / 64 * 524288 + a * 16384 + f3 * 2048 + b % 2 * 1024 + f7 % 64 * 16 + b / 2)

/-- Bits [31:12] of lui and auipc (R328, format U). -/
def immU (f7 b a f3 : Nat) : BitVec 20 := BitVec.ofNat 20 (f7 * 8192 + b * 256 + a * 8 + f3)

/-- An instruction, unless a reserved field is not zero: then 0x02 (R308). -/
def orReserved (zero : Bool) (i : Instr) : Decoded := if zero then .ok i else .reserved false

/-- An instruction when its selectors are assigned, 0x01 otherwise (R308). -/
def orIllegal (assigned : Bool) (r : Decoded) : Decoded := if assigned then r else .illegal

/-- LOAD (R311, R329). -/
def decodeLoad (f : Fields) : Decoded :=
  let d := regOf f.d; let a := regOf f.a; let i := imm12 f.f7 f.b
  match f.f3 with
  | 0 => .ok (.lb d a i)
  | 1 => .ok (.lh d a i)
  | 2 => .ok (.lw d a i)
  | 3 => .ok (.ld d a i)
  | 4 => .ok (.lbu d a i)
  | 5 => .ok (.lhu d a i)
  | 6 => .ok (.lwu d a i)
  | _ => .illegal

/-- STORE (R311, R329). -/
def decodeStore (f : Fields) : Decoded :=
  let b := regOf f.b; let a := regOf f.a; let i := imm12 f.f7 f.d
  match f.f3 with
  | 0 => .ok (.sb b a i)
  | 1 => .ok (.sh b a i)
  | 2 => .ok (.sw b a i)
  | 3 => .ok (.sd b a i)
  | _ => .illegal

/-- LOAD-FP: vl and vl.tr (R313, R350, R351). A stride that is not a multiple of the lane size is 0x02. -/
def decodeLoadFp (f : Fields) : Decoded :=
  let d := regOf f.d; let a := regOf f.a
  match f.f3 with
  | 4 => .ok (.vl d a (imm12 f.f7 f.b))
  | 5 =>
    let s := f.f7 % 32 * 32 + f.b
    orReserved (s % 2 ^ (f.f7 / 32) == 0) (.vlTr d a (BitVec.ofNat 2 (f.f7 / 32)) (BitVec.ofNat 10 s))
  | _ => .illegal

/-- STORE-FP: vs (R313, R350). -/
def decodeStoreFp (f : Fields) : Decoded :=
  match f.f3 with
  | 4 => .ok (.vs (regOf f.b) (regOf f.a) (imm12 f.f7 f.d))
  | _ => .illegal

/-- MISC-MEM: fence and fence.tso (R311, R332). FENCE.I is not assigned. -/
def decodeMiscMem (f : Fields) : Decoded :=
  match f.f3 with
  | 0 =>
    if f.f7 = 65 ∧ f.b = 19 then .ok (.fenceTso (regOf f.d) (regOf f.a))
    else .ok (.fence (regOf f.d) (regOf f.a) (BitVec.ofNat 4 (f.f7 / 8)) (BitVec.ofNat 4 (f.f7 % 8 * 2 + f.b / 16))
      (BitVec.ofNat 4 (f.b % 16)))
  | _ => .illegal

/-- BRANCH (R329). -/
def decodeBranch (f : Fields) : Decoded :=
  let a := regOf f.a; let b := regOf f.b; let i := immB f.f7 f.d
  match f.f3 with
  | 0 => .ok (.beq a b i)
  | 1 => .ok (.bne a b i)
  | 4 => .ok (.blt a b i)
  | 5 => .ok (.bge a b i)
  | 6 => .ok (.bltu a b i)
  | 7 => .ok (.bgeu a b i)
  | _ => .illegal

/-- OP-IMM with funct3 001 (R329). -/
def decodeOpImm1 (f : Fields) : Decoded :=
  let d := regOf f.d; let a := regOf f.a
  match f.f7 / 2 with
  | 0 => .ok (.slli d a (BitVec.ofNat 6 (f.f7 % 2 * 32 + f.b)))
  | 24 =>
    match f.f7 % 2 * 32 + f.b with
    | 0 => .ok (.clz d a)
    | 1 => .ok (.ctz d a)
    | 2 => .ok (.cpop d a)
    | 4 => .ok (.sextB d a)
    | 5 => .ok (.sextH d a)
    | _ => .illegal
  | _ => .illegal

/-- OP-IMM with funct3 101 (R329). -/
def decodeOpImm5 (f : Fields) : Decoded :=
  let d := regOf f.d; let a := regOf f.a; let s := f.f7 % 2 * 32 + f.b
  match f.f7 / 2 with
  | 0 => .ok (.srli d a (BitVec.ofNat 6 s))
  | 16 => .ok (.srai d a (BitVec.ofNat 6 s))
  | 24 => .ok (.rori d a (BitVec.ofNat 6 s))
  | 10 => if s = 7 then .ok (.orcB d a) else .illegal
  | 26 => if s = 56 then .ok (.rev8 d a) else .illegal
  | _ => .illegal

/-- OP-IMM (R329). -/
def decodeOpImm (f : Fields) : Decoded :=
  let d := regOf f.d; let a := regOf f.a; let i := imm12 f.f7 f.b
  match f.f3 with
  | 0 => .ok (.addi d a i)
  | 1 => decodeOpImm1 f
  | 2 => .ok (.slti d a i)
  | 3 => .ok (.sltiu d a i)
  | 4 => .ok (.xori d a i)
  | 5 => decodeOpImm5 f
  | 6 => .ok (.ori d a i)
  | 7 => .ok (.andi d a i)
  | _ => .illegal

/-- OP-IMM-32 with funct3 001 (R329). -/
def decodeOpImm321 (f : Fields) : Decoded :=
  let d := regOf f.d; let a := regOf f.a
  match f.f7 with
  | 0 => .ok (.slliw d a (BitVec.ofNat 5 f.b))
  | 4 => .ok (.slliUw d a (BitVec.ofNat 6 f.b))
  | 5 => .ok (.slliUw d a (BitVec.ofNat 6 (32 + f.b)))
  | 48 =>
    match f.b with
    | 0 => .ok (.clzw d a)
    | 1 => .ok (.ctzw d a)
    | 2 => .ok (.cpopw d a)
    | _ => .illegal
  | _ => .illegal

/-- OP-IMM-32 (R329). -/
def decodeOpImm32 (f : Fields) : Decoded :=
  let d := regOf f.d; let a := regOf f.a
  match f.f3 with
  | 0 => .ok (.addiw d a (imm12 f.f7 f.b))
  | 1 => decodeOpImm321 f
  | 5 =>
    match f.f7 with
    | 0 => .ok (.srliw d a (BitVec.ofNat 5 f.b))
    | 32 => .ok (.sraiw d a (BitVec.ofNat 5 f.b))
    | 48 => .ok (.roriw d a (BitVec.ofNat 5 f.b))
    | _ => .illegal
  | _ => .illegal

/-- OP: RV64I, M, Zba and Zbb register forms (R329). -/
def decodeOp (f : Fields) : Decoded :=
  let d := regOf f.d; let a := regOf f.a; let b := regOf f.b
  match f.f7, f.f3 with
  | 0, 0 => .ok (.add d a b)
  | 0, 1 => .ok (.sll d a b)
  | 0, 2 => .ok (.slt d a b)
  | 0, 3 => .ok (.sltu d a b)
  | 0, 4 => .ok (.xor d a b)
  | 0, 5 => .ok (.srl d a b)
  | 0, 6 => .ok (.or d a b)
  | 0, 7 => .ok (.and d a b)
  | 32, 0 => .ok (.sub d a b)
  | 32, 5 => .ok (.sra d a b)
  | 32, 7 => .ok (.andn d a b)
  | 32, 6 => .ok (.orn d a b)
  | 32, 4 => .ok (.xnor d a b)
  | 1, 0 => .ok (.mul d a b)
  | 1, 1 => .ok (.mulh d a b)
  | 1, 2 => .ok (.mulhsu d a b)
  | 1, 3 => .ok (.mulhu d a b)
  | 1, 4 => .ok (.div d a b)
  | 1, 5 => .ok (.divu d a b)
  | 1, 6 => .ok (.rem d a b)
  | 1, 7 => .ok (.remu d a b)
  | 16, 2 => .ok (.sh1add d a b)
  | 16, 4 => .ok (.sh2add d a b)
  | 16, 6 => .ok (.sh3add d a b)
  | 5, 4 => .ok (.min d a b)
  | 5, 5 => .ok (.minu d a b)
  | 5, 6 => .ok (.max d a b)
  | 5, 7 => .ok (.maxu d a b)
  | 48, 1 => .ok (.rol d a b)
  | 48, 5 => .ok (.ror d a b)
  | _, _ => .illegal

/-- OP-32 (R329). -/
def decodeOp32 (f : Fields) : Decoded :=
  let d := regOf f.d; let a := regOf f.a; let b := regOf f.b
  match f.f7, f.f3 with
  | 0, 0 => .ok (.addw d a b)
  | 0, 1 => .ok (.sllw d a b)
  | 0, 5 => .ok (.srlw d a b)
  | 32, 0 => .ok (.subw d a b)
  | 32, 5 => .ok (.sraw d a b)
  | 1, 0 => .ok (.mulw d a b)
  | 1, 4 => .ok (.divw d a b)
  | 1, 5 => .ok (.divuw d a b)
  | 1, 6 => .ok (.remw d a b)
  | 1, 7 => .ok (.remuw d a b)
  | 4, 0 => .ok (.addUw d a b)
  | 4, 4 => if f.b = 0 then .ok (.zextH d a) else .illegal
  | 16, 2 => .ok (.sh1addUw d a b)
  | 16, 4 => .ok (.sh2addUw d a b)
  | 16, 6 => .ok (.sh3addUw d a b)
  | 48, 1 => .ok (.rolw d a b)
  | 48, 5 => .ok (.rorw d a b)
  | _, _ => .illegal

/-- AMO (R311): funct5 in [31:27], aq and rl any value; LR and SC are not assigned. -/
def decodeAmo (f : Fields) : Decoded :=
  let d := regOf f.d; let a := regOf f.a; let b := regOf f.b
  let q := BitVec.ofNat 1 (f.f7 / 2 % 2); let l := BitVec.ofNat 1 (f.f7 % 2)
  match f.f7 / 4, f.f3 with
  | 0, 2 => .ok (.amoaddW d a b q l)
  | 0, 3 => .ok (.amoaddD d a b q l)
  | 1, 2 => .ok (.amoswapW d a b q l)
  | 1, 3 => .ok (.amoswapD d a b q l)
  | 4, 2 => .ok (.amoxorW d a b q l)
  | 4, 3 => .ok (.amoxorD d a b q l)
  | 8, 2 => .ok (.amoorW d a b q l)
  | 8, 3 => .ok (.amoorD d a b q l)
  | 12, 2 => .ok (.amoandW d a b q l)
  | 12, 3 => .ok (.amoandD d a b q l)
  | 16, 2 => .ok (.amominW d a b q l)
  | 16, 3 => .ok (.amominD d a b q l)
  | 20, 2 => .ok (.amomaxW d a b q l)
  | 20, 3 => .ok (.amomaxD d a b q l)
  | 24, 2 => .ok (.amominuW d a b q l)
  | 24, 3 => .ok (.amominuD d a b q l)
  | 28, 2 => .ok (.amomaxuW d a b q l)
  | 28, 3 => .ok (.amomaxuD d a b q l)
  | _, _ => .illegal

/-- SYSTEM (R311, R428). -/
def decodeSystem (f : Fields) : Decoded :=
  let d := regOf f.d; let a := regOf f.a; let c := imm12 f.f7 f.b
  match f.f3 with
  | 0 =>
    if f.f7 = 0 ∧ f.a = 0 ∧ f.d = 0 then
      match f.b with
      | 0 => .ok .ecall
      | 1 => .ok .ebreak
      | _ => .illegal
    else .illegal
  | 1 => .ok (.csrrw d a c)
  | 2 => .ok (.csrrs d a c)
  | 3 => .ok (.csrrc d a c)
  | 5 => .ok (.csrrwi d c (BitVec.ofNat 5 f.a))
  | 6 => .ok (.csrrsi d c (BitVec.ofNat 5 f.a))
  | 7 => .ok (.csrrci d c (BitVec.ofNat 5 f.a))
  | _ => .illegal

/-- custom-0, formats V and VM: the operation in [31:26], U in [25], the type in [14:12] (R314, R315). -/
def decodeCustom0V (f : Fields) : Decoded :=
  let d := regOf f.d; let a := regOf f.a; let b := regOf f.b
  let u := BitVec.ofNat 1 (f.f7 % 2); let t := BitVec.ofNat 3 f.f3; let e := BitVec.ofNat 5 f.b
  let u0 := f.f7 % 2 == 0
  let int := isIntType t; let flt := isFloatType t; let un := f.f3 == 7
  match f.f7 / 2 with
  | 0x00 => orIllegal (int && u0) (.ok (.vadd d a b t))
  | 0x01 => orIllegal (int && u0) (.ok (.vsub d a b t))
  | 0x02 => orIllegal (int && u0) (.ok (.vmul d a b t))
  | 0x03 => orIllegal int (.ok (.vmulh d a b u t))
  | 0x04 => orIllegal int (.ok (.vmac d a b u t))
  | 0x05 => orIllegal int (.ok (.vmin d a b u t))
  | 0x06 => orIllegal int (.ok (.vmax d a b u t))
  | 0x07 => orIllegal (int && u0) (orReserved (f.b == 0) (.vabs d a t))
  | 0x08 => orIllegal (un && u0) (.ok (.vand d a b))
  | 0x09 => orIllegal (un && u0) (.ok (.vor d a b))
  | 0x0A => orIllegal (un && u0) (.ok (.vxor d a b))
  | 0x0B => orIllegal (int && u0) (.ok (.vsll d a b t))
  | 0x0C => orIllegal (int && u0) (.ok (.vsrl d a b t))
  | 0x0D => orIllegal (int && u0) (.ok (.vsra d a b t))
  | 0x0E => orIllegal (!un && u0) (.ok (.vcmpEq d a b t))
  | 0x0F => orIllegal (!un && u0) (.ok (.vcmpNe d a b t))
  | 0x10 => orIllegal (typeUOk u t) (.ok (.vcmpLt d a b u t))
  | 0x11 => orIllegal (typeUOk u t) (.ok (.vcmpLe d a b u t))
  | 0x12 => orIllegal (flt && u0) (.ok (.vfadd d a b t))
  | 0x13 => orIllegal (flt && u0) (.ok (.vfsub d a b t))
  | 0x14 => orIllegal (flt && u0) (.ok (.vfmul d a b t))
  | 0x15 => orIllegal (flt && u0) (.ok (.vfma d a b t))
  | 0x16 => orIllegal (flt && u0) (.ok (.vfmin d a b t))
  | 0x17 => orIllegal (flt && u0) (.ok (.vfmax d a b t))
  | 0x18 => orIllegal (typeUOk u t) (.ok (.vdot d a b u t))
  | 0x19 => orIllegal (typeUOk u t) (orReserved (f.b == 0) (.vredsum d a u t))
  | 0x1A => orIllegal (typeUOk u t) (orReserved (f.b == 0) (.vredmax d a u t))
  | 0x1B => orIllegal (typeUOk u t) (orReserved (f.b == 0) (.vredmin d a u t))
  | 0x1C => orIllegal (flt && u0) (orReserved (f.b == 0) (.vrcp d a t))
  | 0x1D => orIllegal (flt && u0) (orReserved (f.b == 0) (.vrsqrt d a t))
  | 0x1E => orIllegal (flt && u0) (orReserved (f.b == 0) (.vexp2 d a t))
  | 0x1F => orIllegal (flt && u0) (orReserved (f.b == 0) (.vlog2 d a t))
  | 0x20 => orIllegal (flt && u0) (orReserved (f.b == 0) (.vtanh d a t))
  | 0x21 => orIllegal (flt && u0) (orReserved (f.b == 0) (.verf d a t))
  | 0x22 => orIllegal (int && u0) (.ok (.vperm d a b t))
  | 0x23 => orIllegal (int && u0) (.ok (.vzip d a b t))
  | 0x24 => orIllegal (int && u0) (.ok (.vunzip d a b t))
  | 0x25 => orIllegal (int && u0) (orReserved (f.b == 0) (.vbcast d a t))
  | 0x26 => orIllegal (int && u0 && e.toNat < intLanes t) (.ok (.vext d a e t))
  | 0x27 => orIllegal (int && u0 && e.toNat < intLanes t) (.ok (.vins d a e t))
  | 0x28 => orIllegal (un && u0) (orReserved (f.b == 0) (.vmv d a))
  | 0x29 => orIllegal (flt && isMxType e) (.ok (.vmxEnc d a u e t))
  | 0x2A => orIllegal (flt && isMxType e) (orReserved u0 (.vmxDec d a e t))
  | _ => .illegal

/-- custom-0 (R314): [31:30] = 11 is format V4, whose only operation is vsel. -/
def decodeCustom0 (f : Fields) : Decoded :=
  if f.f7 / 32 = 3 then
    orIllegal (isIntType (BitVec.ofNat 3 f.f3))
      (.ok (.vsel (regOf f.d) (regOf f.a) (regOf f.b) (BitVec.ofNat 5 (f.f7 % 32)) (BitVec.ofNat 3 f.f3)))
  else decodeCustom0V f

/-- custom-1 (R316, R317): the type pair chooses the instruction; selectors come before reserved fields (R309). -/
def decodeCustom1 (f : Fields) : Decoded :=
  let d := regOf f.d; let a := regOf f.a
  let t := BitVec.ofNat 5 (f.f7 / 4); let s := BitVec.ofNat 1 (f.f7 / 2 % 2); let u := BitVec.ofNat 5 f.b
  let m := BitVec.ofNat 3 f.f3
  let r0 := f.f7 % 2 == 0
  if f.f3 = 7 then .illegal
  else if f.f7 / 4 = 24 then
    orIllegal (8 ≤ u.toNat && u.toNat ≤ 10) (orReserved (r0 && f.f3 == 0) (.vtabEnc d a s u))
  else if f.b = 24 then
    orIllegal (t.toNat == 8 || t.toNat == 10) (orReserved (r0 && f.f3 == 0 && f.f7 / 2 % 2 == 0) (.vtabDec d a t))
  else orIllegal (isCvtType t && isCvtType u && t != u) (orReserved r0 (.vcvt d a t s u m))

/-- custom-2, group 001: amo.sc (R318, R354). -/
def decodeAmoSc (f : Fields) : Decoded :=
  let d := regOf f.d; let a := regOf f.a; let b := regOf f.b
  let u := BitVec.ofNat 1 (f.f7 / 2 % 2); let w := BitVec.ofNat 1 (f.f7 % 2); let u0 := f.f7 / 2 % 2 == 0
  match f.f7 / 4 with
  | 0 => orReserved u0 (.amoScSwap d a b w)
  | 1 => orReserved u0 (.amoScAdd d a b w)
  | 2 => .ok (.amoScMin d a b u w)
  | 3 => .ok (.amoScMax d a b u w)
  | 4 => orReserved u0 (.amoScCas d a b w)
  | _ => .illegal

/-- custom-2, group 010: fence.s and the taint instructions (R318, R356, R357). -/
def decodeTaint (f : Fields) : Decoded :=
  let d := regOf f.d; let a := regOf f.a
  let v := BitVec.ofNat 1 (f.f7 / 2 % 2); let w := BitVec.ofNat 1 (f.f7 % 2)
  match f.f7 / 4 with
  | 0 => orIllegal (f.a / 4 < 6 && f.a % 4 != 0)
      (orReserved (f.f7 % 4 == 0 && f.b == 0) (.fenceS d (BitVec.ofNat 3 (f.a / 4)) (BitVec.ofNat 2 (f.a % 4))))
  | 1 => orReserved (f.b == 0) (.depJoin d a v w)
  | 2 => orReserved (f.b == 0 && f.f7 % 2 == 0) (.depClr d a v)
  | 3 => orReserved (f.b == 0 && f.f7 / 2 % 2 == 0 && f.d == 0) (.depWait a w)
  | _ => .illegal

/-- custom-2 (R318). -/
def decodeCustom2 (f : Fields) : Decoded :=
  let d := regOf f.d; let a := regOf f.a; let b := regOf f.b
  match f.f3 with
  | 0 =>
    match f.f7 with
    | 0 => orReserved (f.b == 0) (.ldAcq d a)
    | 1 => orReserved (f.d == 0) (.sdRel a b)
    | _ => .illegal
  | 1 => decodeAmoSc f
  | 2 => decodeTaint f
  | 3 => .ok (.waitAddr d a b (BitVec.ofNat 7 f.f7))
  | 4 =>
    match f.f7 with
    | 0 => orReserved (f.d == 0) (.barInit a b)
    | 1 => orReserved (f.d == 0 && f.b == 0) (.barArrive a)
    | 2 => orReserved (f.d == 0 && f.b == 0) (.barWait a)
    | 3 => .ok (.waitAny d a b)
    | _ => .illegal
  | 5 =>
    match f.f7 with
    | 0 => .ok (.rdFwd d a b)
    | 1 => .ok (.rdCast d a b)
    | _ => .illegal
  | 6 =>
    match f.f7 with
    | 0 => orReserved (f.b == 0) (.peerErr d a)
    | 1 => orReserved (f.b == 0) (.peerId d a)
    | 2 => orReserved (f.b == 0 && f.d == 0) (.peerClr a)
    | 3 => orReserved (f.b == 0 && f.a == 0) (.tsGet d)
    | _ => .illegal
  | _ => .illegal

/-- custom-3, group 000: records, tasks and following (R319, R336). -/
def decodeControl (f : Fields) : Decoded :=
  let d := regOf f.d; let a := regOf f.a; let b := regOf f.b
  let d0 := f.d == 0; let a0 := f.a == 0; let b0 := f.b == 0
  match f.f7 with
  | 0 => orReserved (b0 && a0) (.widGet d)
  | 1 => .ok (.nodeCh d a b)
  | 2 => orReserved d0 (.callAt a b)
  | 3 => orReserved d0 (.msgWait a b)
  | 4 => orReserved (b0 && a0 && d0) .suspend
  | 5 => orReserved (b0 && a0 && d0) .yield
  | 6 => orReserved (b0 && a0 && d0) .exit
  | 7 => orReserved (b0 && d0) (.taskPush a)
  | 8 => orReserved (b0 && a0) (.taskPop d)
  | 9 => orReserved b0 (.taskSplit d a)
  | 10 => orReserved b0 (.taskSteal d a)
  | 11 => orReserved (b0 && a0) (.taskCnt d)
  | 12 => orReserved (b0 && d0) (.follow a)
  | 13 => orReserved (b0 && a0 && d0) .followEnd
  | _ => .illegal

/-- custom-3, group 001: the engines (R387). An odd v register in eng.push is 0x01 (R321). -/
def decodeEngine (f : Fields) : Decoded :=
  let d := regOf f.d; let a := regOf f.a; let b := regOf f.b; let i := BitVec.ofNat 5 f.b
  let d0 := f.d == 0; let a0 := f.a == 0; let b0 := f.b == 0
  match f.f7 with
  | 0 => orIllegal (f.a % 2 == 0) (orReserved (b0 && d0) (.engPush a))
  | 1 => orIllegal (f.b < 8 && f.b % 4 != 0) (orReserved (a0 && d0) (.engQfence i))
  | 2 => orIllegal (f.b < 2) (orReserved (a0 && d0) (.engWait i))
  | 3 => orIllegal (f.b < 2) (orReserved a0 (.engStat d i))
  | 4 => orReserved (b0 && d0) (.engSave a)
  | 5 => orReserved (b0 && d0) (.engResume a)
  | 6 => orIllegal (f.b < 8) (orReserved (a0 && d0) (.accTake i))
  | 7 => orIllegal (f.b < 8) (orReserved (a0 && d0) (.accGive i))
  | 8 => orReserved d0 (.shpLd a i)
  | 9 => orReserved d0 (.shpSt a i)
  | 10 => orReserved (a0 && d0) (.shpEvict i)
  | 11 => orReserved (b0 && d0) (.tblLd a)
  | 12 => orReserved b0 (.vaccLd d a)
  | 13 => orReserved d0 (.vaccSt a b)
  | _ => .illegal

/-- custom-3, group 010: the rank unit; the operation in [31:28], the stream in [27:25] (R319, R409). -/
def decodeRank (f : Fields) : Decoded :=
  let d := regOf f.d; let a := regOf f.a; let b := regOf f.b; let s := BitVec.ofNat 3 (f.f7 % 8)
  let d0 := f.d == 0; let a0 := f.a == 0; let b0 := f.b == 0; let s0 := f.f7 % 8 == 0
  match f.f7 / 8 with
  | 0 => orReserved (b0 && d0 && s0) (.rkCfg a)
  | 1 => orReserved (b0 && a0 && d0 && s0) .rkEnc
  | 2 => orReserved (d0 && s0) (.rkSend a b)
  | 3 => orReserved (b0 && a0 && d0) (.rkFold s)
  | 4 => orReserved (b0 && a0) (.rkStat d s)
  | 5 => orReserved (b0 && a0 && d0) (.rkDrain s)
  | 6 => orReserved d0 (.rkGrad a b s)
  | 7 => orReserved d0 (.rkWgrad a b s)
  | 8 => orReserved (b0 && d0) (.waveCfg a s)
  | 9 => orReserved (b0 && a0 && d0) (.waveCloseInstr s)
  | 10 => orReserved (b0 && a0 && d0) (.waveWait s)
  | _ => .illegal

/-- custom-3, group 101: streams and frep, chosen by [11:7] (R320). -/
def decodeStream (f : Fields) : Decoded :=
  let a := regOf f.a; let u := BitVec.ofNat 2 f.b
  let uz := f.f7 == 0 && f.b < 4
  match f.d with
  | 0 => orReserved uz (.strmCfg a u)
  | 1 => .ok (.frep a (BitVec.ofNat 4 (f.f7 / 8)) (BitVec.ofNat 4 (f.f7 % 8 * 2 + f.b / 16)) (BitVec.ofNat 4 (f.b % 16)))
  | 2 => orReserved (uz && f.a == 0) (.strmBind u)
  | 3 => orReserved (uz && f.a == 0) (.strmEnd u)
  | _ => .illegal

/-- A kernel-only instruction, or 0x02, which a task-mode thread set sees as 0x01 because privilege is checked first
(R308, R309). -/
def orReservedKernel (zero : Bool) (i : Instr) : Decoded := if zero then .ok i else .reserved true

/-- custom-3, groups 110 and 111: system and debug (R428). -/
def decodeSystemGroup (f : Fields) : Decoded :=
  let d := regOf f.d; let a := regOf f.a
  let d0 := f.d == 0; let a0 := f.a == 0; let b0 := f.b == 0
  match f.f3, f.f7 with
  | 6, 0 => orReservedKernel (b0 && a0 && d0) .trapRet
  | 6, 1 => orReservedKernel (b0 && d0) (.ctxSave a)
  | 6, 2 => orReservedKernel b0 (.ctxLoad d a)
  | 6, 3 => orReserved (b0 && d0) (.sleep a)
  | 6, 4 => orReservedKernel (b0 && a0 && d0) .icacheInv
  | 7, 0 => orReserved (b0 && d0) (.dbgMark a)
  | 7, 1 => orReserved (b0 && a0 && d0) .dbgStop
  | _, _ => .illegal

/-- custom-3 (R319). -/
def decodeCustom3 (f : Fields) : Decoded :=
  let d := regOf f.d; let a := regOf f.a; let b := regOf f.b
  let d0 := f.d == 0; let b0 := f.b == 0
  match f.f3 with
  | 0 => decodeControl f
  | 1 => decodeEngine f
  | 2 => decodeRank f
  | 3 =>
    match f.f7 with
    | 0 => orReserved (b0 && d0) (.trCfg a)
    | 1 => orReserved (b0 && d0) (.trDesc a)
    | 2 => orReserved b0 (.trPath d a)
    | 3 => .ok (.trBwd d a b)
    | _ => .illegal
  | 4 =>
    match f.f7 with
    | 0 => orReserved (b0 && d0) (.collGo a)
    | 1 => orReserved (b0 && d0) (.collWait a)
    | 2 => orReserved b0 (.collStat d a)
    | _ => .illegal
  | 5 => decodeStream f
  | _ => decodeSystemGroup f

/-- A 32-bit word, by its major opcode (R310). -/
def decodeFields (f : Fields) : Decoded :=
  match f.op with
  | 0x03 => decodeLoad f
  | 0x07 => decodeLoadFp f
  | 0x0B => decodeCustom0 f
  | 0x0F => decodeMiscMem f
  | 0x13 => decodeOpImm f
  | 0x17 => .ok (.auipc (regOf f.d) (immU f.f7 f.b f.a f.f3))
  | 0x1B => decodeOpImm32 f
  | 0x23 => decodeStore f
  | 0x27 => decodeStoreFp f
  | 0x2B => decodeCustom1 f
  | 0x2F => decodeAmo f
  | 0x33 => decodeOp f
  | 0x37 => .ok (.lui (regOf f.d) (immU f.f7 f.b f.a f.f3))
  | 0x3B => decodeOp32 f
  | 0x5B => decodeCustom2 f
  | 0x63 => decodeBranch f
  | 0x67 => if f.f3 = 0 then .ok (.jalr (regOf f.d) (regOf f.a) (imm12 f.f7 f.b)) else .illegal
  | 0x6F => .ok (.jal (regOf f.d) (immJ f.f7 f.b f.a f.f3))
  | 0x73 => decodeSystem f
  | 0x7B => decodeCustom3 f
  | _ => .illegal

/-- A 32-bit word (R307). -/
def decode32 (w : Nat) : Decoded := decodeFields (unpackFields w)

/-! The 16-bit encodings (R312): the RISC-V C extension for RV64 without its floating-point forms. `c` is the parcel; the
fields are those of the C chapter of the RISC-V specification. -/

/-- Register x8 to x15 of a 3-bit field. -/
def cReg (n : Nat) : Reg := BitVec.ofNat 5 (8 + n)

/-- A 12-bit immediate from a signed 6-bit field. -/
def cImm6 (c : Nat) : BitVec 12 := (BitVec.ofNat 6 (bitsAt c 12 1 * 32 + bitsAt c 2 5)).signExtend 12

/-- Bits [12:1] of the offset of c.beqz and c.bnez. -/
def cImmB (c : Nat) : BitVec 12 :=
  (BitVec.ofNat 8 (bitsAt c 12 1 * 128 + bitsAt c 5 2 * 32 + bitsAt c 2 1 * 16 + bitsAt c 10 2 * 4 + bitsAt c 3 2)).signExtend 12

/-- Bits [20:1] of the offset of c.j. -/
def cImmJ (c : Nat) : BitVec 20 :=
  (BitVec.ofNat 11 (bitsAt c 12 1 * 1024 + bitsAt c 8 1 * 512 + bitsAt c 9 2 * 128 + bitsAt c 6 1 * 64
    + bitsAt c 7 1 * 32 + bitsAt c 2 1 * 16 + bitsAt c 11 1 * 8 + bitsAt c 3 3)).signExtend 20

/-- Quadrant 00. -/
def expandC0 (c : Nat) : Option Instr :=
  let rd := cReg (bitsAt c 2 3); let r1 := cReg (bitsAt c 7 3)
  let w := BitVec.ofNat 12 (bitsAt c 5 1 * 64 + bitsAt c 10 3 * 8 + bitsAt c 6 1 * 4)
  let x := BitVec.ofNat 12 (bitsAt c 5 2 * 64 + bitsAt c 10 3 * 8)
  match bitsAt c 13 3 with
  | 0 =>
    let n := bitsAt c 7 4 * 64 + bitsAt c 11 2 * 16 + bitsAt c 5 1 * 8 + bitsAt c 6 1 * 4
    if n = 0 then none else some (.addi rd 2 (BitVec.ofNat 12 n))
  | 2 => some (.lw rd r1 w)
  | 3 => some (.ld rd r1 x)
  | 6 => some (.sw rd r1 w)
  | 7 => some (.sd rd r1 x)
  | _ => none

/-- Quadrant 01, the arithmetic group (funct3 100). -/
def expandC1Alu (c : Nat) : Option Instr :=
  let r := cReg (bitsAt c 7 3); let r2 := cReg (bitsAt c 2 3)
  let sh := BitVec.ofNat 6 (bitsAt c 12 1 * 32 + bitsAt c 2 5)
  match bitsAt c 10 2 with
  | 0 => some (.srli r r sh)
  | 1 => some (.srai r r sh)
  | 2 => some (.andi r r (cImm6 c))
  | _ =>
    match bitsAt c 12 1, bitsAt c 5 2 with
    | 0, 0 => some (.sub r r r2)
    | 0, 1 => some (.xor r r r2)
    | 0, 2 => some (.or r r r2)
    | 0, 3 => some (.and r r r2)
    | 1, 0 => some (.subw r r r2)
    | 1, 1 => some (.addw r r r2)
    | _, _ => none

/-- Quadrant 01. -/
def expandC1 (c : Nat) : Option Instr :=
  let rd := regOf (bitsAt c 7 5); let i := cImm6 c
  match bitsAt c 13 3 with
  | 0 => some (.addi rd rd i)
  | 1 => if bitsAt c 7 5 = 0 then none else some (.addiw rd rd i)
  | 2 => some (.addi rd 0 i)
  | 3 =>
    if bitsAt c 7 5 = 2 then
      let n := BitVec.ofNat 10 (bitsAt c 12 1 * 512 + bitsAt c 3 2 * 128 + bitsAt c 5 1 * 64 + bitsAt c 2 1 * 32 + bitsAt c 6 1 * 16)
      if n = 0 then none else some (.addi 2 2 (n.signExtend 12))
    else if i = 0 then none else some (.lui rd (i.signExtend 20))
  | 4 => expandC1Alu c
  | 5 => some (.jal 0 (cImmJ c))
  | 6 => some (.beq (cReg (bitsAt c 7 3)) 0 (cImmB c))
  | _ => some (.bne (cReg (bitsAt c 7 3)) 0 (cImmB c))

/-- Quadrant 10. -/
def expandC2 (c : Nat) : Option Instr :=
  let rd := regOf (bitsAt c 7 5); let r2 := regOf (bitsAt c 2 5)
  match bitsAt c 13 3 with
  | 0 => some (.slli rd rd (BitVec.ofNat 6 (bitsAt c 12 1 * 32 + bitsAt c 2 5)))
  | 2 =>
    if bitsAt c 7 5 = 0 then none
    else some (.lw rd 2 (BitVec.ofNat 12 (bitsAt c 2 2 * 64 + bitsAt c 12 1 * 32 + bitsAt c 4 3 * 4)))
  | 3 =>
    if bitsAt c 7 5 = 0 then none
    else some (.ld rd 2 (BitVec.ofNat 12 (bitsAt c 2 3 * 64 + bitsAt c 12 1 * 32 + bitsAt c 5 2 * 8)))
  | 4 =>
    match bitsAt c 12 1, bitsAt c 7 5, bitsAt c 2 5 with
    | 0, 0, 0 => none
    | 0, _, 0 => some (.jalr 0 rd 0)
    | 0, _, _ => some (.add rd 0 r2)
    | _, 0, 0 => some .ebreak
    | _, _, 0 => some (.jalr 1 rd 0)
    | _, _, _ => some (.add rd rd r2)
  | 6 => some (.sw r2 2 (BitVec.ofNat 12 (bitsAt c 7 2 * 64 + bitsAt c 9 4 * 4)))
  | 7 => some (.sd r2 2 (BitVec.ofNat 12 (bitsAt c 7 3 * 64 + bitsAt c 10 3 * 8)))
  | _ => none

/-- The 32-bit instruction that a 16-bit parcel expands to, or none where the encoding is reserved, floating-point or the
all-zero parcel (R312). -/
def expandCompressed (p : BitVec 16) : Option Instr :=
  match p.toNat % 4 with
  | 0 => expandC0 p.toNat
  | 1 => expandC1 p.toNat
  | 2 => expandC2 p.toNat
  | _ => none

/-- A complete 16-bit instruction (R312). -/
def decode16 (p : BitVec 16) : Decoded :=
  match expandCompressed p with
  | some _ => .ok (.compressedInstruction p)
  | none => .illegal

/-- How long the instruction that starts with this parcel is, in bytes (R307): 2, or 4. A parcel with bits [4:2] = 111 and
[1:0] = 11 would begin a longer one: none. -/
def parcelLength (p : Nat) : Option Nat :=
  if p % 4 != 3 then some 2 else if p / 4 % 8 == 7 then none else some 4

/-- The parcel in the first two bytes, little-endian (R7, R307). -/
def parcelOf (b0 b1 : Byte) : Nat := b0.toNat + 256 * b1.toNat

/-- An instruction from the bytes at the pc, and the bytes after it; none where the bytes end too early (R307). -/
def decodeBytes : List Byte → Option (Decoded × Nat × List Byte)
  | b0 :: b1 :: rest =>
    match parcelLength (parcelOf b0 b1) with
    | some 2 => some (decode16 (BitVec.ofNat 16 (parcelOf b0 b1)), 2, rest)
    | some _ =>
      match rest with
      | b2 :: b3 :: rest' => some (decode32 (parcelOf b0 b1 + 65536 * parcelOf b2 b3), 4, rest')
      | _ => none
    | none => some (.illegal, 2, rest)
  | _ => none

/-- The fields of the word of a 32-bit instruction, from the encoding tables; an event and a 16-bit form have none. -/
def encodeFields : Instr → Option Fields
  | .lui d i => some ⟨i.toNat / 8192, i.toNat / 256 % 32, i.toNat / 8 % 32, i.toNat % 8, d.toNat, 55⟩
  | .auipc d i => some ⟨i.toNat / 8192, i.toNat / 256 % 32, i.toNat / 8 % 32, i.toNat % 8, d.toNat, 23⟩
  | .jal d i => some ⟨i.toNat / 524288 * 64 + i.toNat / 16 % 64, i.toNat % 16 * 2 + i.toNat / 1024 % 2, i.toNat / 16384 % 32, i.toNat / 2048 % 8, d.toNat, 111⟩
  | .jalr d a i => some ⟨i.toNat / 32, i.toNat % 32, a.toNat, 0, d.toNat, 103⟩
  | .beq a b i => some ⟨i.toNat / 2048 * 64 + i.toNat / 16 % 64, b.toNat, a.toNat, 0, i.toNat % 16 * 2 + i.toNat / 1024 % 2, 99⟩
  | .bne a b i => some ⟨i.toNat / 2048 * 64 + i.toNat / 16 % 64, b.toNat, a.toNat, 1, i.toNat % 16 * 2 + i.toNat / 1024 % 2, 99⟩
  | .blt a b i => some ⟨i.toNat / 2048 * 64 + i.toNat / 16 % 64, b.toNat, a.toNat, 4, i.toNat % 16 * 2 + i.toNat / 1024 % 2, 99⟩
  | .bge a b i => some ⟨i.toNat / 2048 * 64 + i.toNat / 16 % 64, b.toNat, a.toNat, 5, i.toNat % 16 * 2 + i.toNat / 1024 % 2, 99⟩
  | .bltu a b i => some ⟨i.toNat / 2048 * 64 + i.toNat / 16 % 64, b.toNat, a.toNat, 6, i.toNat % 16 * 2 + i.toNat / 1024 % 2, 99⟩
  | .bgeu a b i => some ⟨i.toNat / 2048 * 64 + i.toNat / 16 % 64, b.toNat, a.toNat, 7, i.toNat % 16 * 2 + i.toNat / 1024 % 2, 99⟩
  | .lb d a i => some ⟨i.toNat / 32, i.toNat % 32, a.toNat, 0, d.toNat, 3⟩
  | .lh d a i => some ⟨i.toNat / 32, i.toNat % 32, a.toNat, 1, d.toNat, 3⟩
  | .lw d a i => some ⟨i.toNat / 32, i.toNat % 32, a.toNat, 2, d.toNat, 3⟩
  | .ld d a i => some ⟨i.toNat / 32, i.toNat % 32, a.toNat, 3, d.toNat, 3⟩
  | .lbu d a i => some ⟨i.toNat / 32, i.toNat % 32, a.toNat, 4, d.toNat, 3⟩
  | .lhu d a i => some ⟨i.toNat / 32, i.toNat % 32, a.toNat, 5, d.toNat, 3⟩
  | .lwu d a i => some ⟨i.toNat / 32, i.toNat % 32, a.toNat, 6, d.toNat, 3⟩
  | .sb b a i => some ⟨i.toNat / 32, b.toNat, a.toNat, 0, i.toNat % 32, 35⟩
  | .sh b a i => some ⟨i.toNat / 32, b.toNat, a.toNat, 1, i.toNat % 32, 35⟩
  | .sw b a i => some ⟨i.toNat / 32, b.toNat, a.toNat, 2, i.toNat % 32, 35⟩
  | .sd b a i => some ⟨i.toNat / 32, b.toNat, a.toNat, 3, i.toNat % 32, 35⟩
  | .fence d a m p s => some ⟨m.toNat * 8 + p.toNat / 2, p.toNat % 2 * 16 + s.toNat, a.toNat, 0, d.toNat, 15⟩
  | .fenceTso d a => some ⟨65, 19, a.toNat, 0, d.toNat, 15⟩
  | .addi d a i => some ⟨i.toNat / 32, i.toNat % 32, a.toNat, 0, d.toNat, 19⟩
  | .slti d a i => some ⟨i.toNat / 32, i.toNat % 32, a.toNat, 2, d.toNat, 19⟩
  | .sltiu d a i => some ⟨i.toNat / 32, i.toNat % 32, a.toNat, 3, d.toNat, 19⟩
  | .xori d a i => some ⟨i.toNat / 32, i.toNat % 32, a.toNat, 4, d.toNat, 19⟩
  | .ori d a i => some ⟨i.toNat / 32, i.toNat % 32, a.toNat, 6, d.toNat, 19⟩
  | .andi d a i => some ⟨i.toNat / 32, i.toNat % 32, a.toNat, 7, d.toNat, 19⟩
  | .slli d a s => some ⟨s.toNat / 32, s.toNat % 32, a.toNat, 1, d.toNat, 19⟩
  | .srli d a s => some ⟨s.toNat / 32, s.toNat % 32, a.toNat, 5, d.toNat, 19⟩
  | .srai d a s => some ⟨32 + s.toNat / 32, s.toNat % 32, a.toNat, 5, d.toNat, 19⟩
  | .clz d a => some ⟨48, 0, a.toNat, 1, d.toNat, 19⟩
  | .ctz d a => some ⟨48, 1, a.toNat, 1, d.toNat, 19⟩
  | .cpop d a => some ⟨48, 2, a.toNat, 1, d.toNat, 19⟩
  | .sextB d a => some ⟨48, 4, a.toNat, 1, d.toNat, 19⟩
  | .sextH d a => some ⟨48, 5, a.toNat, 1, d.toNat, 19⟩
  | .rori d a s => some ⟨48 + s.toNat / 32, s.toNat % 32, a.toNat, 5, d.toNat, 19⟩
  | .orcB d a => some ⟨20, 7, a.toNat, 5, d.toNat, 19⟩
  | .rev8 d a => some ⟨53, 24, a.toNat, 5, d.toNat, 19⟩
  | .addiw d a i => some ⟨i.toNat / 32, i.toNat % 32, a.toNat, 0, d.toNat, 27⟩
  | .slliw d a s => some ⟨0, s.toNat, a.toNat, 1, d.toNat, 27⟩
  | .slliUw d a s => some ⟨4 + s.toNat / 32, s.toNat % 32, a.toNat, 1, d.toNat, 27⟩
  | .srliw d a s => some ⟨0, s.toNat, a.toNat, 5, d.toNat, 27⟩
  | .sraiw d a s => some ⟨32, s.toNat, a.toNat, 5, d.toNat, 27⟩
  | .roriw d a s => some ⟨48, s.toNat, a.toNat, 5, d.toNat, 27⟩
  | .clzw d a => some ⟨48, 0, a.toNat, 1, d.toNat, 27⟩
  | .ctzw d a => some ⟨48, 1, a.toNat, 1, d.toNat, 27⟩
  | .cpopw d a => some ⟨48, 2, a.toNat, 1, d.toNat, 27⟩
  | .add d a b => some ⟨0, b.toNat, a.toNat, 0, d.toNat, 51⟩
  | .sll d a b => some ⟨0, b.toNat, a.toNat, 1, d.toNat, 51⟩
  | .slt d a b => some ⟨0, b.toNat, a.toNat, 2, d.toNat, 51⟩
  | .sltu d a b => some ⟨0, b.toNat, a.toNat, 3, d.toNat, 51⟩
  | .xor d a b => some ⟨0, b.toNat, a.toNat, 4, d.toNat, 51⟩
  | .srl d a b => some ⟨0, b.toNat, a.toNat, 5, d.toNat, 51⟩
  | .or d a b => some ⟨0, b.toNat, a.toNat, 6, d.toNat, 51⟩
  | .and d a b => some ⟨0, b.toNat, a.toNat, 7, d.toNat, 51⟩
  | .sub d a b => some ⟨32, b.toNat, a.toNat, 0, d.toNat, 51⟩
  | .sra d a b => some ⟨32, b.toNat, a.toNat, 5, d.toNat, 51⟩
  | .andn d a b => some ⟨32, b.toNat, a.toNat, 7, d.toNat, 51⟩
  | .orn d a b => some ⟨32, b.toNat, a.toNat, 6, d.toNat, 51⟩
  | .xnor d a b => some ⟨32, b.toNat, a.toNat, 4, d.toNat, 51⟩
  | .mul d a b => some ⟨1, b.toNat, a.toNat, 0, d.toNat, 51⟩
  | .mulh d a b => some ⟨1, b.toNat, a.toNat, 1, d.toNat, 51⟩
  | .mulhsu d a b => some ⟨1, b.toNat, a.toNat, 2, d.toNat, 51⟩
  | .mulhu d a b => some ⟨1, b.toNat, a.toNat, 3, d.toNat, 51⟩
  | .div d a b => some ⟨1, b.toNat, a.toNat, 4, d.toNat, 51⟩
  | .divu d a b => some ⟨1, b.toNat, a.toNat, 5, d.toNat, 51⟩
  | .rem d a b => some ⟨1, b.toNat, a.toNat, 6, d.toNat, 51⟩
  | .remu d a b => some ⟨1, b.toNat, a.toNat, 7, d.toNat, 51⟩
  | .sh1add d a b => some ⟨16, b.toNat, a.toNat, 2, d.toNat, 51⟩
  | .sh2add d a b => some ⟨16, b.toNat, a.toNat, 4, d.toNat, 51⟩
  | .sh3add d a b => some ⟨16, b.toNat, a.toNat, 6, d.toNat, 51⟩
  | .min d a b => some ⟨5, b.toNat, a.toNat, 4, d.toNat, 51⟩
  | .minu d a b => some ⟨5, b.toNat, a.toNat, 5, d.toNat, 51⟩
  | .max d a b => some ⟨5, b.toNat, a.toNat, 6, d.toNat, 51⟩
  | .maxu d a b => some ⟨5, b.toNat, a.toNat, 7, d.toNat, 51⟩
  | .rol d a b => some ⟨48, b.toNat, a.toNat, 1, d.toNat, 51⟩
  | .ror d a b => some ⟨48, b.toNat, a.toNat, 5, d.toNat, 51⟩
  | .addw d a b => some ⟨0, b.toNat, a.toNat, 0, d.toNat, 59⟩
  | .sllw d a b => some ⟨0, b.toNat, a.toNat, 1, d.toNat, 59⟩
  | .srlw d a b => some ⟨0, b.toNat, a.toNat, 5, d.toNat, 59⟩
  | .subw d a b => some ⟨32, b.toNat, a.toNat, 0, d.toNat, 59⟩
  | .sraw d a b => some ⟨32, b.toNat, a.toNat, 5, d.toNat, 59⟩
  | .mulw d a b => some ⟨1, b.toNat, a.toNat, 0, d.toNat, 59⟩
  | .divw d a b => some ⟨1, b.toNat, a.toNat, 4, d.toNat, 59⟩
  | .divuw d a b => some ⟨1, b.toNat, a.toNat, 5, d.toNat, 59⟩
  | .remw d a b => some ⟨1, b.toNat, a.toNat, 6, d.toNat, 59⟩
  | .remuw d a b => some ⟨1, b.toNat, a.toNat, 7, d.toNat, 59⟩
  | .addUw d a b => some ⟨4, b.toNat, a.toNat, 0, d.toNat, 59⟩
  | .zextH d a => some ⟨4, 0, a.toNat, 4, d.toNat, 59⟩
  | .sh1addUw d a b => some ⟨16, b.toNat, a.toNat, 2, d.toNat, 59⟩
  | .sh2addUw d a b => some ⟨16, b.toNat, a.toNat, 4, d.toNat, 59⟩
  | .sh3addUw d a b => some ⟨16, b.toNat, a.toNat, 6, d.toNat, 59⟩
  | .rolw d a b => some ⟨48, b.toNat, a.toNat, 1, d.toNat, 59⟩
  | .rorw d a b => some ⟨48, b.toNat, a.toNat, 5, d.toNat, 59⟩
  | .amoaddW d a b q l => some ⟨q.toNat * 2 + l.toNat, b.toNat, a.toNat, 2, d.toNat, 47⟩
  | .amoaddD d a b q l => some ⟨q.toNat * 2 + l.toNat, b.toNat, a.toNat, 3, d.toNat, 47⟩
  | .amoswapW d a b q l => some ⟨4 + q.toNat * 2 + l.toNat, b.toNat, a.toNat, 2, d.toNat, 47⟩
  | .amoswapD d a b q l => some ⟨4 + q.toNat * 2 + l.toNat, b.toNat, a.toNat, 3, d.toNat, 47⟩
  | .amoxorW d a b q l => some ⟨16 + q.toNat * 2 + l.toNat, b.toNat, a.toNat, 2, d.toNat, 47⟩
  | .amoxorD d a b q l => some ⟨16 + q.toNat * 2 + l.toNat, b.toNat, a.toNat, 3, d.toNat, 47⟩
  | .amoorW d a b q l => some ⟨32 + q.toNat * 2 + l.toNat, b.toNat, a.toNat, 2, d.toNat, 47⟩
  | .amoorD d a b q l => some ⟨32 + q.toNat * 2 + l.toNat, b.toNat, a.toNat, 3, d.toNat, 47⟩
  | .amoandW d a b q l => some ⟨48 + q.toNat * 2 + l.toNat, b.toNat, a.toNat, 2, d.toNat, 47⟩
  | .amoandD d a b q l => some ⟨48 + q.toNat * 2 + l.toNat, b.toNat, a.toNat, 3, d.toNat, 47⟩
  | .amominW d a b q l => some ⟨64 + q.toNat * 2 + l.toNat, b.toNat, a.toNat, 2, d.toNat, 47⟩
  | .amominD d a b q l => some ⟨64 + q.toNat * 2 + l.toNat, b.toNat, a.toNat, 3, d.toNat, 47⟩
  | .amomaxW d a b q l => some ⟨80 + q.toNat * 2 + l.toNat, b.toNat, a.toNat, 2, d.toNat, 47⟩
  | .amomaxD d a b q l => some ⟨80 + q.toNat * 2 + l.toNat, b.toNat, a.toNat, 3, d.toNat, 47⟩
  | .amominuW d a b q l => some ⟨96 + q.toNat * 2 + l.toNat, b.toNat, a.toNat, 2, d.toNat, 47⟩
  | .amominuD d a b q l => some ⟨96 + q.toNat * 2 + l.toNat, b.toNat, a.toNat, 3, d.toNat, 47⟩
  | .amomaxuW d a b q l => some ⟨112 + q.toNat * 2 + l.toNat, b.toNat, a.toNat, 2, d.toNat, 47⟩
  | .amomaxuD d a b q l => some ⟨112 + q.toNat * 2 + l.toNat, b.toNat, a.toNat, 3, d.toNat, 47⟩
  | .ecall => some ⟨0, 0, 0, 0, 0, 115⟩
  | .ebreak => some ⟨0, 1, 0, 0, 0, 115⟩
  | .csrrw d a c => some ⟨c.toNat / 32, c.toNat % 32, a.toNat, 1, d.toNat, 115⟩
  | .csrrs d a c => some ⟨c.toNat / 32, c.toNat % 32, a.toNat, 2, d.toNat, 115⟩
  | .csrrc d a c => some ⟨c.toNat / 32, c.toNat % 32, a.toNat, 3, d.toNat, 115⟩
  | .csrrwi d c u => some ⟨c.toNat / 32, c.toNat % 32, u.toNat, 5, d.toNat, 115⟩
  | .csrrsi d c u => some ⟨c.toNat / 32, c.toNat % 32, u.toNat, 6, d.toNat, 115⟩
  | .csrrci d c u => some ⟨c.toNat / 32, c.toNat % 32, u.toNat, 7, d.toNat, 115⟩
  | .vl d a i => some ⟨i.toNat / 32, i.toNat % 32, a.toNat, 4, d.toNat, 7⟩
  | .vlTr d a z s => some ⟨z.toNat * 32 + s.toNat / 32, s.toNat % 32, a.toNat, 5, d.toNat, 7⟩
  | .vs b a i => some ⟨i.toNat / 32, b.toNat, a.toNat, 4, i.toNat % 32, 39⟩
  | .vadd d a b t => some ⟨0, b.toNat, a.toNat, t.toNat, d.toNat, 11⟩
  | .vsub d a b t => some ⟨2, b.toNat, a.toNat, t.toNat, d.toNat, 11⟩
  | .vmul d a b t => some ⟨4, b.toNat, a.toNat, t.toNat, d.toNat, 11⟩
  | .vmulh d a b u t => some ⟨6 + u.toNat, b.toNat, a.toNat, t.toNat, d.toNat, 11⟩
  | .vmac d a b u t => some ⟨8 + u.toNat, b.toNat, a.toNat, t.toNat, d.toNat, 11⟩
  | .vmin d a b u t => some ⟨10 + u.toNat, b.toNat, a.toNat, t.toNat, d.toNat, 11⟩
  | .vmax d a b u t => some ⟨12 + u.toNat, b.toNat, a.toNat, t.toNat, d.toNat, 11⟩
  | .vabs d a t => some ⟨14, 0, a.toNat, t.toNat, d.toNat, 11⟩
  | .vand d a b => some ⟨16, b.toNat, a.toNat, 7, d.toNat, 11⟩
  | .vor d a b => some ⟨18, b.toNat, a.toNat, 7, d.toNat, 11⟩
  | .vxor d a b => some ⟨20, b.toNat, a.toNat, 7, d.toNat, 11⟩
  | .vsll d a b t => some ⟨22, b.toNat, a.toNat, t.toNat, d.toNat, 11⟩
  | .vsrl d a b t => some ⟨24, b.toNat, a.toNat, t.toNat, d.toNat, 11⟩
  | .vsra d a b t => some ⟨26, b.toNat, a.toNat, t.toNat, d.toNat, 11⟩
  | .vcmpEq d a b t => some ⟨28, b.toNat, a.toNat, t.toNat, d.toNat, 11⟩
  | .vcmpNe d a b t => some ⟨30, b.toNat, a.toNat, t.toNat, d.toNat, 11⟩
  | .vcmpLt d a b u t => some ⟨32 + u.toNat, b.toNat, a.toNat, t.toNat, d.toNat, 11⟩
  | .vcmpLe d a b u t => some ⟨34 + u.toNat, b.toNat, a.toNat, t.toNat, d.toNat, 11⟩
  | .vfadd d a b t => some ⟨36, b.toNat, a.toNat, t.toNat, d.toNat, 11⟩
  | .vfsub d a b t => some ⟨38, b.toNat, a.toNat, t.toNat, d.toNat, 11⟩
  | .vfmul d a b t => some ⟨40, b.toNat, a.toNat, t.toNat, d.toNat, 11⟩
  | .vfma d a b t => some ⟨42, b.toNat, a.toNat, t.toNat, d.toNat, 11⟩
  | .vfmin d a b t => some ⟨44, b.toNat, a.toNat, t.toNat, d.toNat, 11⟩
  | .vfmax d a b t => some ⟨46, b.toNat, a.toNat, t.toNat, d.toNat, 11⟩
  | .vdot d a b u t => some ⟨48 + u.toNat, b.toNat, a.toNat, t.toNat, d.toNat, 11⟩
  | .vredsum d a u t => some ⟨50 + u.toNat, 0, a.toNat, t.toNat, d.toNat, 11⟩
  | .vredmax d a u t => some ⟨52 + u.toNat, 0, a.toNat, t.toNat, d.toNat, 11⟩
  | .vredmin d a u t => some ⟨54 + u.toNat, 0, a.toNat, t.toNat, d.toNat, 11⟩
  | .vrcp d a t => some ⟨56, 0, a.toNat, t.toNat, d.toNat, 11⟩
  | .vrsqrt d a t => some ⟨58, 0, a.toNat, t.toNat, d.toNat, 11⟩
  | .vexp2 d a t => some ⟨60, 0, a.toNat, t.toNat, d.toNat, 11⟩
  | .vlog2 d a t => some ⟨62, 0, a.toNat, t.toNat, d.toNat, 11⟩
  | .vtanh d a t => some ⟨64, 0, a.toNat, t.toNat, d.toNat, 11⟩
  | .verf d a t => some ⟨66, 0, a.toNat, t.toNat, d.toNat, 11⟩
  | .vperm d a b t => some ⟨68, b.toNat, a.toNat, t.toNat, d.toNat, 11⟩
  | .vzip d a b t => some ⟨70, b.toNat, a.toNat, t.toNat, d.toNat, 11⟩
  | .vunzip d a b t => some ⟨72, b.toNat, a.toNat, t.toNat, d.toNat, 11⟩
  | .vbcast d a t => some ⟨74, 0, a.toNat, t.toNat, d.toNat, 11⟩
  | .vext d a i t => some ⟨76, i.toNat, a.toNat, t.toNat, d.toNat, 11⟩
  | .vins d a i t => some ⟨78, i.toNat, a.toNat, t.toNat, d.toNat, 11⟩
  | .vmv d a => some ⟨80, 0, a.toNat, 7, d.toNat, 11⟩
  | .vmxEnc d a s e t => some ⟨82 + s.toNat, e.toNat, a.toNat, t.toNat, d.toNat, 11⟩
  | .vmxDec d a e t => some ⟨84, e.toNat, a.toNat, t.toNat, d.toNat, 11⟩
  | .vsel d a b c t => some ⟨96 + c.toNat, b.toNat, a.toNat, t.toNat, d.toNat, 11⟩
  | .vcvt d a t s u m => some ⟨t.toNat * 4 + s.toNat * 2, u.toNat, a.toNat, m.toNat, d.toNat, 43⟩
  | .vtabEnc d a s u => some ⟨96 + s.toNat * 2, u.toNat, a.toNat, 0, d.toNat, 43⟩
  | .vtabDec d a t => some ⟨t.toNat * 4, 24, a.toNat, 0, d.toNat, 43⟩
  | .ldAcq d a => some ⟨0, 0, a.toNat, 0, d.toNat, 91⟩
  | .sdRel a b => some ⟨1, b.toNat, a.toNat, 0, 0, 91⟩
  | .amoScSwap d a b w => some ⟨w.toNat, b.toNat, a.toNat, 1, d.toNat, 91⟩
  | .amoScAdd d a b w => some ⟨4 + w.toNat, b.toNat, a.toNat, 1, d.toNat, 91⟩
  | .amoScMin d a b u w => some ⟨8 + u.toNat * 2 + w.toNat, b.toNat, a.toNat, 1, d.toNat, 91⟩
  | .amoScMax d a b u w => some ⟨12 + u.toNat * 2 + w.toNat, b.toNat, a.toNat, 1, d.toNat, 91⟩
  | .amoScCas d a b w => some ⟨16 + w.toNat, b.toNat, a.toNat, 1, d.toNat, 91⟩
  | .fenceS d s k => some ⟨0, 0, s.toNat * 4 + k.toNat, 2, d.toNat, 91⟩
  | .depJoin d a v w => some ⟨4 + v.toNat * 2 + w.toNat, 0, a.toNat, 2, d.toNat, 91⟩
  | .depClr d a v => some ⟨8 + v.toNat * 2, 0, a.toNat, 2, d.toNat, 91⟩
  | .depWait a w => some ⟨12 + w.toNat, 0, a.toNat, 2, 0, 91⟩
  | .waitAddr d a b o => some ⟨o.toNat, b.toNat, a.toNat, 3, d.toNat, 91⟩
  | .barInit a b => some ⟨0, b.toNat, a.toNat, 4, 0, 91⟩
  | .barArrive a => some ⟨1, 0, a.toNat, 4, 0, 91⟩
  | .barWait a => some ⟨2, 0, a.toNat, 4, 0, 91⟩
  | .waitAny d a b => some ⟨3, b.toNat, a.toNat, 4, d.toNat, 91⟩
  | .rdFwd d a b => some ⟨0, b.toNat, a.toNat, 5, d.toNat, 91⟩
  | .rdCast d a b => some ⟨1, b.toNat, a.toNat, 5, d.toNat, 91⟩
  | .peerErr d a => some ⟨0, 0, a.toNat, 6, d.toNat, 91⟩
  | .peerId d a => some ⟨1, 0, a.toNat, 6, d.toNat, 91⟩
  | .peerClr a => some ⟨2, 0, a.toNat, 6, 0, 91⟩
  | .tsGet d => some ⟨3, 0, 0, 6, d.toNat, 91⟩
  | .widGet d => some ⟨0, 0, 0, 0, d.toNat, 123⟩
  | .nodeCh d a b => some ⟨1, b.toNat, a.toNat, 0, d.toNat, 123⟩
  | .callAt a b => some ⟨2, b.toNat, a.toNat, 0, 0, 123⟩
  | .msgWait a b => some ⟨3, b.toNat, a.toNat, 0, 0, 123⟩
  | .suspend => some ⟨4, 0, 0, 0, 0, 123⟩
  | .yield => some ⟨5, 0, 0, 0, 0, 123⟩
  | .exit => some ⟨6, 0, 0, 0, 0, 123⟩
  | .taskPush a => some ⟨7, 0, a.toNat, 0, 0, 123⟩
  | .taskPop d => some ⟨8, 0, 0, 0, d.toNat, 123⟩
  | .taskSplit d a => some ⟨9, 0, a.toNat, 0, d.toNat, 123⟩
  | .taskSteal d a => some ⟨10, 0, a.toNat, 0, d.toNat, 123⟩
  | .taskCnt d => some ⟨11, 0, 0, 0, d.toNat, 123⟩
  | .follow a => some ⟨12, 0, a.toNat, 0, 0, 123⟩
  | .followEnd => some ⟨13, 0, 0, 0, 0, 123⟩
  | .engPush a => some ⟨0, 0, a.toNat, 1, 0, 123⟩
  | .engQfence i => some ⟨1, i.toNat, 0, 1, 0, 123⟩
  | .engWait i => some ⟨2, i.toNat, 0, 1, 0, 123⟩
  | .engStat d i => some ⟨3, i.toNat, 0, 1, d.toNat, 123⟩
  | .engSave a => some ⟨4, 0, a.toNat, 1, 0, 123⟩
  | .engResume a => some ⟨5, 0, a.toNat, 1, 0, 123⟩
  | .accTake i => some ⟨6, i.toNat, 0, 1, 0, 123⟩
  | .accGive i => some ⟨7, i.toNat, 0, 1, 0, 123⟩
  | .shpLd a i => some ⟨8, i.toNat, a.toNat, 1, 0, 123⟩
  | .shpSt a i => some ⟨9, i.toNat, a.toNat, 1, 0, 123⟩
  | .shpEvict i => some ⟨10, i.toNat, 0, 1, 0, 123⟩
  | .tblLd a => some ⟨11, 0, a.toNat, 1, 0, 123⟩
  | .vaccLd d a => some ⟨12, 0, a.toNat, 1, d.toNat, 123⟩
  | .vaccSt a b => some ⟨13, b.toNat, a.toNat, 1, 0, 123⟩
  | .rkCfg a => some ⟨0, 0, a.toNat, 2, 0, 123⟩
  | .rkEnc => some ⟨8, 0, 0, 2, 0, 123⟩
  | .rkSend a b => some ⟨16, b.toNat, a.toNat, 2, 0, 123⟩
  | .rkFold s => some ⟨24 + s.toNat, 0, 0, 2, 0, 123⟩
  | .rkStat d s => some ⟨32 + s.toNat, 0, 0, 2, d.toNat, 123⟩
  | .rkDrain s => some ⟨40 + s.toNat, 0, 0, 2, 0, 123⟩
  | .rkGrad a b s => some ⟨48 + s.toNat, b.toNat, a.toNat, 2, 0, 123⟩
  | .rkWgrad a b s => some ⟨56 + s.toNat, b.toNat, a.toNat, 2, 0, 123⟩
  | .waveCfg a s => some ⟨64 + s.toNat, 0, a.toNat, 2, 0, 123⟩
  | .waveCloseInstr s => some ⟨72 + s.toNat, 0, 0, 2, 0, 123⟩
  | .waveWait s => some ⟨80 + s.toNat, 0, 0, 2, 0, 123⟩
  | .trCfg a => some ⟨0, 0, a.toNat, 3, 0, 123⟩
  | .trDesc a => some ⟨1, 0, a.toNat, 3, 0, 123⟩
  | .trPath d a => some ⟨2, 0, a.toNat, 3, d.toNat, 123⟩
  | .trBwd d a b => some ⟨3, b.toNat, a.toNat, 3, d.toNat, 123⟩
  | .collGo a => some ⟨0, 0, a.toNat, 4, 0, 123⟩
  | .collWait a => some ⟨1, 0, a.toNat, 4, 0, 123⟩
  | .collStat d a => some ⟨2, 0, a.toNat, 4, d.toNat, 123⟩
  | .strmCfg a u => some ⟨0, u.toNat, a.toNat, 5, 0, 123⟩
  | .frep a l m n => some ⟨l.toNat * 8 + m.toNat / 2, m.toNat % 2 * 16 + n.toNat, a.toNat, 5, 1, 123⟩
  | .strmBind u => some ⟨0, u.toNat, 0, 5, 2, 123⟩
  | .strmEnd u => some ⟨0, u.toNat, 0, 5, 3, 123⟩
  | .trapRet => some ⟨0, 0, 0, 6, 0, 123⟩
  | .ctxSave a => some ⟨1, 0, a.toNat, 6, 0, 123⟩
  | .ctxLoad d a => some ⟨2, 0, a.toNat, 6, d.toNat, 123⟩
  | .sleep a => some ⟨3, 0, a.toNat, 6, 0, 123⟩
  | .icacheInv => some ⟨4, 0, 0, 6, 0, 123⟩
  | .dbgMark a => some ⟨0, 0, a.toNat, 7, 0, 123⟩
  | .dbgStop => some ⟨1, 0, 0, 7, 0, 123⟩
  | .matins
  | .firmwareRecoveryImage
  | .attestationRequest
  | .attestationQueuedServe
  | .powerSample
  | .monitorRefresh
  | .mdroopRead
  | .registerWrite
  | .flitBoundary
  | .packetReceive
  | .flitCrcError
  | .allowanceReturn
  | .allowanceReturnSend
  | .allowanceReturnTimeout
  | .stripeChange
  | .replayRequest
  | .acknowledge
  | .modeChange
  | .identity
  | .unknownControlFlit
  | .laneMarginFailure
  | .trainingComplete
  | .trainingFail
  | .retrainComplete
  | .retrainFail
  | .signalLost
  | .announceDarkEnter
  | .signalReturn
  | .darkTimerExpiry
  | .relockComplete
  | .relockFail
  | .lnkCmdPark
  | .lnkCmdWake
  | .lnkCmdRetrainPam4
  | .lnkCmdForceNrz
  | .lnkCmdAnnounceDark
  | .lnkCmdReserved
  | .lnkEnSet
  | .lnkEnClear
  | .idleParkExpiry
  | .wakeDepthTrigger
  | .wakeStripeChange
  | .gridCapture
  | .packetInject
  | .routePacket
  | .deadlockEscape
  | .sequencedPacketArrival
  | .retryResend
  | .read
  | .write
  | .atomic
  | .readData
  | .writeAcknowledge
  | .atomicResult
  | .peerTimeout
  | .forwardRequest
  | .forwardData
  | .forwardStatus
  | .drainMarker
  | .fabricDrain
  | .taskRecord
  | .returnMessage
  | .parkedRecordPlace
  | .collective
  | .lwmAnnounce
  | .commit
  | .replayCheck
  | .bar2Access
  | .ctxCreate
  | .ctxDestroy
  | .ctxRetrySave
  | .ctxCmdReserved
  | .doorbell
  | .launchAccept
  | .hostIrq
  | .cplGo
  | .cplQuiesceComplete
  | .cplCopyComplete
  | .cplCopyError
  | .cplBoundExceeded
  | .cplSealComplete
  | .cplRestore
  | .cplRestoreComplete
  | .cplHoldRelease
  | .twilightFreeze
  | .twilightRead
  | .sidebandDump
  | .xltInv
  | .xltInvComplete
  | .tlbWalkComplete
  | .spadHash
  | .spadGate
  | .dsramGate
  | .bankWakeComplete
  | .launchAdmit
  | .poolTopup
  | .dispatchPlace
  | .recordPickup
  | .balance
  | .launchComplete
  | .farLoadData
  | .deferredExecute
  | .asyncTrapDelivery
  | .ctxStopped
  | .ctxSaveWritten
  | .ctxSaveFail
  | .ctxRestoreStart
  | .ctxRestoreDone
  | .queueWriteback
  | .entryStart
  | .entryOvertake
  | .entryAge
  | .mma
  | .mmaz
  | .azero
  | .aload
  | .astore
  | .queueFence
  | .copy
  | .decomp
  | .compr
  | .gather
  | .scatter
  | .fill
  | .nzscan
  | .signal
  | .inletStore
  | .waveTick
  | .barrierArrival
  | .waitWake
  | .waitAnyTimeout
  | .sleepExpiry
  | .breakpointMatch
  | .debugResume
  | .sampleTick
  | .rplGo
  | .compressedInstruction _
  | .accessPerformedAtHome
  | .powerRemoval
    => none

/-- The word of a 32-bit instruction. -/
def encode32 (i : Instr) : Option Nat := (encodeFields i).map packFields

/-- The low n bytes of w, the lowest first (R7). -/
def leBytes (n w : Nat) : List Byte :=
  match n with
  | 0 => []
  | n + 1 => BitVec.ofNat 8 w :: leBytes n (w / 256)

/-- The bytes of an instruction as they lie in memory, little-endian (R7, R307); an event has none. -/
def encode (i : Instr) : List Byte :=
  match i with
  | .compressedInstruction p => leBytes 2 p.toNat
  | i =>
    match encode32 i with
    | some w => leBytes 4 w
    | none => []

/-- The instruction the decoder reads from an instruction whose bits are w, numbered as spec/opcode_table.json numbers
them; the bits above nbits are zero. -/
def decodeTableWord (nbits w : Nat) : Option Instr :=
  match decodeBytes (leBytes 4 (w % 2 ^ nbits)) with
  | some (.ok i, _, _) => some i
  | _ => none

end Sys2Proof
end

