-- ==== Sys2Proof/Machine/System.lean ====
section
/-! DEFINITION. Machine/System.lean: the CSR map (R144, R267, R281, R431, R432), ecall and ebreak (R430), trap.ret (R433), the fences
(R187, R332, R356), sleep (R436) and icache.inv (R437). -/
namespace Sys2Proof.Machine

/-! ## CSRs -/

/-- STATUS (R144). -/
def statusWord (t : Thread) : Word :=
  BitVec.ofNat 64 ((if t.pmode then 256 else 0) + (if t.rep.isSome then 32 else 0) + (if t.fol.isSome then 16 else 0) + (if t.kernel then 1 else 0))

/-- ALLOT (R144). -/
def allotWord (s : State) : Word :=
  match launchOf s s.cur with
  | none => 0
  | some l =>
    let tcm := match l.onCore s.myCore with | some a => a.tcm | none => 0
    let tile := match l.onCore s.myCore with | some a => a.tile | none => 0
    let sp := match l.inCluster s.myCluster with | some a => a.spad | none => 0
    BitVec.ofNat 64 (sp % 64 * 2 ^ 32 + l.spu % 128 * 2 ^ 24 + tcm % 32 * 2 ^ 16 + l.tcmu % 64 * 2 ^ 8 + tile % 8 * 16 + l.acct % 16)

/-- The state code of the descent unit (R281). -/
def TreeState.code : TreeState → Nat
  | .free => 0 | .configured => 1 | .descending => 2 | .partial_ => 3 | .done => 4

/-- D of a descent block (R269). -/
def TreeUnit.depth (u : TreeUnit) : Nat := bitsOf (u.block.getD 0 0) 54 50
/-- NB - 1 of a descent block. -/
def TreeUnit.nbm1 (u : TreeUnit) : Nat := bitsOf (u.block.getD 0 0) 39 32
/-- RANK of a descent block. -/
def TreeUnit.rankMode (u : TreeUnit) : Bool := bitOf (u.block.getD 0 0) 59

/-- TR.ST (R281). -/
def TreeUnit.status (u : TreeUnit) : Word :=
  BitVec.ofNat 64 (u.depth % 32 * 2 ^ 16 + u.nbm1 % 256 * 2 ^ 8 + (if u.bound then 128 else 0) + (if u.nan then 64 else 0) +
    (if u.rankMode then 32 else 0) + u.state.code)

/-- A TR CSR (R281): the owning launch's thread sets read the unit; another launch reads zero (R270). -/
def readTree (s : State) (a : Nat) : State × Word :=
  let u := s.co.tree
  let own := u.state == .free || (match s.myAct with | some x => x.launch == u.launch | none => false)
  if own then
    (s, match a with
      | 0xCE0 => u.status
      | 0xCE1 => BitVec.ofNat 64 u.lvl
      | 0xCE2 => BitVec.ofNat 64 u.fetch
      | 0xCE3 => BitVec.ofNat 64 u.groups
      | 0xCE4 => BitVec.ofNat 64 u.folds
      | 0xCE5 => BitVec.ofNat 64 u.early
      | _ => u.err)
  else (s, 0)

/-- A rank-unit CSR (R267). -/
def readRank (k : RkRegs) (a : Nat) : Word :=
  match a with
  | 0xCD0 => k.n | 0xCD1 => k.st | 0xCD2 => k.emit | 0xCD3 => k.nanc | 0xCD4 => k.beyond | 0xCD5 => k.drain | 0xCD6 => k.dupc
  | 0xCD7 => k.mal | 0xCD8 => k.stretch | 0xCD9 => k.wave | 0xCDA => k.bnd | 0xCDB => k.stopn | _ => k.tracen

/-- The thermal state's code (R144). -/
def Thermal.code : Thermal → Nat
  | .normal => 0 | .warm => 1 | .hot => 2

/-- A CSR's kind: absent, read-only or read-write, and whether only kernel mode has it (R144). -/
inductive CsrKind where
  | absent
  | ro (kernel : Bool)
  | rw (kernel : Bool)
  deriving DecidableEq, Repr

/-- The CSR map (R144, R267, R281). -/
def csrKind (a : Nat) : CsrKind :=
  if a = 0x001 ∨ a = 0x002 ∨ a = 0x800 ∨ a = 0xCD1 ∨ a = 0xCE0 then .rw false
  else if a = 0xC00 ∨ a = 0xC02 ∨ (0xCC0 ≤ a ∧ a ≤ 0xCC5) ∨ (0xCD0 ≤ a ∧ a ≤ 0xCDC) ∨ (0xCE1 ≤ a ∧ a ≤ 0xCE6) then .ro false
  else if a = 0x100 ∨ a = 0x105 ∨ (0x140 ≤ a ∧ a ≤ 0x144) ∨ a = 0x5C0 then .rw true
  else if 0xDC0 ≤ a ∧ a ≤ 0xDC4 then .ro true
  else .absent

/-- A CSR read (R144), with its side effect (MDROOP, R432). -/
def csrRead (s : State) (a : Nat) : State × Word :=
  let t := s.th
  match a with
  | 0x001 => (s, t.fflags.zeroExtend 64)
  | 0x002 => (s, t.frm.zeroExtend 64)
  | 0x800 => (s, t.srctr)
  | 0xC00 => (s, Config.cycleAt s.steps)
  | 0xC02 => (s, t.instret)
  | 0xCC0 => (s, t.wid)
  | 0xCC1 => (s, t.tstamp)
  | 0xCC2 => (s, BitVec.ofNat 64 (ownId s * 2 ^ 16 + s.cur % 4 * 2 ^ 12 + s.myCore))
  | 0xCC3 => (s, allotWord s)
  | 0xCC4 => (s, s.lseed)
  | 0xCC5 => (s, BitVec.ofNat 64 (t.outstanding.toNat * 2 ^ 32 + t.window.length))
  | 0x100 => (s, statusWord t)
  | 0x105 => (s, t.tvec)
  | 0x140 => (s, t.kscratch)
  | 0x141 => (s, t.epc)
  | 0x142 => (s, t.cause)
  | 0x143 => (s, t.faddr)
  | 0x144 => (s, t.depc)
  | 0x5C0 => (s, (s.ctx s.myCtx).seed)
  | 0xDC0 => (s, BitVec.ofNat 64 (s.pkg.hubTemp.toNat * 2 ^ 16 + (s.cluster s.myCluster).temp.toNat))
  | 0xDC1 => (s.setCluster s.myCluster { s.cluster s.myCluster with droop := 0 }, BitVec.ofNat 64 (s.cluster s.myCluster).droop)
  | 0xDC2 => (s, Config.processCount (dieOfCore s.myCore))
  | 0xDC3 => (s, (s.die (dieOfCore s.myCore)).thrcyc)
  | 0xDC4 => (s, BitVec.ofNat 64 s.pkg.thermal.code)
  | a => if 0xCE0 ≤ a then readTree s a else (s, readRank t.rk a)

/-- Bit i of a sticky field: a written 0 clears it, a written 1 leaves it (R432). -/
def stickyWrite (old new mask : Word) : Word := old &&& (new ||| ~~~mask)

/-- A CSR write (R144, R432): read-only and reserved fields keep their values. -/
def csrWrite (s : State) (a : Nat) (v : Word) : State :=
  let t := s.th
  match a with
  | 0x001 => s.setTh { t with fflags := v.truncate 5 }
  | 0x002 => if v.toNat % 8 < 6 then s.setTh { t with frm := v.truncate 3 } else s
  | 0x800 => s.setTh { t with srctr := v }
  | 0x100 => s.setTh { t with pmode := bitOf v 8 }
  | 0x105 => s.setTh { t with tvec := v &&& ~~~(3 : Word) }
  | 0x140 => s.setTh { t with kscratch := v }
  | 0x141 => s.setTh { t with epc := v &&& ~~~(1 : Word) }
  | 0x142 => s.setTh { t with cause := v &&& BitVec.ofNat 64 (2 ^ 63 + 2 ^ 62 + 127) }
  | 0x143 => s.setTh { t with faddr := v }
  | 0x144 => s.setTh { t with depc := v &&& ~~~(1 : Word) }
  | 0x5C0 => s.setCtx s.myCtx { s.ctx s.myCtx with seed := v }
  | 0xCD1 => s.setTh { t with rk := { t.rk with st := stickyWrite t.rk.st v 0x7A0 } }
  | 0xCE0 => s.setCo { s.co with tree := { s.co.tree with bound := s.co.tree.bound && bitOf v 7, nan := s.co.tree.nan && bitOf v 6 } }
  | _ => s

/-- A CSR instruction (R431): `reads` and `writes` as Zicsr has them; the old value to rd with an empty mask. -/
def csrOp (i : Instr) (d : Reg) (src : List Reg) (c : BitVec 12) (reads writes : Bool) (f : State → Word → Word) (s : State) :
    Host.Outcome State Fault Refusal :=
  let bad := match csrKind c.toNat with
    | .absent => true
    | .ro k => writes || (k && !s.th.kernel)
    | .rw k => k && !s.th.kernel
  if bad then .next (illegalSys s)
  else
    issueNR i true src [d] (fun s =>
      let (s1, old) := if reads then csrRead s c.toNat else (s, 0)
      let s2 := if writes then csrWrite s1 c.toNat (f s old) else s1
      .ok (wrX s2 {} d old)) s

/-- R431: csrrw: rd = x0 does not read. -/
def execCsrrw (d a : Reg) (c : BitVec 12) (s : State) : Host.Outcome State Fault Refusal :=
  csrOp (.csrrw d a c) d [a] c (d != 0) true (fun s _ => rdX s a) s
/-- R431: csrrs: rs1 = x0 does not write. -/
def execCsrrs (d a : Reg) (c : BitVec 12) (s : State) : Host.Outcome State Fault Refusal :=
  csrOp (.csrrs d a c) d [a] c true (a != 0) (fun s o => o ||| rdX s a) s
/-- R431: csrrc. -/
def execCsrrc (d a : Reg) (c : BitVec 12) (s : State) : Host.Outcome State Fault Refusal :=
  csrOp (.csrrc d a c) d [a] c true (a != 0) (fun s o => o &&& ~~~(rdX s a)) s
/-- R431: csrrwi. -/
def execCsrrwi (d : Reg) (c : BitVec 12) (u : BitVec 5) (s : State) : Host.Outcome State Fault Refusal :=
  csrOp (.csrrwi d c u) d [] c (d != 0) true (fun _ _ => u.zeroExtend 64) s
/-- R431: csrrsi. -/
def execCsrrsi (d : Reg) (c : BitVec 12) (u : BitVec 5) (s : State) : Host.Outcome State Fault Refusal :=
  csrOp (.csrrsi d c u) d [] c true (u != 0) (fun _ o => o ||| u.zeroExtend 64) s
/-- R431: csrrci. -/
def execCsrrci (d : Reg) (c : BitVec 12) (u : BitVec 5) (s : State) : Host.Outcome State Fault Refusal :=
  csrOp (.csrrci d c u) d [] c true (u != 0) (fun _ o => o &&& ~~~(u.zeroExtend 64)) s

/-! ## Traps -/

/-- R430: ecall traps with cause 0x04; EPC is its own address. -/
def execEcall (s : State) : Host.Outcome State Fault Refusal := issueN .ecall true (fun s => trapE s 0x04) s
/-- R430: ebreak traps with cause 0x70. -/
def execEbreak (s : State) : Host.Outcome State Fault Refusal := issueN .ebreak true (fun s => trapE s 0x70) s
/-- R433: trap.ret; 0x01 in task mode. It waits for the entries that no trap holds (R130); with DEFER set those that its trap holds execute
first, in the turns that follow, and it ends when none is left. [DEDUCED, unsafe: log 15] -/
def execTrapRet (s : State) : Host.Outcome State Fault Refusal :=
  if !s.th.kernel then .next (illegalSys s)
  else if s.th.window.any (fun e => e.held == 0) then .next s
  else if inRep s then .next (repTrap s)
  else if bitOf s.th.cause 62 && s.th.window.any s.th.drains then .next (s.setTh { s.th with drain := true })
  else .next (endReturn s)

/-! ## Fences -/

/-- Whether a far access of the thread set is of a kind that a fence names (R187): r loads and atomics, w stores and atomics. -/
def FarKind.named (k : FarKind) (r w : Bool) : Bool :=
  match k with
  | .load => r
  | .store => w
  | .atomic _ _ _ _ => r || w
  | _ => false

/-- Whether an earlier access that a fence names has neither been performed nor failed (R187). -/
def fenceHeld (s : State) (scope : Nat) (r w : Bool) : Bool :=
  s.far.any (fun f => f.tid == s.cur && !f.over && f.kind.named r w &&
    f.pieces.any (fun p => !p.done && inScope s.myCore scope f.dev p.key))

/-- R332: a fence whose pred and succ both name something: as fence.s x0, device, rw. -/
def plainFence (i : Instr) (active : Bool) (s : State) : Host.Outcome State Fault Refusal :=
  issueN i false (fun s => if active && fenceHeld s 4 true true then waitE s else .ok s) s
/-- R332: fence. -/
def execFence (d a : Reg) (m p k : BitVec 4) (s : State) : Host.Outcome State Fault Refusal :=
  plainFence (.fence d a m p k) (p != 0 && k != 0) s
/-- R332: fence.tso. -/
def execFenceTso (d a : Reg) (s : State) : Host.Outcome State Fault Refusal := plainFence (.fenceTso d a) true s
/-- R356: fence.s: then rd := the bitmap of sticky bits, with an empty mask. -/
def execFenceS (d : Reg) (k : BitVec 3) (q : BitVec 2) (s : State) : Host.Outcome State Fault Refusal :=
  issueNR (.fenceS d k q) false [] [d] (fun s =>
    if fenceHeld s k.toNat (bitOf q 0) (bitOf q 1) then waitE s else .ok (wrX s {} d (stickyMap s s.myCtx))) s

/-! ## sleep, icache.inv -/

/-- R436: sleep: not ready for x[rs1] [31:0] cycles (SLEEP_EXPIRY ends it); with 0 it retires at once. -/
def execSleep (a : Reg) (s : State) : Host.Outcome State Fault Refusal :=
  issueNR (.sleep a) true [a] [] (fun s =>
    if (rdX s a).toNat % 2 ^ 32 = 0 then .ok s else .ok (s.setTh { s.th with run := .sleepCount })) s

/-- R437: icache.inv: kernel only; 0x01 in an ordered launch; after the thread set's earlier stores on this device, every instruction
cache is empty. -/
def execIcacheInv (s : State) : Host.Outcome State Fault Refusal :=
  if s.th.kernel then
    issueN .icacheInv true (fun s =>
      if inOrdered s s.cur then trapE s 0x01
      else if fenceHeld s 4 false true then waitE s
      else .ok { s with clusters := tmap s.clusters (fun _ c => { c with icache := [] }) }) s
  else .next (illegalSys s)

end Sys2Proof.Machine
end

