-- ==== Sys2Proof/Machine/Image.lean ====
section
/-! DEFINITION. Machine/Image.lean: what the image of a launch holds, as bytes (R291, R292), and what a restore reads back from them
(R124, R293). What the layout has no place for the model keeps beside the image. -/
namespace Sys2Proof.Machine

/-! ## Thread sets -/

/-- A mask as the image holds it. -/
def maskBytes (m : Mask) : List Byte := natBytes 2 m.d.toNat ++ natBytes 2 m.j.toNat
/-- A far-load slot in the image: address, destination, size, state. -/
def slotBytes (loads : List Far) (x : Slot) : List Byte :=
  let of := fun (id st : Nat) =>
    match loads.find? (fun f => f.id == id) with
    | some f =>
      let d : Nat := match f.dest with | .none => 0 | .x r _ _ => r.toNat | .v r => 32 + r.toNat
      natBytes 8 f.addr.toNat ++ natBytes 8 d ++ natBytes 8 ((f.pieces.map (fun p => p.len)).foldl (· + ·) 0) ++ natBytes 8 st
    | none => natBytes 24 0 ++ natBytes 8 st
  match x with
  | .free => natBytes 32 0
  | .outstanding id => of id 1
  | .abandoned id => of id 2
/-- A window entry in the image: the instruction word, the PC, the names after staggering of the registers that it writes and reads: x
registers as their number + 1, v registers as 33 more. -/
def windowBytes (e : WinEntry) : List Byte :=
  let names := fun (n : Nat) (l : List Reg) => l.map (fun r => BitVec.ofNat 8 (n + r.toNat))
  fitBytes 8 (encode e.instr) ++ natBytes 8 e.pc.toNat ++
    fitBytes 16 (names 1 e.use.wx ++ names 33 e.use.wv ++ names 1 e.use.rx ++ names 33 e.use.rv)
/-- A thread-set image (R292): 4 KiB. [DESIGN CHOICE, unsafe: log 53] -/
def threadImage (loads : List Far) (t : Thread) (reason : Nat) : List Byte :=
  let words := [t.pc, statusWord t, t.fflags.zeroExtend 64, t.frm.zeroExtend 64, t.srctr, t.epc, t.cause, t.faddr, t.depc, t.kscratch,
    t.tvec, t.wid, t.tstamp] ++ (match t.enc with | some e => [e.w0, e.w1, e.w2, e.w3] | none => [0, 0, 0, 0]) ++
    [t.rk.n, t.rk.st, t.rk.emit, t.rk.nanc, t.rk.beyond, t.rk.drain, t.rk.dupc, t.rk.mal, t.rk.stretch, t.rk.wave, t.rk.bnd, t.rk.stopn, t.rk.tracen] ++
    (match t.enc with | some e => [e.sendList, e.sendSlot, BitVec.ofNat 64 e.sent] | none => [0, 0, 0])
  let rep := match t.rep with
    | some r => fitBytes 256 (r.buf.flatMap (fun b => fitBytes 8 (encode b.2.2.2))) ++ natBytes 8 r.pass ++ natBytes 8 r.pos
    | none => []
  fitBytes 0x600 (wordsBytes t.x.toList ++ t.v.toList.flatMap (fun v => natBytes 16 v.toNat) ++
    t.xm.toList.flatMap maskBytes ++ t.vm.toList.flatMap maskBytes ++ t.slots.toList.flatMap (slotBytes loads)) ++
  fitBytes 0x200 (t.window.flatMap windowBytes) ++ fitBytes 0x400 (wordsBytes words) ++ fitBytes 0x200 rep ++
  fitBytes 0x200 (natBytes 8 reason)
/-- Why a viewed thread set stands: the cause of its freeze, else the code of the stop. [DESIGN CHOICE, unsafe: log 73] -/
def viewReason (s : State) (t : Thread) : Nat := if t.run = .frozen then bitsOf t.cause 6 0 else s.dbg.lastCode
/-- A write into the image of a stopped thread set: registers, masks, pc, status, CSRs, encoder state. [DESIGN CHOICE, unsafe: log 73] -/
def viewWrite (t : Thread) (o : Nat) (v : Word) : Thread :=
  let k := o / 8
  if o < 0x100 then (if k = 0 then t else { t with x := t.x.setIfInBounds k v, bad := t.bad &&& ~~~(BitVec.twoPow 64 k) })
  else if o < 0x300 then
    let i := (k - 32) / 2
    let old := t.v.toList.getD i 0
    let new := if k % 2 = 0 then old.toNat / 2 ^ 64 * 2 ^ 64 + v.toNat else old.toNat % 2 ^ 64 + v.toNat * 2 ^ 64
    { t with v := t.v.setIfInBounds i (BitVec.ofNat 128 new), bad := t.bad &&& ~~~(BitVec.twoPow 64 (32 + i)) }
  else if o < 0x400 then
    let i := (k - 96) * 2
    let m := fun (lo : Nat) => ({ d := fieldOf 16 v lo, j := fieldOf 16 v (lo + 16) : Mask })
    let put := fun (t : Thread) (i : Nat) (m : Mask) =>
      if i = 0 then t else if i < 32 then { t with xm := t.xm.setIfInBounds i m } else { t with vm := t.vm.setIfInBounds (i - 32) m }
    put (put t i (m 0)) (i + 1) (m 32)
  else if o < 0x800 then t
  else if o < 0xC00 then
    let rk := t.rk
    match (o - 0x800) / 8 with
    | 0 => { t with pc := lowClear v 1 }
    | 1 => { t with pmode := bitOf v 8, kernel := bitOf v 0 }
    | 2 => { t with fflags := fieldOf 5 v 0 }
    | 3 => if v.toNat % 8 < 6 then { t with frm := fieldOf 3 v 0 } else t
    | 4 => { t with srctr := v }
    | 5 => { t with epc := lowClear v 1 }
    | 6 => { t with cause := v &&& BitVec.ofNat 64 (2 ^ 63 + 2 ^ 62 + 127) }
    | 7 => { t with faddr := v }
    | 8 => { t with depc := lowClear v 1 }
    | 9 => { t with kscratch := v }
    | 10 => { t with tvec := lowClear v 2 }
    | 11 => { t with wid := v }
    | 12 => { t with tstamp := v }
    | 13 => { t with enc := t.enc.map (fun (e : EncState) => { e with w0 := v }) }
    | 14 => { t with enc := t.enc.map (fun (e : EncState) => { e with w1 := v }) }
    | 15 => { t with enc := t.enc.map (fun (e : EncState) => { e with w2 := v }) }
    | 16 => { t with enc := t.enc.map (fun (e : EncState) => { e with w3 := v }) }
    | 17 => { t with rk := { rk with n := v } }
    | 18 => { t with rk := { rk with st := v } }
    | 19 => { t with rk := { rk with emit := v } }
    | 20 => { t with rk := { rk with nanc := v } }
    | 21 => { t with rk := { rk with beyond := v } }
    | 22 => { t with rk := { rk with drain := v } }
    | 23 => { t with rk := { rk with dupc := v } }
    | 24 => { t with rk := { rk with mal := v } }
    | 25 => { t with rk := { rk with stretch := v } }
    | 26 => { t with rk := { rk with wave := v } }
    | 27 => { t with rk := { rk with bnd := v } }
    | 28 => { t with rk := { rk with stopn := v } }
    | 29 => { t with rk := { rk with tracen := v } }
    | 30 => { t with enc := t.enc.map (fun (e : EncState) => { e with sendList := v }) }
    | 31 => { t with enc := t.enc.map (fun (e : EncState) => { e with sendSlot := v }) }
    | 32 => { t with enc := t.enc.map (fun (e : EncState) => { e with sent := v.toNat }) }
    | _ => t
  else t
/-- The i-th unit of a length in bytes. -/
def unitAt (bs : List Byte) (o n i : Nat) : List Byte := (bs.drop (o + n * i)).take n
/-- An instruction as an image has it. -/
def instrFrom (i : Instr) (bs : List Byte) : Instr := match decodeBytes bs with | some (.ok j, _, _) => j | _ => i
/-- A window entry as its image has it. -/
def windowFrom (e : WinEntry) (bs : List Byte) : WinEntry := { e with instr := instrFrom e.instr (bs.take 8), pc := leWord ((bs.drop 8).take 8) }
/-- A slot as its image has it. -/
def slotFrom (x : Slot) (bs : List Byte) : Slot := if leNat ((bs.drop 24).take 8) = 0 then .free else x
/-- A repetition as its image has it. -/
def repFrom (r : Rep) (bs : List Byte) : Rep :=
  { r with buf := r.buf.mapIdx (fun i b => if i < 32 then (b.1, b.2.1, b.2.2.1, instrFrom b.2.2.2 (unitAt bs 0 8 i)) else b)
           pass := leNat (unitAt bs 0x100 8 0), pos := leNat (unitAt bs 0x100 8 1) }
/-- A thread set as its image has it: registers, masks, PC and CSRs, window, slots and repetition; what a window entry uses and the mode it
has, and the rest of an abandoned load, are as they were saved. -/
def threadFrom (t : Thread) (bs : List Byte) : Thread :=
  let t := (leWords 384 bs).zipIdx.foldl (fun t p => viewWrite t (8 * p.2) p.1) t
  { t with
    slots := Vector.ofFn (fun i => slotFrom (t.slots.toList.getD i.val .free) (unitAt bs 0x400 32 i.val))
    window := t.window.mapIdx (fun i e => if i < 16 then windowFrom e (unitAt bs 0x600 32 i) else e)
    rep := t.rep.map (fun r => repFrom r (bs.drop 0xC00)) }

/-! ## The launch's own part, and its clusters' -/

/-- The entry of a table replaced, where it differs. -/
def tput {α : Type} [BEq α] (t : Tab α) (k : Nat) (dflt v : α) : Tab α := if tget t k dflt == v then t else tset t k v
/-- Records read at consecutive keys. -/
def recordsAt (s : State) (k n : Nat) : List Record := (List.range n).map (fun j => recordOf (memRead s (k + 64 * j) 64))
/-- A launch's live count, next items, pool items and call records as its image has them; what does not fit into it stays as it was. -/
def launchFrom (s : State) (l : Launch) : Launch :=
  let b := imageBase s l
  let at_ := fun (o : Nat) => leNat (memRead s (b + o) 8)
  (l.useClusters.zipIdx.foldl (fun (acc : Launch × Nat) p =>
    let l := acc.1
    let o := 0x100 + 32 * p.2
    let items := unitsOf (min 512 (at_ (o + 16))) 8 (memRead s (b + l.clusterOff p.1) 4096) ++ (tget l.pools p.1 []).drop 512
    let n := at_ (o + 24)
    let rs := if acc.2 + n ≤ 124 then recordsAt s (b + 0x2100 + 64 * acc.2) n else tget l.poolRecords p.1 []
    ({ l with next := tput l.next p.1 0 (at_ (o + 8)), pools := tput l.pools p.1 [] items, poolRecords := tput l.poolRecords p.1 [] rs },
      acc.2 + n)) ({ l with live := at_ 8 }, 0)).1

/-! ## Cores -/

/-- The waiters of a launch as its image has them. -/
def waiterFrom (s : State) (seq k : Nat) : Waiter :=
  let w := leNat (memRead s k 8)
  { launch := seq, mbox := w % 2 ^ 32, record := recordOf (memRead s (k + 8) 64), loaded := w / 2 ^ 32 % 2 == 1 }
/-- A stream unit in the image: owner, base, strides, counts, direction and binding, position. -/
def streamUnitBytes (u : StreamUnit) : List Byte :=
  fitBytes 0x80 (natBytes 8 u.owner ++ natBytes 8 u.base.toNat ++ natBytes 8 (bitAt u.write 0 + bitAt u.bound 1 + u.count.length * 4) ++ natBytes 8 u.pos ++
    u.stride.flatMap (fun v => natBytes 8 (BitVec.ofInt 64 v).toNat) ++ u.count.flatMap (natBytes 8))
/-- A stream unit as its image has it. -/
def streamUnitFrom (u : StreamUnit) (bs : List Byte) : StreamUnit :=
  let at_ := fun (i : Nat) => leNat (unitAt bs 0 8 i)
  let n := at_ 2 / 4
  { u with owner := at_ 0, base := BitVec.ofNat 64 (at_ 1), write := at_ 2 % 2 == 1, bound := at_ 2 / 2 % 2 == 1, pos := at_ 3
           stride := (List.range n).map (fun i => (BitVec.ofNat 64 (at_ (4 + i))).toInt), count := (List.range n).map (fun i => at_ (4 + n + i)) }
/-- A receive stream as its image has it: the block, the positions, RK.ST, the counts, bands, outputs and falling sequence. -/
def streamFrom (r : RxStream) (bs : List Byte) : RxStream :=
  let at_ := fun (i : Nat) => leNat (unitAt bs 0x80 8 i)
  let st := BitVec.ofNat 64 (at_ 4)
  let counts := fun (w : Wave) => { w with beyond := at_ 6, drain := at_ 7, dupc := at_ 8, mal := at_ 9 }
  let bands := fun (w : Wave) => { w with prods := w.prods.mapIdx (fun j p =>
    { p with ended := leNat (unitAt bs 0x100 1 (2 * j)) == 32, band := leNat (unitAt bs 0x100 1 (2 * j + 1)) }) }
  { r with
    block := leWords 16 bs, pos := at_ 2, ovfPos := at_ 3, bound := st.getLsbD 6
    flags := (r.flags &&& ~~~(0x7A0 : Word)) ||| (st &&& 0x7A0), stop := st &&& 0xFFFF3800
    n := at_ 5, stretch := at_ 10, bnd := BitVec.ofNat 32 (at_ 11), stopn := at_ 12, tracen := at_ 13
    y := (unitsOf r.y.length 4 (bs.drop 0x200)).map (BitVec.ofNat 32), seq := (unitsOf r.seq.length 2 (bs.drop 0x600)).map (BitVec.ofNat 16)
    waves := r.waves.mapIdx (fun i w =>
      let w := if r.first + i = r.rkWave then counts w else w
      if r.first + i = r.closed then bands w else w) }
/-- The token of a tile in the image: its holder + 1, or 0 for the engine. -/
def tokenBytes (t : Tile) : List Byte := natBytes 8 (match t.holder with | some t => t + 1 | none => 0)
/-- A descent unit in the image: block, status, counts, registers. -/
def treeBytes (u : TreeUnit) : List Byte :=
  fitBytes 0x40 (wordsBytes u.block) ++ natBytes 8 u.status.toNat ++ ([u.lvl, u.fetch, u.groups, u.folds, u.early, u.err.toNat, 0].flatMap (natBytes 8)) ++
    u.pt.flatMap (fun v => natBytes 4 v.toNat)
/-- A decode table in the image. -/
def DecodeTable.bytes (t : DecodeTable) : List Byte := t.codes.flatMap (fun v => natBytes 4 v.toNat)
/-- A core block (R292): 16 KiB. [DESIGN CHOICE, unsafe: log 53] -/
def coreBlock (s : State) (l : Launch) (g : Nat) : List Byte :=
  let c := s.core g
  let mine := fun (q : EngQueue) => q.all.filter (fun e => e.launch == l.seq)
  let base := match l.onCore g with | some a => a.tile | none => 0
  let tokens := (List.range l.acct).flatMap (fun i => tokenBytes (tileOf s g (base + i)))
  let units := c.streams.toList.flatMap (fun u => match u with
    | some x => if (launchOf s x.owner).any (fun m => m.seq == l.seq) then streamUnitBytes x else natBytes 0x80 0
    | none => natBytes 0x80 0)
  let u := c.tree
  let tree := if u.launch == l.seq && u.state != .free then treeBytes u else []
  let index := c.rx.toList.flatMap (fun r => match r with
    | some r => if r.launch == l.seq then fitBytes 64 (natBytes 8 r.launch ++ natBytes 8 r.state.code) else natBytes 64 0
    | none => natBytes 64 0)
  fitBytes 0x400 (queueImage 0 l.seq (mine c.mq)) ++ fitBytes 0x400 (queueImage 1 l.seq (mine c.cq)) ++ fitBytes 0x80 tokens ++ fitBytes 0x380 units ++
  fitBytes 0x400 (c.shapes.toList.flatMap (fun x => match x with
    | some d => if d.launch == l.seq then natBytes 32 d.desc.toNat else natBytes 32 0
    | none => natBytes 32 0)) ++
  fitBytes 0x400 (match c.table with | some t => if t.launch == l.seq then t.bytes else [] | none => []) ++
  fitBytes 0x800 tree ++ fitBytes 0x400 index ++ fitBytes 0x1000 (((dequeOf s g l.seq).take (onCoreOf s g l.seq)).flatMap (fun r => wordsBytes r.words)) ++
  waiterTable s g l.seq
/-- A tile's 4 KiB: row by row, FP32. -/
def tileBytes (t : Tile) : List Byte := (List.range 1024).flatMap (fun n => natBytes 4 (tget t.elems n 0).toNat)
/-- A tile as its image and its token word have it. -/
def tileFrom (t : Tile) (bs : List Byte) (token : Nat) : Tile :=
  { t with elems := ((unitsOf 1024 4 bs).zipIdx.filter (fun p => p.1 != 0)).map (fun p => (p.2, BitVec.ofNat 32 p.1))
           holder := if token = 0 then none else some (token - 1) }
/-- A descent unit as its image has it: block, status, counts, registers. -/
def treeFrom (u : TreeUnit) (bs : List Byte) : TreeUnit :=
  let at_ := fun (i : Nat) => leNat ((bs.drop (0x40 + 8 * i)).take 8)
  { u with block := leWords 8 bs, bound := at_ 0 / 128 % 2 == 1, nan := at_ 0 / 64 % 2 == 1, lvl := at_ 1, fetch := at_ 2, groups := at_ 3, folds := at_ 4, early := at_ 5
           err := BitVec.ofNat 64 (at_ 6), pt := (unitsOf 256 4 (bs.drop 0x80)).map (BitVec.ofNat 32) }
/-- A queue entry as its image has it: command word and progress; a fence stays what it was. -/
def entryBack (e : Entry) (bs : List Byte) : Entry :=
  if e.fence.isSome then e else { e with tcw := BitVec.ofNat 256 (leNat (bs.take 32)), progress := leNat ((bs.drop 32).take 8) }
/-- The entries of a launch in a queue as its image has them. -/
def entriesBack (s : State) (k : Nat) (es : List Entry) : List Entry :=
  es.zipIdx.map (fun p => if p.2 < 4 then entryBack p.1 (memRead s (k + 64 + 128 * p.2) 128) else p.1)

end Sys2Proof.Machine
end

