-- ==== Sys2Proof/Machine/Sync.lean ====
section
/-! DEFINITION. Machine/Sync.lean: custom-2 (R318): acquire and release, amo.sc, the taint instructions, waiting on memory, barriers,
three-party requests, peer slots and the commit mark (R353 to R366). -/
namespace Sys2Proof.Machine

/-! ## Acquire, release, amo.sc -/

/-- R353: ld.acq. -/
def execLdAcq (d a : Reg) (s : State) : Host.Outcome State Fault Refusal :=
  issueD (.ldAcq d a) { rx := [a], wx := [d], mem := some { base := a, off := 0, size := 8, store := false, order := .acquire } }
    (fun m s => if (rdX s a).toNat % 8 != 0 then trapE s 0x05 (rdX s a) else loadEff s m (rdX s a) 8 (.x d 64 false) true) s

/-- R353: sd.rel: performed as an sd once every earlier access has been performed or has failed (R186). -/
def execSdRel (a b : Reg) (s : State) : Host.Outcome State Fault Refusal :=
  issueD (.sdRel a b)
    { rx := [a, b], mem := some { base := a, off := 0, size := 8, store := true, order := .release, dx := [b] } }
    (fun m s => if (rdX s a).toNat % 8 != 0 then trapE s 0x05 (rdX s a) else storeEff s m (rdX s a) (natBytes 8 (rdX s b).toNat)) s

/-- The effect of amo.sc (R355). On this device it is performed when it executes: its place in the order of announcements is that of
its execution (R189). At a peer the thread set waits for the answer. [DEDUCED, unsafe: log 19] -/
def amoScEff (s : State) (m : Mask) (a : Word) (n : Nat) (op : AmoOp) (x cmp : Word) (d : Reg) : Eff := do
  if a.toNat % n != 0 then trapE s 0x05 a
  else
    let (s, p) ← place s a n [rightRD, rightWR]
    match p with
    | .near k => if mustIrrevocable s then waitE (wantIrrevocable s) else localAmo s m a k n op x cmp d
    | .register _ => trapE s 0x11 a
    | .far ks =>
      let k := (ks.headD (0, 0)).1
      if mustIrrevocable s then waitE (wantIrrevocable s)
      else
        let s ← localArrive s m k n
        let inlet := addr48 a < 0xFFF000000000 && (inletAt s s.myCtx (addr48 a)).isSome
        match (if inlet then some 0x11 else homeFails s k n true) with
        | some c =>
          .ok (wrX (writeFault (countUe s [(k, n)] c) s.myCtx
            { dev := ownId s, tid := some s.cur, agent := 0, code := c, addr := a, wid := s.th.wid, pc := s.pcNow }) m d 0)
        | none =>
          let s := noteRead s (plainAddr s a) n
          let old := leNat (memRead s k n)
          let new := op.apply n old x.toNat cmp.toNat
          let s := if op == .cas && old != cmp.toNat % 2 ^ (8 * n) then s
            else noteStore (memWrite (undoDirect s s.cur a n) k (natBytes n new)) a (natBytes n new)
          .ok (wrX s m d (extendTo (8 * n) true old))
    | .peer dv va =>
      if mustIrrevocable s then waitE (wantIrrevocable s)
      else if peerLimit s dv va false then waitE s
      else
        let (s, id) := sendFar s m (.atomic op x cmp true) a [{ key := va, pos := 0, len := n }] (dv + 1) [] (.x d (8 * n) true) none
        .ok (noteAtomic (maskDest (s.setTh { s.th with run := .blocked id }) (.x d (8 * n) true) m) id a n)

/-- amo.sc (R355): W or D by the width bit. -/
def amoSc (i : Instr) (op : AmoOp) (d a b : Reg) (w : BitVec 1) (s : State) : Host.Outcome State Fault Refusal :=
  let n := if w = 0 then 4 else 8
  issueD i { rx := if op == .cas then [a, b, d] else [a, b], wx := [d],
             mem := some { base := a, off := 0, size := n, store := true, order := .total, dx := [b] } }
    (fun m s => amoScEff s m (rdX s a) n op (rdX s b) (rdX s d) d) s
/-- R354, R355: amo.sc.swap. -/
def execAmoScSwap (d a b : Reg) (w : BitVec 1) (s : State) : Host.Outcome State Fault Refusal := amoSc (.amoScSwap d a b w) .swap d a b w s
/-- R354, R355: amo.sc.add. -/
def execAmoScAdd (d a b : Reg) (w : BitVec 1) (s : State) : Host.Outcome State Fault Refusal := amoSc (.amoScAdd d a b w) .add d a b w s
/-- R354, R355: amo.sc.min, minu. -/
def execAmoScMin (d a b : Reg) (u w : BitVec 1) (s : State) : Host.Outcome State Fault Refusal :=
  amoSc (.amoScMin d a b u w) (if u = 0 then .min else .minu) d a b w s
/-- R354, R355: amo.sc.max, maxu. -/
def execAmoScMax (d a b : Reg) (u w : BitVec 1) (s : State) : Host.Outcome State Fault Refusal :=
  amoSc (.amoScMax d a b u w) (if u = 0 then .max else .maxu) d a b w s
/-- R354, R355: amo.sc.cas: rd is the comparand. -/
def execAmoScCas (d a b : Reg) (w : BitVec 1) (s : State) : Host.Outcome State Fault Refusal := amoSc (.amoScCas d a b w) .cas d a b w s

/-! ## Taint instructions (R357) -/

/-- The masks of an x or v register. -/
def anyMask (t : Thread) (v : BitVec 1) (r : Reg) : Mask := if v = 1 then t.maskV r else t.maskX r
/-- The masks of an x or v register replaced; x0 keeps its own. -/
def setAnyMask (t : Thread) (v : BitVec 1) (r : Reg) (m : Mask) : Thread :=
  if v = 1 then { t with vm := t.vm.set r.toNat m r.isLt }
  else if r = 0 then t else { t with xm := t.xm.set r.toNat m r.isLt }
/-- The use of an instruction that changes a register's masks only; with no operand read it waits for older writers alone. -/
def maskUse (v : BitVec 1) (d : Reg) (rx : List Reg) : Use :=
  if v = 1 then { rx := rx, wv := [d], late := rx.isEmpty } else { rx := rx, wx := [d], late := rx.isEmpty }
/-- JMASK bits ORed in (dep.join). -/
def joinMask (t : Thread) (v : BitVec 1) (d : Reg) (m : Mask) : Thread :=
  let o := anyMask t v d
  setAnyMask t v d { o with j := o.j ||| m.taint }

/-- A taint instruction in the window: its captured masks, and no change of the masks it will change. -/
def enterMaskOp (s : State) (i : Instr) (u : Use) (m : Mask) : State :=
  s.setTh { s.th with window := s.th.window ++ [{ instr := i, pc := s.th.pc, len := s.ilen, use := u, mask := m, kernel := s.th.kernel, depth := s.th.tdepth }] }

/-- R357: dep.join: JMASK(rd) gains both masks of rs1 as they stand at issue; deferred only behind an older entry that writes rd. -/
def execDepJoin (d a : Reg) (v w : BitVec 1) (s : State) : Host.Outcome State Fault Refusal :=
  let u := maskUse v d []
  match s.winRun with
  | some e => settleDeferred e (.ok (s.setTh (joinMask s.th v d e.mask)))
  | none =>
    let m := anyMask s.th w a
    if s.th.entries.any (fun o => conflicts u o.use) then
      .next (if 16 ≤ s.th.window.length then s
        else issued ((enterMaskOp s (.depJoin d a v w) u m).setTh (joinMask (enterMaskOp s (.depJoin d a v w) u m).th v d m)) (.depJoin d a v w))
    else settle (.depJoin d a v w) (.ok (s.setTh (joinMask s.th v d m)))

/-- JMASK bits cleared (dep.clr). -/
def clearJoin (s : State) (v : BitVec 1) (d a : Reg) : State :=
  let o := anyMask s.th v d
  s.setTh (setAnyMask s.th v d { o with j := o.j &&& ~~~((rdX s a).truncate 16) })

/-- R357: dep.clr: JMASK(rd) loses the bits of x[rs1] [15:0]. -/
def execDepClr (d a : Reg) (v : BitVec 1) (s : State) : Host.Outcome State Fault Refusal :=
  let u := maskUse v d [a]
  match s.winRun with
  | some e => settleDeferred e (do let s ← checkRegs s [a] []; .ok (clearJoin s v d a))
  | none =>
    if farPendX s s.cur a || s.th.entries.any (fun o => conflicts u o.use) then
      .next (if 16 ≤ s.th.window.length then s else issued (enterMaskOp s (.depClr d a v) u {}) (.depClr d a v))
    else settle (.depClr d a v) (do let s ← checkRegs s [a] []; .ok (clearJoin s v d a))

/-- R357: dep.wait: until no slot of either mask of rs1 is outstanding. -/
def execDepWait (a : Reg) (w : BitVec 1) (s : State) : Host.Outcome State Fault Refusal :=
  issueN (.depWait a w) false (fun s => if ((anyMask s.th w a).taint &&& s.th.outstanding) != 0 then waitE s else .ok s) s

/-! ## Waiting on memory (R358, R359) -/

/-- R358: wait.addr: rd := the word once it differs from x[rs2]; asleep while it does not. A read that fails at its home ends it with
0. -/
def execWaitAddr (d a b : Reg) (o : BitVec 7) (s : State) : Host.Outcome State Fault Refusal :=
  issueNR (.waitAddr d a b o) false [a, b] [d] (fun s => afterAcquire s do
    let addr := rdX s a + (o ++ (0 : BitVec 3)).signExtend 64
    if addr.toNat % 8 != 0 then trapE s 0x05 addr
    else
      let (s, v, k) ← blockingRead s (s.th.maskX a) addr
      match v with
      | none => .ok (wrX s {} d 0)
      | some v => if v != rdX s b then .ok (wrX s {} d v) else waitE (s.setTh { s.th with run := .sleepWait [k / 16 * 16] })) s

/-- The list of a wait.any as pairs (address, awaited value). -/
def pairsOf (ws : List Word) : List (Word × Word) :=
  match ws with
  | a :: b :: r => (a, b) :: pairsOf r
  | _ => []

/-- The addresses of a wait.any checked as R358 checks one, without a read: misaligned 0x05, another device 0x10, the register window
or an inlet 0x11. -/
def checkWaitAddrs (s : State) (l : List (Word × Word)) : Except Stop Unit :=
  match l with
  | [] => .ok ()
  | p :: r =>
    if p.1.toNat % 8 != 0 then trapE s 0x05 p.1
    else match decodeAddr s p.1 with
      | .peer _ _ => trapE s 0x10 p.1
      | .nowhere => trapE s 0x10 p.1
      | .register _ => trapE s 0x11 p.1
      | .translated va => if (inletAt s s.myCtx va).isSome then trapE s 0x11 p.1 else checkWaitAddrs s r
      | _ => checkWaitAddrs s r

/-- The reads of a wait.any in order: the index of the first word that differs or whose read failed, or the units to sleep on. -/
def readAny (s : State) (l : List (Word × Word)) (i : Nat) (units : List Nat) : Except Stop (State × (Nat ⊕ List Nat)) :=
  match l with
  | [] => .ok (s, .inr units)
  | p :: r => do
    let (s, v, k) ← blockingRead s {} p.1
    match v with
    | none => .ok (s, .inl i)
    | some v => if v != p.2 then .ok (s, .inl i) else readAny s r (i + 1) (units ++ [k / 16 * 16])

/-- R359: wait.any. -/
def execWaitAny (d a b : Reg) (s : State) : Host.Outcome State Fault Refusal :=
  issueNR (.waitAny d a b) false [a, b] [d] (fun s => afterAcquire s do
    let done := fun (s : State) (v : Word) => wrX (s.setTh { s.th with anyList := none, anyOver := false }) {} d v
    if s.th.anyOver then .ok (done s (BitVec.allOnes 64))
    else
      let la := rdX s a; let cfg := rdX s b
      if la.toNat % 16 != 0 then trapE s 0x23 la else .ok ()
      let n := bitsOf cfg 2 0 + 1
      let (s, list) ← match s.th.anyList with
        | some l => .ok (s, l)
        | none => do
          let (s, bs) ← ownRead s (s.th.maskX a) la (16 * n)
          if bitsOf cfg 31 3 != 0 then trapE s 0x23
          let l := pairsOf (leWords (2 * n) bs)
          checkWaitAddrs s l
          .ok (s, l)
      let (s, r) ← readAny s list 0 []
      match r with
      | .inl i => .ok (done s (BitVec.ofNat 64 i))
      | .inr us => waitE (s.setTh { s.th with run := .sleepAny us (bitsOf cfg 63 32 != 0), anyList := some list })) s

/-! ## Barriers (R360 to R362) -/

/-- Whether a barrier identifier is well formed (R360). -/
def barrierOk (id : Word) : Bool :=
  bitsOf id 63 33 == 0 && bitsOf id 14 8 == 0 && (bitOf id 15 || bitsOf id 7 0 < 32)
/-- The barrier that an identifier names for a thread set of a cluster. -/
def getBarrier (s : State) (cl : Nat) (id : Word) : Barrier :=
  if bitOf id 15 then tget s.devBarriers (bitsOf id 7 0) {} else tget (s.cluster cl).barriers (bitsOf id 7 0) {}
/-- The barrier replaced. -/
def putBarrier (s : State) (cl : Nat) (id : Word) (b : Barrier) : State :=
  if bitOf id 15 then { s with devBarriers := tset s.devBarriers (bitsOf id 7 0) b }
  else s.setCluster cl { s.cluster cl with barriers := tset (s.cluster cl).barriers (bitsOf id 7 0) b }
/-- Whether an arrival or wait of a context matches (R361). -/
def Barrier.matches (b : Barrier) (c : Nat) (id : Word) : Bool := b.holder == some c && b.inst.toNat == bitsOf id 31 16
/-- Flips while CUR ≥ COUNT (R361); `fuel` bounds them. -/
def flipBarrier (fuel : Nat) (b : Barrier) : Barrier :=
  match fuel with
  | 0 => b
  | n + 1 => if b.count ≤ b.cur then flipBarrier n { b with phase := !b.phase, cur := b.next + (b.cur - b.count), next := 0 } else b
/-- A matching arrival counted (R361). -/
def arriveAt (b : Barrier) (id : Word) : Barrier :=
  if bitOf id 32 == b.phase then
    (if b.cur + 1 = b.count then flipBarrier (b.next / (max b.count 1) + 2) { b with cur := b.cur + 1 } else { b with cur := b.cur + 1 })
  else { b with next := b.next + 1 }
/-- An arrival sent to its unit (R362). -/
def barrierSend (s : State) (id : Word) : State :=
  { s with barSent := s.barSent ++ [{ cluster := s.myCluster, tid := s.cur, ctx := s.myCtx, wid := s.th.wid, pc := s.pcNow, id := id }] }
/-- A barrier in a context's area (R291): 64 bytes. [DESIGN CHOICE, unsafe: log 53] -/
def barrierBytes (b : Barrier) : List Byte :=
  fitBytes 64 ([(match b.holder with | some c => c + 1 | none => 0), b.inst.toNat, b.count, (if b.phase then 1 else 0), b.cur, b.next].flatMap (natBytes 8))
/-- A barrier as its image has it. -/
def barrierFrom (bs : List Byte) : Barrier :=
  let at_ := fun (i : Nat) => leNat ((bs.drop (8 * i)).take 8)
  { holder := if at_ 0 = 0 then none else some (at_ 0 - 1), inst := BitVec.ofNat 16 (at_ 1), count := at_ 2, phase := at_ 3 % 2 == 1, cur := at_ 4, next := at_ 5 }
/-- Device barrier i written to the area of a context. -/
def imageBarrier (s : State) (c i : Nat) : State :=
  memWrite s (areaBase (s.ctx c) + 0x1000 + 64 * i) (barrierBytes (tget s.devBarriers i {}))
/-- An arrival reaches its unit: counted where it matches, in the saved image too while the context is Saved, else dropped with a fault
record 0x31 (R204). -/
def barrierArrive (s : State) (a : BarSent) : State :=
  if (getBarrier s a.cluster a.id).matches a.ctx a.id then
    let s := putBarrier s a.cluster a.id (arriveAt (getBarrier s a.cluster a.id) a.id)
    if bitOf a.id 15 && (s.ctx a.ctx).image.isSome then imageBarrier s a.ctx (bitsOf a.id 7 0) else s
  else writeFault s a.ctx { dev := ownId s, tid := some a.tid, retired := a.retired, agent := 0, code := 0x31, wid := a.wid, pc := a.pc }

/-- The effect of bar.init (R361). -/
def barInitEff (s : State) (id n : Word) : Eff :=
  if !barrierOk id || bitsOf n 63 16 != 0 then trapE s 0x23
  else
    let b := getBarrier s s.myCluster id
    if b.holder.isSome && b.holder != some s.myCtx then trapE s 0x23
    else if bitsOf n 15 0 = 0 then .ok (putBarrier s s.myCluster id { b with holder := none })
    else .ok (putBarrier s s.myCluster id
      { holder := some s.myCtx, inst := BitVec.ofNat 16 (bitsOf id 31 16), count := bitsOf n 15 0, phase := false, cur := 0, next := 0 })
/-- R361: bar.init. -/
def execBarInit (a b : Reg) (s : State) : Host.Outcome State Fault Refusal :=
  issueD (.barInit a b) { rx := [a, b] } (fun _ s => barInitEff s (rdX s a) (rdX s b)) s
/-- R362: bar.arrive: sent once the earlier accesses to homes in the barrier's scope have been performed or have failed. -/
def execBarArrive (a : Reg) (s : State) : Host.Outcome State Fault Refusal :=
  issueD (.barArrive a) { rx := [a], mem := some { base := a, off := 0, size := 8, store := false, order := .arrive } } (fun _ s =>
    if !barrierOk (rdX s a) then trapE s 0x23 else .ok (barrierSend s (rdX s a))) s
/-- R362: bar.wait: until PHASE differs from the identifier's; at once, with a fault record, where it does not match. -/
def execBarWait (a : Reg) (s : State) : Host.Outcome State Fault Refusal :=
  issueNR (.barWait a) false [a] [] (fun s =>
    let id := rdX s a
    if !barrierOk id then trapE s 0x23
    else
      let b := getBarrier s s.myCluster id
      if b.matches s.myCtx id then (if b.phase != bitOf id 32 then .ok s else waitE s)
      else .ok (writeFault s s.myCtx { dev := ownId s, tid := some s.cur, agent := 0, code := 0x31, wid := s.th.wid, pc := s.pcNow })) s

/-! ## Three-party requests (R363, R364) -/

/-- An address with its device field removed lies below the windows. -/
def belowWindows (a : Nat) : Bool := addr48 (BitVec.ofNat 64 a) < 0xFFF000000000

/-- The effect of rd.fwd and rd.cast (R364): the checks in their order, then a Forward request under the taint of rs1 and rs2. -/
def forwardEff (cast : Bool) (s : State) (m : Mask) (d : Reg) (desc src : Word) : Eff := do
  if desc.toNat % 16 != 0 then trapE s 0x23 desc
  let (s, bs) ← ownRead s m desc 16
  let dst := leWord bs; let w1 := leWord (bs.drop 8)
  if !bitOf (s.ctx s.myCtx).ptroot 0 then trapE s 0x11
  if bitsOf w1 63 40 != 0 || bitsOf w1 25 0 == 0 || (!cast && bitsOf w1 39 32 != 0) || (cast && bitsOf dst 63 48 != 0) then trapE s 0x23 desc
  if 0x8000 < deviceField src || (!cast && 0x8000 < deviceField dst) || !belowWindows src.toNat || !belowWindows dst.toNat then trapE s 0x10
  let df := deviceField src
  let dev := if df = 0 || df = s.fabric.id.toNat + 1 then 0 else df
  if dev != 0 && peerLimit s (dev - 1) (addr48 src) false then waitE s
  if mustIrrevocable s then waitE (wantIrrevocable s)
  let ps : List Piece := [{ key := addr48 src, pos := 0, len := 8 }]
  if d = 0 then .ok (sendFar s m (.forward cast) src ps dev bs .none none).1
  else
    let slot := freeSlot s.th
    let s := farWithSlot s m (.forward cast) src ps dev bs (.x d 64 false)
    .ok (maskDest s (.x d 64 false) (match slot with | some i => { d := slotBit i } | none => {}))

/-- A three-party request. -/
def threeParty (i : Instr) (cast : Bool) (d a b : Reg) (s : State) : Host.Outcome State Fault Refusal :=
  issueD i { rx := [a, b], wx := [d], mem := some { base := a, off := 0, size := 16, store := false } }
    (fun m s => forwardEff cast s m d (rdX s a) (rdX s b)) s
/-- R364: rd.fwd. -/
def execRdFwd (d a b : Reg) (s : State) : Host.Outcome State Fault Refusal := threeParty (.rdFwd d a b) false d a b s
/-- R364: rd.cast. -/
def execRdCast (d a b : Reg) (s : State) : Host.Outcome State Fault Refusal := threeParty (.rdCast d a b) true d a b s

/-! ## Peer slots and the commit mark (R366) -/

/-- Peer slot i of the executing context. -/
def mySlot (s : State) (i : Nat) : PeerSlot := (s.ctx s.myCtx).slots.toList.getD i {}
/-- The word of peer.err (R366). -/
def peerErrWord (s : State) (dev : Nat) : Word :=
  let word := fun (i : Nat) => BitVec.ofNat 64 (i + 256 + (if (mySlot s i).sticky then 512 else 0))
  match (List.range 63).find? (fun i => (mySlot s i).used && (mySlot s i).dev.toNat == dev) with
  | some i => word i
  | none => if (List.range 63).all (fun i => (mySlot s i).used) then word 63 else 0
/-- R366: peer.err. -/
def execPeerErr (d a : Reg) (s : State) : Host.Outcome State Fault Refusal :=
  issueD (.peerErr d a) { rx := [a], wx := [d], noMask := true } (fun _ s => .ok (wrX s {} d (peerErrWord s (bitsOf (rdX s a) 14 0)))) s
/-- R366: peer.id. -/
def execPeerId (d a : Reg) (s : State) : Host.Outcome State Fault Refusal :=
  issueD (.peerId d a) { rx := [a], wx := [d], noMask := true } (fun _ s =>
    let i := bitsOf (rdX s a) 5 0
    let p := mySlot s i
    .ok (wrX s {} d (if !p.used then 0xFFFF else if i = 63 then 0x8000 else p.dev.zeroExtend 64))) s
/-- R366: peer.clr. -/
def execPeerClr (a : Reg) (s : State) : Host.Outcome State Fault Refusal :=
  issueD (.peerClr a) { rx := [a] } (fun _ s =>
    let x := s.ctx s.myCtx
    let w := rdX s a
    .ok (s.setCtx s.myCtx { x with slots := x.slots.mapIdx (fun i p => if bitOf w i then { p with sticky := false } else p) })) s
/-- The low-water mark of the executing launch as announced (R366): all ones in a free launch and once all has committed.
[DEDUCED, unsafe: log 25] -/
def markWord (s : State) : Word :=
  match launchOf s s.cur with
  | some l =>
    if l.ordered then (match l.lwm with | some (p, i) => BitVec.ofNat 64 (p % 2 ^ 32 * 2 ^ 32 + i % 2 ^ 32) | none => BitVec.allOnes 64)
    else BitVec.allOnes 64
  | none => BitVec.allOnes 64
/-- R366: ts.get. -/
def execTsGet (d : Reg) (s : State) : Host.Outcome State Fault Refusal :=
  issueD (.tsGet d) { wx := [d], noMask := true } (fun _ s => .ok (wrX s {} d (markWord s))) s

end Sys2Proof.Machine
end

