-- ==== Sys2Proof/Machine/Tree.lean ====
section
/-! DEFINITION. Machine/Tree.lean: the descent unit (R268 to R281, R423): tr.cfg, tr.desc, tr.path, tr.bwd. -/
namespace Sys2Proof.Machine

/-! ## Fields of the tree block (R269) -/

/-- Word i. -/
def TreeUnit.word (u : TreeUnit) (i : Nat) : Word := u.block.getD i 0
/-- STREAM. -/
def TreeUnit.stream (u : TreeUnit) : Nat := bitsOf (u.word 0) 58 56
/-- The number d of weights of a node. -/
def TreeUnit.dim (u : TreeUnit) : Nat := bitsOf (u.word 0) 49 40 + 1
/-- The batch size NB. -/
def TreeUnit.batch (u : TreeUnit) : Nat := u.nbm1 + 1
/-- The bytes of an input element. -/
def TreeUnit.elem (u : TreeUnit) : Nat := if bitOf (u.word 0) 55 then 4 else 2
/-- BOFF, the offset of the bias in a record (R268). -/
def TreeUnit.boff (u : TreeUnit) : Nat := 4 * ((u.dim + 1) / 2)
/-- The address of the record of node n. -/
def TreeUnit.nodeAddr (u : TreeUnit) (n : Nat) : Word := u.word 1 + BitVec.ofNat 64 (n * bitsOf (u.word 2) 63 32)
/-- OUT. -/
def TreeUnit.out (u : TreeUnit) : Word := u.word 5

/-- The input index of a path register (R272). -/
def ptInput (v : BitVec 32) : Nat := bitsOf v 27 20
/-- The path word of a path register. -/
def ptPath (v : BitVec 32) : Nat := bitsOf v 19 0
/-- The node that an input reaches at a level (R268). -/
def TreeUnit.nodeAt (u : TreeUnit) (v : BitVec 32) (t : Nat) : Nat := 2 ^ t - 1 + ptPath v / 2 ^ (u.depth - t)

/-- The executing core's unit replaced. -/
def setTree (s : State) (u : TreeUnit) : State := s.setCo { s.co with tree := u }
/-- Whether another thread set's tr.desc executes (R270). -/
def treeBusy (s : State) : Bool := s.co.tree.state == .descending && s.co.tree.runner != some s.cur
/-- Whether the unit belongs to another launch (R270). -/
def treeForeign (s : State) : Bool := s.co.tree.state != .free && s.co.tree.launch != s.mySeq

/-! ## tr.cfg -/

/-- The checks of R269 that raise 0x23. -/
def treeBlockOk (s : State) (u : TreeUnit) : Bool :=
  bitsOf (u.word 0) 63 60 == 3 && bitsOf (u.word 0) 31 0 == 0 && u.word 6 == 0 && u.word 7 == 0 &&
  1 ≤ u.depth && u.depth ≤ 20 && (u.word 1).toNat % 16 == 0 && bitsOf (u.word 2) 63 32 % 16 == 0 &&
  u.boff + 4 ≤ bitsOf (u.word 2) 63 32 && bitsOf (u.word 2) 31 0 % u.elem == 0 && inOwnWindow s u.out &&
  (!u.rankMode || (u.nbm1 == 0 && (match rxOf s s.myCore u.stream with
    | some r => r.launch == s.mySeq && r.nchan == u.dim
    | none => false)))

/-- A stream given back by the rank-mode descent that holds it. -/
def releaseStream (s : State) (u : TreeUnit) : State :=
  if u.rankMode && u.state != .free then
    match rxOf s s.myCore u.stream with
    | some r => setRx s s.myCore u.stream (some { r with heldByTree := false })
    | none => s
  else s
/-- R423: tr.cfg. -/
def execTrCfg (a : Reg) (s : State) : Host.Outcome State Fault Refusal :=
  issueD (.trCfg a) { rx := [a], mem := some { base := a, off := 0, size := 64, store := false } } (fun m s => do
    let a := rdX s a
    if a.toNat % 64 != 0 || treeForeign s then trapE s 0x23 a
    else if s.co.tree.state == .descending then waitE s
    else
      let (s, bs) ← blockRead s m a 64
      let old := s.co.tree
      let u : TreeUnit := { block := leWords 8 bs, launch := s.mySeq, state := .configured, pt := List.replicate 256 0
                            err := old.err, bound := old.bound, nan := old.nan }
      if !treeBlockOk (myForget s) u then trapE (myForget s) 0x23 a
      else
        match localKey s s.cur u.out (16 * u.batch) with
        | .error c => trapE (myForget s) c u.out
        | .ok _ => if s.co.tree.state == .descending then waitE s else .ok (setTree (releaseStream (myForget s) s.co.tree) u)) s

/-! ## Node sums (R271) -/

/-- The weights and the bias of a record. -/
def TreeUnit.weights (u : TreeUnit) (rec_ : List Byte) : List Nat × Nat :=
  (unitsOf u.dim 2 rec_, leNat ((rec_.drop u.boff).take 4))
/-- The sum of a node for an input. -/
def nodeSum (ws : List Nat) (bias : Nat) (xs : List FVal) : Nat :=
  (List.zip ws xs).foldl (fun acc p => (Fmt.f32.lane 0 0 ((Fmt.bf16.value p.1).fma p.2 (Fmt.f32.value acc) false)).1) bias
/-- The decision bit of a sum that is no NaN. -/
def sumBit (v : Nat) : Nat := if (Fmt.f32.value v).lt (.fin false 0 0) then 0 else 1

/-- The decisions of the positions of a level from the records and inputs as they read now (R273): (position's register, bit), in
order. The record of a node is read once for its run. -/
def levelBits (s : State) (m : Mask) (x : Word) (u : TreeUnit) (t : Nat) (last : Option (Nat × List Byte)) (l : List (BitVec 32)) :
    Except Stop (State × List (BitVec 32 × Nat)) :=
  match l with
  | [] => .ok (s, [])
  | v :: rest => do
    let n := u.nodeAt v t
    let (s, rec_) ← (match last with
      | some (k, bs) => if k = n then .ok (s, bs) else blockRead s m (u.nodeAddr n) (u.boff + 4)
      | none => blockRead s m (u.nodeAddr n) (u.boff + 4))
    let (s, xb) ← blockRead s m (x + BitVec.ofNat 64 (ptInput v * bitsOf (u.word 2) 31 0)) (u.dim * u.elem)
    let (ws, bias) := u.weights rec_
    let f := if u.elem = 4 then Fmt.f32 else Fmt.bf16
    let sum := nodeSum ws bias ((unitsOf u.dim u.elem xb).map f.value)
    if (Fmt.f32.value sum).isNan then
      trapE (setTree s { s.co.tree with nan := true, err := BitVec.ofNat 64 (ptInput v * 2 ^ 21 + n) }) 0x43
    else
      let (s, more) ← levelBits s m x u t (some (n, rec_)) rest
      .ok (s, (v, sumBit sum) :: more)

/-- The number of distinct values of a list in which equal ones stand together. -/
def distinctRuns (l : List Nat) : Nat :=
  match l with
  | [] => 0
  | a :: rest => (match rest with | b :: _ => if a = b then 0 else 1 | [] => 1) + distinctRuns rest

/-- A level completed (R272, R273): the decisions enter the path words and the registers are put in order, stably. -/
def TreeUnit.applyLevel (u : TreeUnit) (t : Nat) (ds : List (BitVec 32 × Nat)) : TreeUnit :=
  let pt := sortBy (fun a b => decide (ptPath a ≤ ptPath b)) (ds.map (fun p => p.1 ||| BitVec.ofNat 32 (p.2 * 2 ^ (u.depth - 1 - t))))
  let n := distinctRuns (ds.map (fun p => u.nodeAt p.1 t))
  { u with pt := pt ++ List.replicate (256 - pt.length) 0, lvl := t + 1, groups := n, fetch := u.fetch + n, node := [], acc := none }

/-! ## Rank mode (R275) -/

/-- Whether a node sum is decided (R258, R275). -/
def nodeDecided (r : RxStream) (y : BitVec 32) (m : Nat) : Bool :=
  match Fmt.f32.value y.toNat with
  | .nan _ => false
  | .inf _ => true
  | v => (plus (Fmt.f32.value (r.bound_ m)) (.fin false 1 (-139))).lt (plus v.abs (eps12 v.abs).neg)

/-- The fold of one node from the ranked arrivals: a decision, or a wait. `fuel` bounds the arrivals. [DEDUCED, unsafe: log 90] -/
def rankNode (fuel : Nat) (s : State) (n : Nat) (r : RxStream) (ws : List Nat) : Except Stop (State × Nat) :=
  match fuel with
  | 0 => waitE s
  | k + 1 =>
    let u := s.co.tree
    let (y, m) := u.acc.getD (0, 0)
    let w := r.wave r.fold
    if nodeDecided r y m then
      .ok (setTree s { u with early := if w.closed then u.early else u.early + 1 }, sumBit y.toNat)
    else
      match (w.ranked.take r.len)[m]? with
      | some e =>
        let wt := Fmt.bf16.value (ws.getD e.chan 0)
        if (Fmt.f32.value (bitsOf (r.word 1) 31 0)).lt wt.abs then
          trapE (setTree s { u with bound := true, err := BitVec.ofNat 64 n }) 0x42
        else rankNode k (setTree s { u with acc := some (foldOne y (r.seq.getD m 0) e.sign wt, m + 1), folds := u.folds + 1 }) n r ws
      | none =>
        if !w.closed then waitE s
        else if (Fmt.f32.value y.toNat).isNan then trapE (setTree s { u with nan := true, err := BitVec.ofNat 64 n }) 0x43
        else .ok (s, sumBit y.toNat)

/-- A level in rank mode: the record is read once and kept until the level ends. -/
def rankLevel (s : State) (m : Mask) (t : Nat) : Except Stop (State × List (BitVec 32 × Nat)) := do
  let u := s.co.tree
  let v := u.pt.headD 0
  let n := u.nodeAt v t
  match rxOf s s.myCore u.stream with
  | none => trapE s 0x23
  | some r =>
    let (s, rec_) ← (if u.node.isEmpty then blockRead s m (u.nodeAddr n) (u.boff + 4) else .ok (s, u.node))
    let (ws, bias) := u.weights rec_
    let s := setTree s { s.co.tree with node := rec_, acc := some (u.acc.getD (BitVec.ofNat 32 bias, 0)) }
    let (s, b) ← rankNode ((r.wave r.fold).ranked.length + 2) s n r ws
    .ok (s, [(v, b)])
/-- The arrivals of rank L and above, counted when level 0 completes (R275). -/
def countBeyond (s : State) : State :=
  match rxOf s s.myCore s.co.tree.stream with
  | none => s
  | some r =>
    let w := r.wave r.fold
    let n := w.ranked.length - r.len
    let s := setRx s s.myCore s.co.tree.stream (some (r.setWave r.fold { w with beyond := w.beyond + n }))
    s.setTh { s.th with rk := { s.th.rk with beyond := s.th.rk.beyond + BitVec.ofNat 64 n } }
/-- The wave that a rank-mode descent has used is given up (R275). -/
def useUpWave (s : State) (i : Nat) : State :=
  match rxOf s s.myCore i with
  | none => s
  | some r =>
    let r := { r with heldByTree := false }
    if r.fold < r.closed then setRx s s.myCore i (some ({ r with tcount := 0 }.nextWave.trim))
    else
      let s := setRx s s.myCore i (some { r with state := .discard, tcount := 0 })
      rxSettle (rxFuel s s.myCore i) s s.myCore i

/-! ## tr.desc (R273, R274) -/

/-- The level in progress is discarded and the unit is Partial (R274). -/
def partialTree (s : State) : State := myForget (abandonTree s s.cur)
/-- A stop of a descent: a trap leaves the unit Partial. -/
def descStop {α : Type} (r : Except Stop α) : Except Stop α :=
  match r with
  | .error (.trap s c a) => .error (.trap (partialTree s) c a)
  | x => x

/-- The levels from TR.LVL on, then the leaf list. `fuel` bounds the levels. -/
def descLoop (fuel : Nat) (s : State) (m : Mask) (x : Word) : Eff :=
  match fuel with
  | 0 => waitE s
  | k + 1 => do
    let u := s.co.tree
    if u.lvl < u.depth then
      let t := u.lvl
      let (s, ds) ← descStop (if u.rankMode then rankLevel s m t else levelBits s m x u t none (u.pt.take u.batch))
      let s := if u.rankMode && t == 0 then countBeyond s else s
      descLoop k (setTree (myForget s) (s.co.tree.applyLevel t ds)) m x
    else
      let bs := (u.pt.take u.batch).flatMap (fun v =>
        natBytes 8 (u.word 3 + BitVec.ofNat 64 (ptPath v) * u.word 4).toNat ++ natBytes 8 v.toNat)
      let s ← descStop (ownWrite s m u.out bs)
      let s := setTree s { s.co.tree with state := .done, runner := none }
      .ok (if u.rankMode then useUpWave s u.stream else s)

/-- The stream of a rank-mode descent taken at its start, as rk.fold takes one (R275, R415). -/
def holdStream (s : State) (u : TreeUnit) : Except Stop State :=
  if !u.rankMode then .ok s
  else
    match rxOf s s.myCore u.stream with
    | none => trapE s 0x23
    | some r =>
      if r.heldByTree then .ok s
      else if r.state != .open || decide (r.closed < r.fold) then waitE s
      else .ok (setRx s s.myCore u.stream (some { r with heldByTree := true }))

/-- The effect of tr.desc. -/
def trDescEff (s : State) (m : Mask) (x : Word) : Eff := do
  let u := s.co.tree
  if treeBusy s then waitE s
  else if u.state = .free || treeForeign s then trapE s 0x23
  else if x.toNat % u.elem != 0 then trapE s 0x23 x
  else if u.state = .done then .ok s
  else
    let s ← holdStream s u
    let u := if u.state = .configured then
        { u with pt := (List.range 256).map (fun j => if j < u.batch then BitVec.ofNat 32 (j * 2 ^ 20) else 0) }
      else u
    descLoop (u.depth + 1) (setTree s { u with state := .descending, runner := some s.cur }) m x
/-- R423: tr.desc. -/
def execTrDesc (a : Reg) (s : State) : Host.Outcome State Fault Refusal :=
  issueD (.trDesc a) { rx := [a], mem := some { base := a, off := 0, size := 16, store := true, wide := true }, afterStores := true } (fun m s => trDescEff s m (rdX s a)) s

/-! ## tr.path, tr.bwd (R278, R279) -/

/-- R423: tr.path. [DEDUCED, unsafe: log 128] -/
def execTrPath (d a : Reg) (s : State) : Host.Outcome State Fault Refusal :=
  issueD (.trPath d a) { rx := [a], wx := [d], noMask := true } (fun _ s =>
    let u := s.co.tree
    if u.state = .descending then waitE s
    else if u.state = .free || treeForeign s then .ok (wrX s {} d 0)
    else
      let j := bitsOf (rdX s a) 7 0
      .ok (wrX s {} d (if j < u.batch then (u.pt.getD j 0).zeroExtend 64 else 0))) s

/-- R423: tr.bwd. -/
def execTrBwd (d a b : Reg) (s : State) : Host.Outcome State Fault Refusal :=
  issueD (.trBwd d a b) { rx := [a, b], wx := [d], mem := some { base := a, off := 0, size := 1024, store := true }, noMask := true } (fun m s => do
    let u := s.co.tree
    if u.state = .descending then waitE s
    else if u.state = .free || treeForeign s then trapE s 0x23
    else
      let t := (rdX s b).toNat
      if u.lvl < t then trapE s 0x23
      else if (rdX s a).toNat % 4 != 0 then trapE s 0x23 (rdX s a)
      else
        let vs := u.pt.take u.batch
        let bs := vs.flatMap (fun v => natBytes 4 (ptInput v * 2 ^ 21 + u.nodeAt v t))
        let s ← ownWrite s m (rdX s a) bs
        .ok (wrX s {} d (BitVec.ofNat 64 (distinctRuns (vs.map (fun v => u.nodeAt v t)))))) s

end Sys2Proof.Machine
end

