-- ==== Sys2Proof/Machine/Context.lean ====
section
/-! DEFINITION. Machine/Context.lean: the context area (R291, R292), the stop, save and restore of a context (R293 to R297, R451), and
ctx.save and ctx.load (R434, R435). -/
namespace Sys2Proof.Machine

/-! ## Who belongs to a context -/

/-- The launches of a context that have been admitted. -/
def residents (s : State) (c : Nat) : List Launch := s.launches.filter (fun l => l.ctx == c && l.admitted)
/-- The thread sets that a launch uses. -/
def Launch.tids (l : Launch) : List Nat := l.cores.flatMap (fun a => a.ts.map (fun t => 4 * a.core + t))
/-- The thread sets of a context. -/
def ctxTids (s : State) (c : Nat) : List Nat := (residents s c).flatMap Launch.tids
/-- Whether a core holds unsaved state of a context whose save has failed: it issues nothing and its engines stand (R297). -/
def coreFrozen (s : State) (g : Nat) : Bool :=
  s.launches.any (fun l => l.admitted && (s.ctx l.ctx).save == .saveFailed && (l.onCore g).isSome)

/-- Whether two ranges of a size each share a unit. -/
def overlap (a n b m : Nat) : Bool := decide (a < b + m) && decide (b < a + n)
/-- Whether two launches claim a TCM page, a tile, a thread set or a scratchpad unit of one core or cluster. -/
def clash (l m : Launch) : Bool :=
  l.cores.any (fun a => m.cores.any (fun b => a.core == b.core &&
    (overlap a.tcm l.tcmu b.tcm m.tcmu || overlap a.tile l.acct b.tile m.acct || a.ts.any (fun t => b.ts.contains t)))) ||
  l.clusters.any (fun a => m.clusters.any (fun b => a.cluster == b.cluster && overlap a.spad l.spu b.spad m.spu))

/-! ## Identifiers and their clusters (R102) -/

/-- The widths of the levels below one. -/
def Launch.below (l : Launch) (v : Nat) : Nat := ((List.range 6).map (fun i => if v < i then l.width i else 0)).foldl (· + ·) 0
/-- By how many bits an identifier is shifted to find its cluster (R102). -/
def Launch.clusterShift (l : Launch) : Nat := if l.clvl = 7 then 6 else l.below l.clvl
/-- The least identifier from one on that is placed in a used cluster. -/
def Launch.nextFor (l : Launch) (c id : Nat) : Option Nat :=
  let sh := l.clusterShift
  let key := id / 2 ^ sh
  let k := c - l.clbase
  let n := if key % l.clcount = k then id else (key + (k + l.clcount - key % l.clcount) % l.clcount) * 2 ^ sh
  if n < l.nitems then some n else none

/-! ## The low-water mark (R196) -/

/-- The lesser of two timestamps. -/
def tsMin (a b : Nat × Nat) : Nat × Nat := if tsLe a b then a else b
/-- The timestamps of a launch's uncommitted activations. -/
def actStamps (s : State) (n : Nat) : List (Nat × Nat) :=
  s.threads.filterMap (fun p => match p.2.act with | some a => if a.launch == n then some a.record.ts else none | none => none)
/-- The low-water mark of a launch: the least timestamp of its activations, queued, parked and pool records, records to be replayed, pool
items, undealt items, and held records; one that the release will refuse for its lower phase (R119) is none of them.
[DEDUCED, unsafe: log 25] -/
def lowWater (s : State) (l : Launch) : Option (Nat × Nat) :=
  let n := l.seq
  let queued := s.cores.flatMap (fun p => (tget p.2.deques n []).map Record.ts)
  let parked := s.cores.flatMap (fun p => (p.2.waiters.filter (fun w => w.launch == n)).map (fun w => w.record.ts))
  let pooled := l.poolRecords.flatMap (fun p => p.2.map Record.ts)
  let items := l.clusters.flatMap (fun a =>
    ((tget l.pools a.cluster []).take 1 ++ (match l.nextFor a.cluster (tget l.next a.cluster 0) with | some i => [i] | none => [])).map
      (fun i => ((0 : Nat), i)))
  let held := s.threads.flatMap (fun p => match p.2.act with
    | some a => if a.launch != n then [] else a.held.filterMap (fun h => match h with
        | .record r _ _ _ => if a.record.phase ≤ r.phase then some r.ts else none
        | _ => none)
    | none => [])
  match actStamps s n ++ queued ++ parked ++ pooled ++ l.replayRecords.map (fun r => r.2.ts) ++ items ++ held with
  | [] => none
  | x :: r => some (r.foldl tsMin x)

/-! ## Bytes of the area -/

/-- A word of the header written (R291). -/
def headerPut (s : State) (c off v : Nat) : State := memWrite s (areaBase (s.ctx c) + off) (natBytes 8 v)
/-- n bytes moved from a key to another; the target is written whole. -/
def moveBytes (s : State) (k k' n : Nat) : State :=
  let far := decide (k + n ≤ epochSpan) && decide (k' + n ≤ epochSpan)
  let m := if far then
      (s.mem.filter (fun c => k ≤ c.1 && c.1 < k + n)).foldl (fun m c => memPut m (k' + (c.1 - k)) c.2) (memZero s.mem k' n)
    else memPuts s.mem k' (memGets s.mem k n)
  { s with mem := m, poison := s.poison.filter (fun u => !(k' ≤ u && u + (unitOf u).2 ≤ k' + n)) }

/-! ## Stopping (R293, R295, R296, R451) -/

/-- A thread set at its instruction boundary: an instruction that waits is abandoned, a sleep has ended, following ends. A ctx.load whose
restore has begun keeps the mark of it: executed again, it reports that restore (R435). -/
def stopThread (t : Thread) (restoring : Bool) : Thread :=
  { t with
    run := match t.run with | .sleepWait _ => .running | .sleepAny _ _ => .running | .sleepCount => .running | r => r
    anyList := none, anyOver := false, mark := if restoring then t.mark else none, fol := none, hold := false
    window := t.window.map (fun e => { e with begun := false }) }
/-- The context whose restore the ctx.load of a thread set waits for. -/
def loadsCtx (t : Thread) : Option Nat := match t.mark with | some (9, c, _) => some c | _ => none
/-- The address of the tr.desc or ctx.load that a thread set executes, or of the dbg.stop that holds it: a pre-emption leaves EPC there
(R277, R435, R440), outside a handler, whose EPC stays (R294). [DEDUCED, unsafe: log 55] -/
def stopEpc (s : State) (tid : Nat) : Option Word :=
  let t := s.thread tid
  let u := (s.core (coreOf tid)).tree
  if (launchOf s tid).any (fun l => t.kernel && !l.kernel) then none
  else if u.state == .descending && u.runner == some tid then
    some ((t.window.find? (fun e => match e.instr with | .trDesc _ => true | _ => false)).elim t.pc (fun e => e.pc))
  else if (t.stopHeld && s.dbg.stop.any (fun x => x.tid == tid && x.code == 0x72)) || (loadsCtx t).isSome then some t.pc
  else none

/-- An activation aborted (R198): its buffer and what it holds are discarded, its tokens given back, its original record goes to the head
of its deque, in a serial replay to the head of what is to be replayed (R85). -/
def abortActivation (s : State) (tid : Nat) : State :=
  match (s.thread tid).act with
  | none => s
  | some a =>
    let s := suspendGive s tid
    let s := { s with far := s.far.map (fun (f : Far) => if f.tid == tid then { f with dest := .none } else f) }
    let s := match s.launch a.launch with
      | some l =>
        if l.phaseState = .replay then s.setLaunch { l with replayRecords := (coreOf tid, a.record) :: l.replayRecords }
        else putHead s (coreOf tid) a.launch a.record
      | none => s
    goIdle s tid

/-- Whether a thread set's activation is aborted by a pre-emption (R296). -/
def abortable (s : State) (tid : Nat) : Bool :=
  inOrdered s tid && (match (s.thread tid).act with | some a => !a.irrevocable && !a.commitDone | none => false) &&
  (match (s.thread tid).run with | .committing _ => false | .idle => false | _ => true)

/-- A thread set of a context stopped: a restore that its ctx.load waits for and that has not begun is asked for no more. -/
def stopOne (s : State) (tid : Nat) : State :=
  let g := coreOf tid
  let epc := (stopEpc s tid).getD (s.thread tid).epc
  let begun := (loadsCtx (s.thread tid)).any (fun c => (s.ctx c).save != .saved)
  let s := match loadsCtx (s.thread tid) with
    | some c => if begun then s else s.setCtx c { s.ctx c with restoreWanted := false }
    | none => s
  let s := (forgetMisses s tid).setThread tid { stopThread (s.thread tid) begun with epc := epc }
  let s := abandonTree { s with far := s.far.filter (fun f => !(f.tid == tid && f.own && f.kind == .load)) } tid
  let c := s.core g
  let s := s.setCore g { c with
    rx := c.rx.map (fun r => r.map (fun (x : RxStream) =>
      if x.folder == some tid && x.state == .folding then { x with state := .suspended } else x))
    tiles := c.tiles.map (fun (t : Tile) => { t with waiters := t.waiters.filter (fun w => w.1 != tid) }) }
  if abortable s tid then abortActivation s tid else s

/-- The save of a context begins: Stopping. -/
def beginSave (s : State) (c : Nat) : State :=
  let s := (ctxTids s c).foldl stopOne (s.setCtx c { s.ctx c with save := .stopping })
  (ctxTids s c).foldl detachFollowers s

/-- Whether a thread set of a context that stops still has to finish the instruction at an address: a store or atomic of it has left
(R451). [DEDUCED, unsafe: log 56] -/
def finishing (s : State) (tid : Nat) : Option Word :=
  (s.far.find? (fun f => f.tid == tid && f.own && f.kind != .load)).map (fun f => f.pc)
/-- Whether an engine of a core is within a unit of work. -/
def unitOpen (s : State) (g q : Nat) : Bool := s.far.any (fun f => f.tid == unitTid g q) || (queueOf s g q).running.any (fun e => e.part != 0)
/-- Whether a context's thread sets and engines go on: its context is Running. -/
def ctxRuns (s : State) (c : Nat) : Bool := (s.ctx c).save == .running

/-- Whether everything of a context has reached its boundary (R293): an activation in Committing completes its commit before it stops
(R296); `late` says that 20 µs have passed. [DEDUCED, unsafe: log 27] -/
def ctxAtRest (s : State) (c : Nat) (late : Bool) : Bool :=
  let ts := ctxTids s c
  ts.all (fun t =>
    (match (s.thread t).run with | .committing _ => false | _ => true) &&
    (match (s.thread t).act with | some a => !a.commitDone | none => true) && (finishing s t).isNone &&
    !s.far.any (fun f => f.tid == t && (match f.kind with | .atomic _ _ _ _ => true | .forward _ => true | .load => !late | _ => false))) &&
  (residents s c).all (fun l => l.cores.all (fun a => [0, 1].all (fun q =>
    match (queueOf s a.core q).running with
    | some e => e.launch != l.seq || !unitOpen s a.core q
    | none => true)))

/-- A slot that waits for an access is abandoned. -/
def Slot.abandon : Slot → Slot
  | .outstanding n => .abandoned n
  | x => x
/-- An abandoned slot is outstanding again. -/
def Slot.reissue : Slot → Slot
  | .abandoned n => .outstanding n
  | x => x

/-- Stopping ends: the loads still outstanding are abandoned; data that arrives for one is discarded (R294). [DEDUCED, unsafe: log 55] -/
def ctxStopped (s : State) (c : Nat) : State :=
  let ts := ctxTids s c
  let out := fun (f : Far) => ts.contains f.tid && f.kind == .load
  let gone := s.far.filter out
  let s := { s with
    far := s.far.filter (fun f => !out f)
    fabric := { s.fabric with requests := s.fabric.requests.map (fun (r : Request) =>
      match r.access with
      | some id => if gone.any (fun f => f.id == id) then { r with access := none } else r
      | none => r) }
    threads := tmap s.threads (fun k (t : Thread) => if ts.contains k then { t with slots := t.slots.map Slot.abandon } else t) }
  s.setCtx c { s.ctx c with save := .writing, abandoned := gone }

/-! ## Writing, Saved (R293, R297) -/

/-- The moves of local memory between a launch's allotments and its image: (local key, image key, bytes). -/
def imageMoves (s : State) (l : Launch) : List (Nat × Nat × Nat) :=
  l.cores.map (fun a => (tcmKey a.core (a.tcm * 4096), imageBase s l + l.coreOff a.core + 81920 + 4096 * (l.tsets + l.acct), l.tcmu * 4096)) ++
  l.clusters.map (fun a => (spadKey s a.cluster (a.spad * 65536), imageBase s l + l.clusterOff a.cluster + 4096, l.spu * 65536))
/-- Whether some unit of a key range has an uncorrectable error. -/
def poisoned (s : State) (k n : Nat) : Bool := s.poison.any (fun u => decide (u < k + n) && decide (k < u + (unitOf u).2))
/-- The parts of a launch's image beside its local memories, as (key, bytes): its own, those that hold registers, tiles and queues, the
buffered events, those of its clusters. -/
def imageBlocks (s : State) (l : Launch) : List (Nat × Nat) :=
  let b := imageBase s l
  (b, 16384) :: l.cores.flatMap (fun a =>
    [(b + l.coreOff a.core, 81920 + 4096 * (l.tsets + l.acct)),
     (b + l.coreOff a.core + 81920 + 4096 * (l.tsets + l.acct + l.tcmu), 4096 * ((l.evsh + 1023) / 1024))]) ++
  l.useClusters.map (fun c => (b + l.clusterOff c, 4096))
/-- Whether an image cannot be read back without an uncorrectable error. -/
def imageBad (s : State) (l : Launch) : Bool :=
  (imageBlocks s l).any (fun b => poisoned s b.1 b.2) || (imageMoves s l).any (fun m => poisoned s m.2.1 m.2.2)
/-- The launches of a context, admitted or not. -/
def ctxLaunches (s : State) (c : Nat) : List Launch := s.launches.filter (fun l => l.ctx == c)
/-- The device barriers that a context holds. -/
def heldBarriers (s : State) (c : Nat) : List Nat := (s.devBarriers.filter (fun p => p.2.holder == some c)).map (fun p => p.1)
/-- Whether something that a restore of a context reads has an uncorrectable error: an image, or a barrier in the header (R291). -/
def restoreBad (s : State) (c : Nat) : Bool :=
  (ctxLaunches s c).any (imageBad s) || (heldBarriers s c).any (fun i => poisoned s (areaBase (s.ctx c) + 0x1000 + 64 * i) 64)
/-- The keys of the thread sets with a register error and no copy, and of the tiles with an error, that a launch has on a core. -/
def coreErrors (s : State) (l : Launch) (a : CoreAllot) : List Nat :=
  let b := imageBase s l + l.coreOff a.core + 81920
  a.ts.zipIdx.filterMap (fun t => if (s.thread (4 * a.core + t.1)).bad != 0 && !copyOf s (4 * a.core + t.1) then some (b + 4096 * t.2) else none) ++
  (List.range l.acct).filterMap (fun i => if (tileOf s a.core (a.tile + i)).bad.isEmpty then none else some (b + 4096 * (l.tsets + i)))
/-- Where in its image a launch cannot be saved, as keys: a block of the area with an uncorrectable error, a thread set with a register
error and no copy, a tile with an error, local memory with an error (R297, R299). -/
def imageErrors (s : State) (l : Launch) : List Nat :=
  ((imageBlocks s l).filter (fun b => poisoned s b.1 b.2)).map (fun b => b.1) ++
  l.cores.flatMap (coreErrors s l) ++
  (imageMoves s l).filterMap (fun m => if poisoned s m.1 m.2.2 || poisoned s m.2.1 m.2.2 then some m.2.1 else none)
/-- The offset in the area of the first part that an uncorrectable error keeps from being written, if any (R297).
[DEDUCED, unsafe: log 125] -/
def saveError (s : State) (c : Nat) : Option Nat :=
  let b := areaBase (s.ctx c)
  if poisoned s b 0x10000 then some 0
  else ((ctxLaunches s c).flatMap (imageErrors s)).foldl (fun o k => some (match o with | some n => min n (k - b) | none => k - b)) none
/-- The registers of a thread set whose errors are repaired from their copies, and counted (R299). -/
def repairAll (s : State) (tid : Nat) : State :=
  let t := s.thread tid
  let s := s.setThread tid { t with bad := 0 }
  let c := s.core (coreOf tid)
  s.setCore (coreOf tid) { c with regRep := c.regRep + BitVec.ofNat 64 ((List.range 64).filter (fun k => t.bad.getLsbD k)).length }

/-- What a launch leaves in a core's image. [DEDUCED, unsafe: log 57] -/
def saveCore (s : State) (g : Nat) (seqs : List Nat) : SavedCore :=
  let c := s.core g
  let mine := fun (n : Nat) => seqs.contains n
  let es := fun (q : EngQueue) => q.all.filter (fun e => mine e.launch)
  let allots := s.launches.filterMap (fun l => if mine l.seq then (l.onCore g).map (fun a => (a.tile, l.acct)) else none)
  { core := g
    tiles := (List.range 8).filterMap (fun t => if allots.any (fun a => a.1 ≤ t && t < a.1 + a.2) then some (t, tileOf s g t) else none)
    shapes := (List.range 32).filterMap (fun i => match c.shapes.toList.getD i none with | some x => if mine x.launch then some (i, x) else none | none => none)
    table := match c.table with | some t => if mine t.launch then some t else none | none => none
    streams := (List.range 4).filterMap (fun i => match c.streams.toList.getD i none with
      | some u => (match launchOf s u.owner with | some l => if mine l.seq then some (i, { u with ahead := [] }) else none | none => none)
      | none => none)
    tree := if mine c.tree.launch && c.tree.state != .free then some c.tree else none
    mq := es c.mq, cq := es c.cq }

/-- A core without what belongs to some launches: its receive streams go on in `rxSaved`. -/
def releaseCore (s : State) (g : Nat) (k : SavedCore) (seqs : List Nat) : State :=
  let c := s.core g
  let mine := fun (n : Nat) => seqs.contains n
  let out := fun (q : EngQueue) =>
    let keep := fun (o : Option Entry) => match o with | some e => if mine e.launch then none else some e | none => none
    { queued := q.queued.filter (fun e => !mine e.launch), running := keep q.running, paused := keep q.paused
      writeback := q.writeback.filter (fun e => !mine e.launch) : EngQueue }
  let moved := (List.range 8).filterMap (fun i => match c.rx.toList.getD i none with
    | some r => if mine r.launch then some (8 * r.launch + 8 + i, { r with folder := none }) else none
    | none => none)
  s.setCore g { c with
    tiles := k.tiles.foldl (fun ts p => ts.setIfInBounds p.1 {}) c.tiles
    shapes := k.shapes.foldl (fun xs p => xs.setIfInBounds p.1 none) c.shapes
    table := if k.table.isSome then none else c.table
    streams := k.streams.foldl (fun xs p => xs.setIfInBounds p.1 none) c.streams
    tree := if k.tree.isSome then {} else c.tree
    mq := out c.mq, cq := out c.cq
    rx := c.rx.map (fun r => match r with | some x => if mine x.launch then none else r | none => none)
    rxSaved := moved.foldl (fun t p => tset t p.1 p.2) c.rxSaved }

/-- The bytes of a resident launch's image written. -/
def writeImages (s : State) (x : Ctx) (l : Launch) : State :=
  let s := l.cores.foldl (fun s a =>
    let b := imageBase s l + l.coreOff a.core
    let s := memWrite s b (coreBlock s l a.core)
    let s := imageStreams s l a.core ((List.range 8).filterMap (fun i => match (s.core a.core).rx.toList.getD i none with
      | some r => if r.launch == l.seq then some (i, r) else none
      | none => none))
    let s := (List.range l.acct).foldl (fun s i => memWrite s (b + 81920 + 4096 * (l.tsets + i)) (tileBytes (tileOf s a.core (a.tile + i)))) s
    a.ts.zipIdx.foldl (fun s t =>
      let th := s.thread (4 * a.core + t.1)
      memWrite s (b + 81920 + 4096 * t.2) (threadImage x.abandoned th (if th.run = .frozen then bitsOf th.cause 6 0 else 0x71))) s) s
  (imageMoves s l).foldl (fun s m => moveBytes s m.1 m.2.1 m.2.2) s

/-- The peer slots in the header (R291). -/
def slotWords (x : Ctx) : List Byte :=
  x.slots.toList.flatMap (fun p => natBytes 8 (p.dev.toNat + (if p.used then 2 ^ 15 else 0) + (if p.sticky then 2 ^ 16 else 0)))

/-- Every image of a context and its barriers written to its area. -/
def writeArea (s : State) (c : Nat) : State :=
  let s := (ctxLaunches s c).foldl imageLaunch s
  let s := (residents s c).foldl (fun s l => writeImages s (s.ctx c) l) s
  (heldBarriers s c).foldl (fun s i => imageBarrier s c i) s
/-- Of what has been written to the memory of a state, only that below a key. -/
def writtenBelow (s t : State) (k : Nat) : State :=
  { s with mem := t.mem.filter (fun c => decide (c.1 < k)) ++ s.mem.filter (fun c => decide (k ≤ c.1))
           poison := t.poison.filter (fun u => decide (u < k)) ++ s.poison.filter (fun u => decide (k ≤ u)) }

/-- Writing ends: Saved. -/
def ctxWritten (s : State) (c : Nat) : State :=
  let ls := residents s c
  let seqs := ls.map (fun l => l.seq)
  let ts := ctxTids s c
  let gs := (ls.flatMap (fun l => l.cores.map (fun a => a.core))).eraseDups
  let s := (ts.filter (fun t => (s.thread t).bad != 0)).foldl repairAll s
  let s := writeArea s c
  let x := s.ctx c
  let kept := gs.map (fun g => saveCore s g seqs)
  let img : SavedCtx := { threads := ts.map (fun t => (t, s.thread t)), cores := kept, loads := x.abandoned }
  let s := kept.foldl (fun s k => releaseCore s k.core k seqs) s
  let s := { s with
    threads := tmap s.threads (fun k (t : Thread) => if ts.contains k then { instret := t.instret } else t)
    far := s.far.map (fun (f : Far) => if ts.contains f.tid then { f with tid := f.tid + savedTid } else f)
    wakes := s.wakes.filter (fun t => !ts.contains t) }
  let s := s.setCtx c { x with save := .saved, image := some img, abandoned := [], saves := x.saves + 1 }
  let s := settleHash s (ls.flatMap (fun l => l.clusters.map (fun a => a.cluster)))
  memWrite (headerPut (headerPut s c 0x10 1) c 0x18 (x.saves + 1)) (areaBase x + 0x100) (slotWords x)

/-- Writing fails (R297): the area is written up to the part that failed, FAILOFF and STATE in the header, 0x62 to the host, vector 0; the
cores stand frozen. A register or tile error that is met is counted (R299). -/
def ctxFailed (s : State) (c off : Nat) : State :=
  let met := (residents s c).flatMap (fun l => (l.cores.filter (fun a => (coreErrors s l a).contains (areaBase (s.ctx c) + off))).map (fun a => a.core))
  let s := met.foldl (fun s g => s.setCore g { s.core g with regUe := (s.core g).regUe + 1 }) s
  let s := writtenBelow s (writeArea s c) (areaBase (s.ctx c) + off)
  let s := headerPut (headerPut s c 0x20 off) c 0x10 2
  raiseVector (s.setCtx c { s.ctx c with save := .saveFailed, saveFailed := true, status := 0x62 }) c 0

/-! ## Restoring (R293, R294, R295) -/

/-- Whether everything that a Saved context needs on its cores and in its clusters is free. [DEDUCED, unsafe: log 54] -/
def restoreFree (s : State) (c : Nat) : Bool :=
  match (s.ctx c).image with
  | none => false
  | some img =>
    (residents s c).all (fun l => s.launches.all (fun m => !(m.ctx != c && m.holds s && clash l m))) &&
    img.cores.all (fun k =>
      k.shapes.all (fun p => ((s.core k.core).shapes.toList.getD p.1 none).isNone) && (k.table.isNone || (s.core k.core).table.isNone) &&
      k.streams.all (fun p => ((s.core k.core).streams.toList.getD p.1 none).isNone) && (k.tree.isNone || (s.core k.core).tree.state == .free) &&
      (s.core k.core).rxSaved.all (fun p => !((residents s c).any (fun l => l.seq == p.2.launch)) ||
        ((s.core k.core).rx.toList.getD (p.1 % 8) none).isNone))

/-- The waiters of a core with those of a launch as its image has them, from the i-th on. -/
def waitersBack (s : State) (seq k i : Nat) (ws : List Waiter) : List Waiter :=
  match ws with
  | [] => []
  | w :: r => if w.launch == seq then waiterFrom s seq (k + 72 * i) :: waitersBack s seq k (i + 1) r else w :: waitersBack s seq k i r
/-- What a save has kept of a core for a launch, as the launch's image now has it. -/
def coreFrom (s : State) (l : Launch) (k : SavedCore) : SavedCore :=
  match l.onCore k.core with
  | none => k
  | some a =>
    let b := imageBase s l + l.coreOff k.core
    let word := fun (o : Nat) => leNat (memRead s (b + o) 8)
    let mine := fun (es : List Entry) (o : Nat) => if es.all (fun e => e.launch == l.seq) then entriesBack s (b + o) es else es
    { k with
      tiles := k.tiles.map (fun p => if a.tile ≤ p.1 && p.1 < a.tile + l.acct then
        (p.1, tileFrom p.2 (memRead s (b + 81920 + 4096 * (l.tsets + (p.1 - a.tile))) 4096) (word (0x800 + 8 * (p.1 - a.tile)))) else p)
      shapes := k.shapes.map (fun p => if p.2.launch == l.seq then
        (p.1, { p.2 with desc := BitVec.ofNat 256 (leNat (memRead s (b + 0xC00 + 32 * p.1) 32)) }) else p)
      table := k.table.map (fun t => if t.launch == l.seq then { t with codes := (unitsOf 256 4 (memRead s (b + 0x1000) 1024)).map (BitVec.ofNat 19) } else t)
      tree := k.tree.map (fun u => if u.launch == l.seq then treeFrom u (memRead s (b + 0x1400) 0x480) else u)
      streams := k.streams.map (fun p => if (launchOf s p.2.owner).any (fun m => m.seq == l.seq) then
        (p.1, streamUnitFrom p.2 (memRead s (b + 0x880 + 0x80 * p.1) 0x80)) else p)
      mq := mine k.mq 0, cq := mine k.cq 0x400 }
/-- A launch's records as its image has them: its own part, its on-core deque entries, its waiters (R124). -/
def recordsBack (s : State) (l : Launch) : State :=
  let l := launchFrom s l
  l.cores.foldl (fun s a =>
    let b := imageBase s l + l.coreOff a.core
    let on := onCoreOf s a.core l.seq
    let s := setDeque s a.core l.seq (recordsAt s (b + 0x2000) on ++ (dequeOf s a.core l.seq).drop on) on
    s.setCore a.core { s.core a.core with waiters := waitersBack s l.seq (b + 0x3000) 0 (s.core a.core).waiters }) (s.setLaunch l)

/-- The receive streams of a launch as its image has them. -/
def streamsBack (s : State) (l : Launch) : State :=
  l.cores.foldl (fun s a =>
    let b := imageBase s l + l.coreOff a.core + 16384
    s.setCore a.core { s.core a.core with rxSaved := tmap (s.core a.core).rxSaved (fun k (r : RxStream) =>
      if r.launch = l.seq then streamFrom r (memRead s (b + 8192 * (k % 8)) 8192) else r) }) s
/-- A core with what an image holds for it put back; its queue entries wait for their write-back. -/
def restoreCore (s : State) (k : SavedCore) (seqs : List Nat) : State :=
  let c := s.core k.core
  let back := c.rxSaved.filter (fun p => seqs.contains p.2.launch)
  s.setCore k.core { c with
    tiles := k.tiles.foldl (fun ts p => ts.setIfInBounds p.1 p.2) c.tiles
    shapes := k.shapes.foldl (fun xs p => xs.setIfInBounds p.1 (some p.2)) c.shapes
    table := if k.table.isSome then k.table else c.table
    streams := k.streams.foldl (fun xs p => xs.setIfInBounds p.1 (some p.2)) c.streams
    tree := match k.tree with | some u => u | none => c.tree
    mq := { c.mq with writeback := c.mq.writeback ++ k.mq }
    cq := { c.cq with writeback := c.cq.writeback ++ k.cq }
    rx := back.foldl (fun xs p => xs.setIfInBounds (p.1 % 8) (some p.2)) c.rx
    rxSaved := c.rxSaved.filter (fun p => !seqs.contains p.2.launch) }

/-- Whether a restored thread set is held in a debug stop: in the one that is held now, where it is not the one that started it, whose
instruction executes and is tested again (R440). [DEDUCED, unsafe: log 55] -/
def stillHeld (s : State) (tid : Nat) (t : Thread) : Bool :=
  match s.dbg.stop with
  | none => false
  | some x =>
    let own := x.tid == tid && t.act.any (fun a => a.launch == x.launch)
    !own && (x.mode == 2 || (x.mode == 1 && t.stopHeld && t.act.any (fun a => a.launch == x.launch)))
/-- A thread set put back from its image. -/
def restoreThread (s : State) (ls : List Launch) (tid : Nat) (t : Thread) : State :=
  let t := match ls.find? (fun l => t.act.any (fun a => a.launch == l.seq) || l.tids.contains tid) with
    | some l => (match l.onCore (coreOf tid) with
      | some a => threadFrom t (memRead s (imageBase s l + l.coreOff a.core + 81920 + 4096 * a.ts.idxOf (tid % 4)) 0xE00)
      | none => t)
    | none => t
  s.setThread tid { t with slots := t.slots.map Slot.reissue, instret := (s.thread tid).instret, stopHeld := stillHeld s tid t }

/-- The images of a context written back: registers, windows, tiles, streams, queues and memories as the images have them, and what the
model keeps beside them; the abandoned loads are reissued (R293, R294). [DESIGN CHOICE, unsafe: log 53] -/
def writeBack (s : State) (c : Nat) (img : SavedCtx) : State :=
  let ls := residents s c
  let seqs := ls.map (fun l => l.seq)
  let s := img.threads.foldl (fun s p => restoreThread s ls p.1 p.2) s
  let cores := img.cores.map (fun k => ls.foldl (fun k l => coreFrom s l k) k)
  let s := (ctxLaunches s c).foldl recordsBack s
  let s := ls.foldl streamsBack s
  let s := { s with devBarriers := tmap s.devBarriers (fun i b =>
    if b.holder == some c then barrierFrom (memRead s (areaBase (s.ctx c) + 0x1000 + 64 * i) 64) else b) }
  let s := ls.foldl (fun s l => (imageMoves s l).foldl (fun s m => moveBytes s m.2.1 m.1 m.2.2) s) s
  let s := cores.foldl (fun s k => restoreCore s k seqs) s
  let kept := img.loads.filter (fun f => match f.slot with | some i => (s.thread f.realTid).slots.toList.getD i .free != .free | none => true)
  let again := kept.map (fun (f : Far) => { f with
    sent := false, tag := none, performed := false, fail := 0, data := []
    pieces := f.pieces.map (fun (p : Piece) => { p with done := false, fail := 0, sent := false }) })
  let s := { s with far := s.far.map (fun (f : Far) =>
    if f.ctx == c && savedTid ≤ f.tid && f.tid < savedTid + 0x4000 then { f with tid := f.tid - savedTid } else f) ++ again }
  s.setCtx c { s.ctx c with save := .restoring, image := none, restoreWanted := false, restoreErr := false }
/-- Whether entries of a context still wait for their write-back (R295). -/
def entriesWait (s : State) (c : Nat) : Bool :=
  (residents s c).any (fun l => l.cores.any (fun a => [0, 1].any (fun q => (queueOf s a.core q).writeback.any (fun e => e.launch == l.seq))))
/-- Restoring goes on: the images are written back, or an uncorrectable error leaves the context Saved; once all is written back, the queue
entries too, the context runs again (R293, R435). -/
def ctxRestored (s : State) (c : Nat) : State :=
  match (s.ctx c).image with
  | some img =>
    if restoreBad s c then
      s.setCtx c { s.ctx c with save := .saved, restoreWanted := false, restoreErr := true }
    else
      let s := writeBack s c img
      if entriesWait s c then s else headerPut (s.setCtx c { s.ctx c with save := .running }) c 0x10 0
  | none => if entriesWait s c then s else headerPut (s.setCtx c { s.ctx c with save := .running }) c 0x10 0

/-! ## ctx.save, ctx.load -/

/-- The effect of ctx.save (R434). -/
def ctxSaveEff (s : State) (v : Word) : Eff :=
  let c := v.toNat % 64
  if s.myCtx != 0 then trapE s 0x11
  else
    match s.th.mark with
    | some (8, c, _) =>
      if (s.ctx c).live && ((s.ctx c).save == .stopping || (s.ctx c).save == .writing) then waitE s
      else .ok (s.setTh { s.th with mark := none })
    | _ =>
      if 64 ≤ v.toNat || c == 0 then trapE s 0x23
      else if s.cpl.state != .idle then waitE s
      else
        let x := s.ctx c
        let accepted := fun (s : State) => waitE (s.setTh { s.th with mark := some (8, c, 0) })
        if !x.live || x.saveFailed then trapE s 0x23
        else match x.save with
          | .saved => .ok s
          | .restoring => waitE s
          | .running => accepted (beginSave s c)
          | _ => accepted s
/-- R434: ctx.save: kernel only. -/
def execCtxSave (a : Reg) (s : State) : Host.Outcome State Fault Refusal :=
  if s.th.kernel then issueNR (.ctxSave a) true [a] [] (fun s => ctxSaveEff s (rdX s a)) s else .next (illegalSys s)

/-- The effect of ctx.load (R435). -/
def ctxLoadEff (s : State) (d : Reg) (v : Word) : Eff :=
  let c := v.toNat % 64
  let x := s.ctx c
  let done := fun (r : Word) => Except.ok (wrX (s.setTh { s.th with mark := none }) {} d r)
  if s.myCtx != 0 then trapE s 0x11
  else
    match s.th.mark with
    | some (9, _, _) =>
      if !x.live then trapE s 0x23
      else match x.save with
        | .saved =>
          if x.restoreWanted then waitE s
          else if x.restoreErr then done 0x63
          else waitE (s.setCtx c { x with restoreWanted := true })
        | .restoring => waitE s
        | _ => done 0
    | _ =>
      if 64 ≤ v.toNat || c == 0 || !x.live || x.save != .saved then trapE s 0x23
      else
        let s := s.setCtx c { x with restoreWanted := true, restoreErr := false }
        waitE (s.setTh { s.th with mark := some (9, c, 0) })
/-- R435: ctx.load: kernel only. -/
def execCtxLoad (d a : Reg) (s : State) : Host.Outcome State Fault Refusal :=
  if s.th.kernel then issueNR (.ctxLoad d a) true [a] [d] (fun s => ctxLoadEff s d (rdX s a)) s else .next (illegalSys s)

end Sys2Proof.Machine
end

