-- ==== Sys2Proof/Machine/Link.lean ====
section
/-! DEFINITION. Machine/Link.lean: the link ports (R25 to R45): states, striping, parking and waking, flits and their replay, allowances,
and the events of a port. An event's `n` is the port. -/
namespace Sys2Proof.Machine

/-! ## Ports and masks -/

/-- Whether an index is that of a port (R25). -/
def isPort (p : Nat) : Bool := decide (p < 80) && p != 31
/-- Whether a port is local. -/
def isLocalPort (p : Nat) : Bool := decide (p < 31)
/-- The lanes or wavelengths of a port (R34). -/
def membersOf (p : Nat) : BitVec 16 := if isLocalPort p then 0xF else 0xFFFF
/-- How many members a mask names. -/
def popCount (m : BitVec 16) : Nat := ((List.range 16).filter (fun i => bitOf m i)).length
/-- The lowest-numbered members of a mask, as many as the largest power of two that does not exceed their number (R36). -/
def lowestPower (m : BitVec 16) : BitVec 16 :=
  let n := popCount m
  let k := if 16 ≤ n then 16 else if 8 ≤ n then 8 else if 4 ≤ n then 4 else if 2 ≤ n then 2 else n
  ((List.range 16).filter (fun i => bitOf m i)).take k |>.foldl (fun (b : BitVec 16) i => b ||| BitVec.ofNat 16 (2 ^ i)) 0
/-- Buffer slots per channel of a port (R31). -/
def portSlots (p : Nat) : Nat := if isLocalPort p then 256 else 2048
/-- The replay buffer of a port (R30). -/
def replaySlots (p : Nat) : Nat := if isLocalPort p then 512 else 4096
/-- LSTATE (R42). -/
def PortState.code : PortState → Nat
  | .training => 0 | .up => 1 | .retrain => 2 | .dark => 3 | .relock => 4 | .down => 5
/-- LNK_STAT (R42). -/
def Port.stat (v : Port) : Word :=
  BitVec.ofNat 64 (v.active.toNat * 2 ^ 48 + v.parked.toNat * 2 ^ 32 + v.failed.toNat * 2 ^ 16 + v.cmderr % 16 * 2 ^ 12 +
    (if v.waking then 2 * 2 ^ 10 else 0) + (if v.nrz then 2 ^ 8 else 0) + v.state.code)
/-- The flits of a packet. -/
def flitsOf (p : Packet) : Nat := 1 + p.len
/-- A channel of a port. -/
def Port.chan (v : Port) (c : Nat) : Channel := v.chans.toList.getD c {}
/-- A channel of a port replaced. -/
def Port.setChan (v : Port) (c : Nat) (x : Channel) : Port := { v with chans := v.chans.setIfInBounds c x }
/-- The flits that wait on one channel's egress. -/
def Channel.depth (c : Channel) : Nat := (c.egress.map (fun e => flitsOf e.2)).foldl (· + ·) 0 - c.sentOfHead
/-- The flits that wait in the egress of a port. -/
def Port.depth (v : Port) : Nat := (v.chans.toList.map Channel.depth).foldl (· + ·) 0

/-- A store unit by unit: one at which it fails is left as it was. -/
def storeUnits (s : State) (us : List (Nat × Nat)) (bs : List Byte) : State :=
  match us with
  | [] => s
  | u :: r => storeUnits (if (homeFails s u.1 u.2 false).isSome then s else memWrite s u.1 (bs.take u.2)) r (bs.drop u.2)
/-- A store in the TCM or scratchpad window by the hub (R43): outside both it is not made. -/
def windowStore (s : State) (a : Word) (bs : List Byte) : State :=
  let x := a.toNat
  if isTcm x || (isSpad x && x < epochSpan) then storeUnits s ((windowKeys s x bs.length).flatMap (fun k => cuts k.1 k.2 8)) bs else s
/-- A word at an address whose low three bits are ignored; 0 disables it (R43). -/
def noteStore64 (s : State) (a v : Word) : State :=
  let x := a &&& ~~~(7 : Word)
  if x = 0 then s else windowStore s x (natBytes 8 v.toNat)

/-! ## Flits on the line (R27 to R29, R34) -/

/-- The header flit of a packet (R28). -/
def headerFlit (p : Packet) : BitVec 512 :=
  BitVec.ofNat 512 (p.kind.toNat * 2 ^ 504 + p.len % 256 * 2 ^ 496 + p.dest.toNat * 2 ^ 480 + p.origin.toNat * 2 ^ 464 + p.job.toNat * 2 ^ 448 +
    p.seq.toNat * 2 ^ 432 + (if p.gen then 2 ^ 431 else 0) + (if p.esc then 2 ^ 430 else 0) + p.hops.toNat * 2 ^ 424 + p.body.toNat)
/-- A control flit (R29), with the stripe sequence of a stripe change. -/
def controlFlit (c : Control) (stripeSeq : BitVec 8) : BitVec 512 :=
  let flit := fun (code v : Nat) => BitVec.ofNat 512 (code * 2 ^ 504 + v)
  match c with
  | .allowance l => flit 0x01 ((List.range 4).foldl (fun n v => n + l.getD v 0 % 2 ^ 16 * 2 ^ (16 * v)) 0)
  | .stripe m _ => flit 0x02 (m.toNat + stripeSeq.toNat * 2 ^ 16)
  | .replay q => flit 0x03 q.toNat
  | .ack q => flit 0x04 q.toNat
  | .mode nrz => flit 0x05 (if nrz then 1 else 0)
  | .identity d p n => flit 0x06 (d.toNat + p % 128 * 2 ^ 16 + n % 2 ^ 16 * 2 ^ 32)
/-- The framing of a flit and its 64 bytes (R27). -/
structure Frame where
  cls   : Nat
  vc    : Nat
  seq   : BitVec 16
  bytes : List Byte
  crc   : BitVec 32
  deriving DecidableEq, Repr
/-- A frame with its CRC-32. -/
def frameOf (cls vc : Nat) (seq : BitVec 16) (bytes : List Byte) : Frame :=
  { cls := cls, vc := vc, seq := seq, bytes := bytes, crc := Config.flitCrc (natBytes 1 cls ++ natBytes 1 vc ++ natBytes 2 seq.toNat ++ bytes) }
/-- The frame of what a port has sent, none for the training pattern: class 0 header, 1 data, 2 control; a control flit has virtual channel
0 and the number of the next header or data flit. [DESIGN CHOICE, unsafe: log 86] -/
def Sent.frame (x : Sent) : Option Frame :=
  match x with
  | .flit _ vc seq (.header p) => some (frameOf 0 vc seq (natBytes 64 (headerFlit p).toNat))
  | .flit _ vc seq (.data n p) => some (frameOf 1 vc seq ((p.data.drop (64 * n)).take 64))
  | .control _ seq c q => some (frameOf 2 0 seq (natBytes 64 (controlFlit c q).toNat))
  | .training => none
/-- The mask on which it travels. -/
def Sent.mask (x : Sent) : BitVec 16 :=
  match x with
  | .flit m _ _ _ | .control m _ _ _ => m
  | .training => 0
/-- The bits of a flit that a member of a mask carries, in the order in which it sends them (R34): with w members, bit i travels on the one
whose position among the set bits is i mod w. -/
def memberBits (mask : BitVec 16) (bytes : List Byte) (member : Nat) : List Bool :=
  let w := popCount mask
  if bitOf mask member then
    let q := ((List.range member).filter (fun i => bitOf mask i)).length
    ((List.range 512).filter (fun i => i % w == q)).map (fun i => leNat bytes / 2 ^ i % 2 == 1)
  else []
/-- What a member of the mask carries of what a port has sent. -/
def Sent.bitsOn (x : Sent) (member : Nat) : List Bool :=
  match x.frame with
  | some f => memberBits x.mask f.bytes member
  | none => []
/-- A control flit put on the line, on the mask in use. -/
def Port.say (v : Port) (c : Control) : Port := { v with sent := v.sent ++ [.control v.active v.seq c v.stripeSeq] }

/-! ## Hand back, states (R37) -/

/-- Whether a flit is one of a packet, whose header flit has left with HOPS one higher. -/
def Flit.isOf (f : Flit) (p : Packet) : Bool :=
  match f with
  | .header q | .data _ q => { q with hops := p.hops } == p
/-- What a port hands back to the router: every packet of which a flit has not been sent, with those of its flits that have been; a drain
marker that waits is dropped. [DEDUCED, unsafe: log 85] -/
def handBack (s : State) (p : Nat) : State :=
  let v := s.port p
  let ps := v.chans.toList.flatMap (fun c => c.egress)
  let drop := fun (l : List (BitVec 16 × Nat × Flit)) => l.filter (fun f => !ps.any (fun e => f.2.2.isOf e.2))
  let v := { v with chans := v.chans.map (fun (c : Channel) => { c with egress := [], sentOfHead := 0 }), replay := drop v.replay, resend := drop v.resend }
  let keep := ps.filter (fun e => e.2.kind != 0x0B)
  { s.setPort p v with fabric := { s.fabric with router := s.fabric.router ++ keep } }
/-- A port leaves Up (R40): waking wavelengths go back to Gloaming, a park's or a wake's waiting stripe change is dropped; a fallback's is
held (R37). An announced dark is forgotten. [DEDUCED, unsafe: log 85] -/
def Port.leaveUp (v : Port) : Port :=
  { v with
    waking := false, parkWait := false, wakeWait := false, wakeAfterPark := false, announce := false
    control := v.control.filter (fun c => match c with | .stripe _ .park | .stripe _ .wake => false | _ => true) }
/-- The cycles that a port has spent in Dark or Relock since it entered Dark are counted in DARKCYC (R44). -/
def Port.countDark (v : Port) (now : Nat) : Port :=
  match v.darkSince with
  | some t => { v with darkcyc := v.darkcyc + (Config.cycleAt now - Config.cycleAt t), darkSince := none }
  | none => v
/-- A port goes Down: it hands back its flits. [DEDUCED, unsafe: log 131] -/
def goDown (s : State) (p : Nat) : State :=
  let s := handBack s p
  let v := s.port p
  s.setPort p { (v.leaveUp.countDark s.steps) with state := .down, control := [], replay := [], resend := [], sigLost := false, rxBad := false }
/-- A port goes Dark (R37): with DARKLIM 0 it is Down in the same cycle. -/
def goDark (s : State) (p : Nat) (command : Bool) : State :=
  let v := s.port p
  let s := s.setPort p { v.leaveUp with state := .dark, sigLost := !command, sent := v.sent ++ [.training], darkSince := some s.steps }
  if v.darklim = 0 then goDown s p else s
/-- The far end's identity as an identity flit gives it (R29): device id [15:0], port [22:16], slots [47:32]. -/
def identityOf (w : Word) : BitVec 16 × BitVec 7 × BitVec 16 :=
  (BitVec.ofNat 16 (bitsOf w 15 0), BitVec.ofNat 7 (bitsOf w 22 16), BitVec.ofNat 16 (bitsOf w 47 32))
/-- The allowances of every channel set from an identity (R32). -/
def Port.allow (v : Port) (n : Nat) : Port := { v with chans := v.chans.map (fun (c : Channel) => { c with allowance := n }) }
/-- A port enters Up after Training or Relock: a drain of it is over (R69). -/
def Port.fresh (v : Port) : Port := { v with state := .up, replayRuns := 0, drained := false, markers := 0, announce := false, sigLost := false }

/-! ## Striping, parking, waking (R35, R38 to R41) -/

/-- A stripe change has been sent on the old mask: the next flit uses the new one; the note is stored (R41). A park sends every member
outside KEEP into Gloaming (R38); the end of a wake names the lowest non-failed members as they then are, and the others that were
parked stay so (R39). A member that is in Gloaming and that a park or a fallback names is active from then on.
[DEDUCED, unsafe: log 85] -/
def stripeSent (s : State) (p : Nat) (mask : BitVec 16) (why : StripeWhy) : State :=
  let v := s.port p
  let mask := if why = .wake then lowestPower (membersOf p &&& ~~~v.failed) else mask
  let v := { v with active := mask, stripes := v.stripes + 1, stripeSeq := v.stripeSeq + 1
                    sent := v.sent ++ [Sent.control v.active v.seq (.stripe mask why) (v.stripeSeq + 1)] }
  let v := match why with
    | .park => { v with parked := membersOf p &&& ~~~mask, parkWait := false }
    | .wake => { v with parked := v.parked &&& ~~~mask, waking := false, wakeWait := false }
    | .fallback => { v with parked := v.parked &&& ~~~mask }
  let again := why = .park && v.wakeAfterPark && v.parked != 0
  let v := if why = .park then { v with wakeAfterPark := false } else v
  let v := if again then { v with waking := true, wakes := v.wakes + 1 } else v
  noteStore64 (s.setPort p v) v.note v.stat
/-- The waiting control flits of a port put on the line, oldest first (R33). -/
def flushControl (s : State) (p : Nat) : State :=
  let l := (s.port p).control
  l.foldl (fun s c => match c with
    | .stripe m w => stripeSent s p m w
    | c => s.setPort p ((s.port p).say c)) (s.setPort p { s.port p with control := [] })
/-- A port goes into Retrain in a mode (R37): the mode change is sent after the control flits that wait. -/
def goRetrain (s : State) (p : Nat) (nrz : Bool) : State :=
  let s := flushControl (s.setPort p (s.port p).leaveUp) p
  let v := (s.port p).say (.mode nrz)
  s.setPort p { v with state := .retrain, nrz := nrz, failed := if nrz then v.failed else 0, fallbacks := v.fallbacks + 1 }
/-- Members fail margin (R36): in PAM4 the port retrains to NRZ; in NRZ they are marked and a stripe change names the lowest-numbered
non-failed members, or the port is Down when none remains. [DEDUCED, unsafe: log 85] -/
def marginFails (s : State) (p : Nat) (members : BitVec 16) : State :=
  let v := s.port p
  if v.state != .up then s
  else if !v.nrz then goRetrain s p true
  else
    let failed := v.failed ||| (members &&& membersOf p)
    let mask := lowestPower (membersOf p &&& ~~~failed)
    let s := s.setPort p { v with failed := failed }
    if mask = 0 then goDown s p
    else if mask = v.active then s
    else s.setPort p { s.port p with control := v.control ++ [.stripe mask .fallback] }
/-- Whether KEEP is valid (R42). -/
def Port.keepOk (v : Port) : Bool :=
  let n := popCount v.keep
  (n == 1 || n == 2 || n == 4 || n == 8 || n == 16) && (v.keep &&& v.failed) == 0
/-- A park trigger accepted (R38). -/
def startPark (s : State) (p : Nat) : State :=
  let v := s.port p
  if v.active = v.keep then s
  else s.setPort p { v with control := v.control ++ [.stripe v.keep .park], parkWait := true }
/-- A wake trigger (R39, R40): after a waiting park, else at once; ignored during a wake. [DEDUCED, unsafe: log 85] -/
def startWake (s : State) (p : Nat) : State :=
  let v := s.port p
  if v.waking then s
  else if v.parkWait then s.setPort p { v with wakeAfterPark := true }
  else if v.parked = 0 then s
  else s.setPort p { v with waking := true, wakes := v.wakes + 1 }

/-- A command of LNK_CTL [7:4] (R42): of a park in progress and an invalid KEEP the first decides. [DEDUCED, unsafe: log 69] -/
def portCommand (s : State) (p code : Nat) : State :=
  let v := s.port p
  let err := fun (n : Nat) => s.setPort p { v with cmderr := n }
  let ok := s.setPort p { v with cmderr := 0 }
  if code = 0 then s
  else if 5 < code then err 1
  else if v.state != .up then err 3
  else
    match code with
    | 1 => if isLocalPort p then err 5 else if v.waking || v.parkWait then err 2 else if !v.keepOk then err 4 else startPark ok p
    | 2 => if isLocalPort p then err 5 else startWake ok p
    | 3 => if v.nrz then goRetrain ok p false else ok
    | 4 => if v.nrz then ok else goRetrain ok p true
    | _ => ok.setPort p { ok.port p with announce := true }

/-- EN written (R37). -/
def setEnable (s : State) (p : Nat) (en : Bool) : State :=
  let v := s.port p
  let s := s.setPort p { v with en := en }
  if en then (if v.state = .down then s.setPort p { s.port p with state := .training } else s) else goDown s p

/-! ## The events of a port -/

/-- An event of the port that `n` names. -/
def onPort (s : State) (f : State → Nat → Port → State) : Host.Outcome State Fault Refusal :=
  .next (if isPort s.ev.n then f s s.ev.n (s.port s.ev.n) else s)

/-- Whether a flit of a channel is ready to be sent: after command 0x5 only of a packet already begun. -/
def Port.ready (v : Port) (c : Nat) : Bool := !(v.chan c).egress.isEmpty && (!v.announce || (v.chan c).sentOfHead != 0)
/-- One flit of a channel sent (R33): the header flit leaves with HOPS one higher, saturating at 63 (R28). Header and data flits take the
link sequence numbers, which start at 0 and go on through Down and Training. [DESIGN CHOICE, unsafe: log 86] -/
def sendFlit (v : Port) (c : Nat) : Port :=
  let x := v.chan c
  match x.egress with
  | [] => v
  | e :: rest =>
    let pk := { e.2 with hops := if e.2.hops = 63 then 63 else e.2.hops + 1 }
    let f : Flit := if x.sentOfHead = 0 then .header pk else .data (x.sentOfHead - 1) pk
    let n := x.sentOfHead + 1
    let last := decide (flitsOf e.2 ≤ n)
    let x := { x with egress := if last then rest else e :: rest, sentOfHead := if last then 0 else n, allowance := x.allowance - 1 }
    { v.setChan c x with
      seq := v.seq + 1, replay := v.replay ++ [(v.seq, c, f)], sent := v.sent ++ [.flit v.active c v.seq f]
      flits := v.flits.setIfInBounds c (v.flits.toList.getD c 0 + 1), rr := if c < 3 then (c + 1) % 3 else v.rr }

/-- R33: a flit boundary. `m` are the cycles since the last one, counted as STALL for each channel that is ready without allowance (R44).
Flits of a replay go after control flits and ahead of channel 3. [DESIGN CHOICE, unsafe: log 86; DEDUCED, unsafe: log 132] -/
def execFlitBoundary (s : State) : Host.Outcome State Fault Refusal :=
  onPort s (fun s p v =>
    if v.state != .up then s
    else
      let held := fun c => v.ready c && (v.chan c).allowance == 0
      let v := (List.range 4).foldl (fun (w : Port) c =>
        if held c then { w with stall := w.stall.setIfInBounds c (w.stall.toList.getD c 0 + BitVec.ofNat 64 s.ev.m) } else w) v
      let s := s.setPort p v
      match v.control with
      | .stripe m k :: rest => stripeSent (s.setPort p { v with control := rest }) p m k
      | c :: rest => s.setPort p { v.say c with control := rest }
      | [] =>
        match v.resend with
        | f :: rest => s.setPort p { v with resend := rest, sent := v.sent ++ [.flit v.active f.2.1 f.1 f.2.2] }
        | [] =>
          if replaySlots p ≤ v.replay.length then s
          else
            let can := fun c => v.ready c && (v.chan c).allowance != 0
            match (3 :: (List.range 3).map (fun i => (v.rr + i) % 3)).find? can with
            | some c => s.setPort p (sendFlit v c)
            | none => s)

/-- R28: a packet received on channel `k`; `m` is the link sequence number of its last flit, `flag` says that its flits come from a
replay. A packet with an undefined KIND or a LEN above 64 is discarded and its flits are counted; one that the channel's buffer has no room
for cannot have been sent (R31, R32). [DEDUCED, unsafe: log 84] -/
def execPacketReceive (s : State) : Host.Outcome State Fault Refusal :=
  onPort s (fun s p v =>
    let c := s.ev.k % 4; let pk := s.ev.pkt; let x := v.chan c
    let undefined_ := !kindDefined pk.kind.toNat || decide (64 < pk.len)
    if v.state = .down || (v.rxBad && !s.ev.flag) || (!undefined_ && decide (portSlots p < x.held + flitsOf pk)) then s
    else
      let seq := BitVec.ofNat 16 s.ev.m
      let v := { v with rxBad := false, rxSeq := seq, control := v.control ++ [Control.ack seq] }
      if undefined_ then
        s.setPort p { v.setChan c { x with freed := x.freed + flitsOf pk } with proterr := v.proterr + BitVec.ofNat 64 (flitsOf pk) }
      else s.setPort p (v.setChan c { x with ingress := x.ingress ++ [pk], held := x.held + flitsOf pk }))

/-- R30: the flit with the link sequence number `m` fails its CRC: it and every later flit until the replay are discarded, and a replay from
it is asked for, again where a flit of a replay (`flag`) fails. [DESIGN CHOICE, unsafe: log 86] -/
def execFlitCrcError (s : State) : Host.Outcome State Fault Refusal :=
  onPort s (fun s p v =>
    if v.state = .down || (v.rxBad && !s.ev.flag) then s
    else s.setPort p { v with rxBad := true, control := v.control ++ [Control.replay (BitVec.ofNat 16 s.ev.m)] })

/-- R32: an allowance return adds the freed slots to each channel: 16 bits a channel in `word`. [DESIGN CHOICE, unsafe: log 86] -/
def execAllowanceReturn (s : State) : Host.Outcome State Fault Refusal :=
  onPort s (fun s p v =>
    s.setPort p ((List.range 4).foldl (fun (w : Port) c =>
      w.setChan c { w.chan c with allowance := (w.chan c).allowance + bitsOf s.ev.word (16 * c + 15) (16 * c) }) v))

/-- The slots of a port, over its channels, that have been freed and not returned. [DEDUCED, unsafe: log 84] -/
def Port.freedSlots (v : Port) : Nat := (v.chans.toList.map (fun c => c.freed)).foldl (· + ·) 0
/-- An allowance return put in line (R32). -/
def returnAllowance (v : Port) : Port :=
  { v with control := v.control ++ [.allowance (v.chans.toList.map (fun c => c.freed))]
           chans := v.chans.map (fun (c : Channel) => { c with freed := 0 }) }
/-- R32: 64 slots have been freed since the last return. -/
def execAllowanceReturnSend (s : State) : Host.Outcome State Fault Refusal :=
  onPort s (fun s p v => if 64 ≤ v.freedSlots then s.setPort p (returnAllowance v) else s)
/-- R32: 200 ns have passed since the first unreturned slot was freed. -/
def execAllowanceReturnTimeout (s : State) : Host.Outcome State Fault Refusal :=
  onPort s (fun s p v => if v.freedSlots = 0 then s else s.setPort p (returnAllowance v))

/-- R35, R36: a stripe change received: the next flit of any class comes on the mask in `word`; with the flag it is the far end's fallback
in NRZ, of the members `m`, and this end falls back with it. [DEDUCED, unsafe: log 85] -/
def execStripeChange (s : State) : Host.Outcome State Fault Refusal :=
  onPort s (fun s p v =>
    let s1 := s.setPort p { v with rxMask := BitVec.ofNat 16 (bitsOf s.ev.word 15 0) }
    if s.ev.flag && v.nrz then marginFails s1 p (BitVec.ofNat 16 s.ev.m) else s1)

/-- R30, R36: a replay request: the flits from the named one on are sent again. A request that follows 16 others for the same flit says
that 16 replays of it have failed: the members that carried it fail margin. [DEDUCED, unsafe: log 85] -/
def execReplayRequest (s : State) : Host.Outcome State Fault Refusal :=
  onPort s (fun s p v =>
    let q := BitVec.ofNat 16 (bitsOf s.ev.word 15 0)
    let runs := if v.replayRuns != 0 && v.replayOf == q then v.replayRuns + 1 else 1
    let s1 := s.setPort p { v with
      resend := v.replay.dropWhile (fun f => f.1 != q), retries := v.retries + 1, replayOf := q, replayRuns := if runs = 17 then 0 else runs }
    if runs = 17 then marginFails s1 p v.active else s1)

/-- R30: an acknowledge frees the replay buffer up to the named flit. -/
def execAcknowledge (s : State) : Host.Outcome State Fault Refusal :=
  onPort s (fun s p v =>
    let q := BitVec.ofNat 16 (bitsOf s.ev.word 15 0)
    if v.replay.any (fun f => f.1 == q) then s.setPort p { v with replay := (v.replay.dropWhile (fun f => f.1 != q)).drop 1 } else s)

/-- R37: a mode change received: the port retrains in the mode `flag` names (set: NRZ); a return to PAM4 clears FAILED at this end too.
[DEDUCED, unsafe: log 85] -/
def execModeChange (s : State) : Host.Outcome State Fault Refusal :=
  onPort s (fun s p v =>
    if v.state = .up then
      s.setPort p { v.leaveUp with state := .retrain, nrz := s.ev.flag, failed := if s.ev.flag then v.failed else 0, fallbacks := v.fallbacks + 1 }
    else s)

/-- R43: an identity flit (`word` in the layout of R29): LNK_PEER and the allowances; in Relock the held allowances stay where it is
unchanged (R37). -/
def execIdentity (s : State) : Host.Outcome State Fault Refusal :=
  onPort s (fun s p v =>
    let id := identityOf s.ev.word
    if v.state = .relock && v.peer == some id then s
    else s.setPort p { (v.allow id.2.2.toNat) with peer := some id, newPeer := v.state = .relock })

/-- R29: a control flit of an undefined code is discarded and counted. -/
def execUnknownControlFlit (s : State) : Host.Outcome State Fault Refusal :=
  onPort s (fun s p v => s.setPort p { v with proterr := v.proterr + 1 })

/-- R36, R37: the members in `word` fail margin. -/
def execLaneMarginFailure (s : State) : Host.Outcome State Fault Refusal :=
  onPort s (fun s p _ => marginFails s p (BitVec.ofNat 16 (bitsOf s.ev.word 15 0)))

/-- R37: training passes: `word` [15:0] are the members that train, and [63:16] the fields of the far end's identity: device [31:16],
port [38:32], slots [63:48]. -/
def execTrainingComplete (s : State) : Host.Outcome State Fault Refusal :=
  onPort s (fun s p v =>
    let ok := BitVec.ofNat 16 (bitsOf s.ev.word 15 0) &&& membersOf p
    if v.state != .training || ok == 0 then s
    else
      let id := (BitVec.ofNat 16 (bitsOf s.ev.word 31 16), BitVec.ofNat 7 (bitsOf s.ev.word 38 32), BitVec.ofNat 16 (bitsOf s.ev.word 63 48))
      let v := (v.allow id.2.2.toNat).fresh
      s.setPort p ({ v with
        nrz := false, failed := membersOf p &&& ~~~ok, parked := 0, active := lowestPower ok, peer := some id }.say
          (.identity (BitVec.ofNat 16 (ownId s)) p (portSlots p))))
/-- R37: no member trains. -/
def execTrainingFail (s : State) : Host.Outcome State Fault Refusal :=
  onPort s (fun s p v => if v.state = .training then goDown s p else s)
/-- R37: retraining passes. -/
def execRetrainComplete (s : State) : Host.Outcome State Fault Refusal :=
  onPort s (fun s p v => if v.state = .retrain then s.setPort p { v with state := .up } else s)
/-- R37: no member passes retraining. -/
def execRetrainFail (s : State) : Host.Outcome State Fault Refusal :=
  onPort s (fun s p v => if v.state = .retrain then goDown s p else s)
/-- R37: the signal is lost on every member: Dark from Up; in Dark after command 0x5 the path has been broken. -/
def execSignalLost (s : State) : Host.Outcome State Fault Refusal :=
  onPort s (fun s p v =>
    match v.state with
    | .up => goDark s p false
    | .dark => s.setPort p { v with sigLost := true }
    | _ => s)
/-- R37: after command 0x5, with every flit acknowledged, the port goes Dark. -/
def execAnnounceDarkEnter (s : State) : Host.Outcome State Fault Refusal :=
  onPort s (fun s p v =>
    if v.state = .up && v.announce && v.replay.isEmpty && v.chans.toList.all (fun c => c.sentOfHead == 0) then goDark s p true else s)
/-- R37: a signal returns in Dark: Relock. After command 0x5 only once it has been lost. -/
def execSignalReturn (s : State) : Host.Outcome State Fault Refusal :=
  onPort s (fun s p v =>
    if v.state = .dark && v.sigLost then
      s.setPort p ({ v with state := .relock, newPeer := false }.say (.identity (BitVec.ofNat 16 (ownId s)) p (portSlots p)))
    else s)
/-- R37: the dark timer reaches DARKLIM. -/
def execDarkTimerExpiry (s : State) : Host.Outcome State Fault Refusal :=
  onPort s (fun s p v => if v.state = .dark then goDown s p else s)
/-- R37, R69: relock passes: with a changed identity the held flits are handed back; the drain's bit is cleared.
[DEDUCED, unsafe: log 131] -/
def execRelockComplete (s : State) : Host.Outcome State Fault Refusal :=
  onPort s (fun s p v =>
    if v.state != .relock then s
    else
      let s := s.setPort p (v.countDark s.steps).fresh
      let s := { s with fabric := { s.fabric with dstat := s.fabric.dstat &&& ~~~(BitVec.ofNat 80 (2 ^ p)) } }
      if v.newPeer then handBack (s.setPort p { s.port p with newPeer := false }) p else s)
/-- R37: relock fails. -/
def execRelockFail (s : State) : Host.Outcome State Fault Refusal :=
  onPort s (fun s p v => if v.state = .relock then goDown s p else s)

/-- R38: command 0x1. -/
def execLnkCmdPark (s : State) : Host.Outcome State Fault Refusal := onPort s (fun s p _ => portCommand s p 1)
/-- R39: command 0x2. -/
def execLnkCmdWake (s : State) : Host.Outcome State Fault Refusal := onPort s (fun s p _ => portCommand s p 2)
/-- R37: command 0x3. -/
def execLnkCmdRetrainPam4 (s : State) : Host.Outcome State Fault Refusal := onPort s (fun s p _ => portCommand s p 3)
/-- R37: command 0x4. -/
def execLnkCmdForceNrz (s : State) : Host.Outcome State Fault Refusal := onPort s (fun s p _ => portCommand s p 4)
/-- R37: command 0x5. -/
def execLnkCmdAnnounceDark (s : State) : Host.Outcome State Fault Refusal := onPort s (fun s p _ => portCommand s p 5)
/-- R42: a reserved command code. -/
def execLnkCmdReserved (s : State) : Host.Outcome State Fault Refusal := onPort s (fun s p _ => portCommand s p 6)
/-- R37: EN written 1. -/
def execLnkEnSet (s : State) : Host.Outcome State Fault Refusal := onPort s (fun s p _ => setEnable s p true)
/-- R37: EN written 0. -/
def execLnkEnClear (s : State) : Host.Outcome State Fault Refusal := onPort s (fun s p _ => setEnable s p false)

/-- R38, R40: IDLE nanoseconds have passed with an empty egress. -/
def execIdleParkExpiry (s : State) : Host.Outcome State Fault Refusal :=
  onPort s (fun s p v =>
    if v.state = .up && !isLocalPort p && v.idlepark && v.depth == 0 && !v.waking && !v.parkWait && v.keepOk then startPark s p else s)
/-- R39: the egress holds WAKEDEPTH flits or more. -/
def execWakeDepthTrigger (s : State) : Host.Outcome State Fault Refusal :=
  onPort s (fun s p v =>
    if v.state = .up && !isLocalPort p && v.wakeen && decide (max 1 v.wakedepth.toNat ≤ v.depth) then startWake s p else s)
/-- R39: 2,700 ns have passed since the trigger: the wake's stripe change is put in line; the wavelengths in `word` have failed relock and
stay dark. -/
def execWakeStripeChange (s : State) : Host.Outcome State Fault Refusal :=
  onPort s (fun s p v =>
    if v.state = .up && v.waking && !v.wakeWait then
      let lost := BitVec.ofNat 16 (bitsOf s.ev.word 15 0) &&& v.parked &&& ~~~v.failed
      s.setPort p { v with failed := v.failed ||| lost, parked := v.parked &&& ~~~lost, wakeWait := true, control := v.control ++ [.stripe v.active .wake] }
    else s)

/-! ## The counter grid (R44, R45) -/

/-- A port's counters as they stand at offsets 0x040 to 0x0BF in a step; DARKCYC counts up to it. -/
def Port.counters (v : Port) (now : Nat) : List Word :=
  let v := v.countDark now
  v.flits.toList ++ v.stall.toList ++ [v.retries, v.fallbacks, v.stripes, v.wakes, v.darkcyc, v.proterr, 0, 0]
/-- Whether n bytes at an address lie in the TCM or the scratchpad window (R43). [DEDUCED, unsafe: log 133] -/
def inWindows (a : Word) (n : Nat) : Bool :=
  (isTcm a.toNat && isTcm (a.toNat + n - 1)) || (spadBase ≤ a.toNat && a.toNat + n ≤ spadBase + 0x40000000)
/-- R45: the interval ends: the counters of all ports are captured and stored, the sequence word last; with `flag`, the previous grid has
not been stored and this one is skipped. -/
def execGridCapture (s : State) : Host.Outcome State Fault Refusal :=
  let g := s.grid
  if g.int = 0 || !inWindows g.base 10304 then .next s
  else if s.ev.flag then .next { s with grid := { g with skipped := g.skipped + 1 } }
  else
    let img := (List.range 80).flatMap (fun p => if isPort p then wordsBytes ((s.port p).counters s.steps) else natBytes 128 0)
    let seq := g.seq + 1
    let trailer := natBytes 8 (Config.cycleAt s.steps).toNat ++ natBytes 8 g.skipped.toNat ++ natBytes 40 0
    let s := windowStore (windowStore s g.base img) (g.base + 10248) trailer
    let s := windowStore s (g.base + 10240) (natBytes 8 seq.toNat)
    .next { s with grid := { g with seq := seq, skipped := 0 } }

end Sys2Proof.Machine
end

