-- ==== Sys2Proof/Machine/Fabric.lean ====
section
/-! DEFINITION. Machine/Fabric.lean: routing (R51 to R55, R58, R61), draining (R69), order streams at the origin and at the target (R56,
R57), and the requests of this device with their responses (R63 to R65). -/
namespace Sys2Proof.Machine

/-! ## Routing -/

/-- The group and member of a device id (R46). -/
def groupOf (d : Nat) : Nat := d / 32
/-- The member number. -/
def memberOf (d : Nat) : Nat := d % 32
/-- Whether the router may send through a port: it is Up and not drained (R69). -/
def usable (s : State) (p : Nat) : Bool := isPort p && (s.port p).state == .up && !(s.port p).drained
/-- The usable port with the fewest flits waiting, ties to the first of the list. -/
def bestPort (s : State) (ps : List Nat) : Option Nat :=
  (ps.filter (usable s)).foldl (fun (b : Option Nat) p =>
    match b with
    | none => some p
    | some q => if (s.port p).depth < (s.port q).depth then some p else b) none
/-- Whether a port can hold a packet of the escape channel until it is Up: it exists, is not Down and is not drained.
[DEDUCED, unsafe: log 127] -/
def holds (s : State) (p : Nat) : Bool := isPort p && (s.port p).state != .down && !(s.port p).drained
/-- ESCPORT of a destination's entry, where a packet can be left to it. -/
def escapePort (s : State) (gen : Bool) (dest : Nat) : Option Nat :=
  let e := if groupOf dest = groupOf (ownId s) then
      (let m := memberEntry s gen (memberOf dest); if bitOf m 63 then bitsOf m 38 32 else 0x7F)
    else bitsOf (groupEntry s gen (groupOf dest)).1 54 48
  if holds s e then some e else none

/-- Whether a kind has the fields VIA, VIAV and VIADONE: the requests, and the data of a three-party read (R50). -/
def hasVia (kind : Nat) : Bool := sequenced kind || kind == 8
/-- The group that a packet is routed toward (R52): VIA until it has been there, where its entry is VALID. [DEDUCED, unsafe: log 127] -/
def towardOf (s : State) (pk : Packet) : Nat :=
  if hasVia pk.kind.toNat && pViaV pk && !pViaDone pk && (pVia pk == groupOf (ownId s) || bitOf (groupEntry s pk.gen (pVia pk)).1 63) then pVia pk
  else groupOf pk.dest.toNat
/-- Where a packet goes (R52, R54): a port and whether on the escape channel; none where no route remains. `input` is 0 for this
device, p + 1 for port p. -/
def routeOf (s : State) (pk : Packet) (input : Nat) : Option (Nat × Bool) :=
  let me := ownId s; let dest := pk.dest.toNat; let gen := pk.gen
  let esc := (escapePort s gen dest).map (fun p => (p, true))
  let toward := towardOf s pk
  if groupOf dest != groupOf me && !bitOf (groupEntry s gen (groupOf dest)).1 63 then none
  else if pk.esc then esc
  else if toward = groupOf me then
    let direct := localPort (memberOf me) (memberOf dest)
    let e := memberEntry s gen (memberOf dest)
    let vias := if bitOf e 63 && (input = 0 || 32 ≤ input) then
      (List.range 32).filterMap (fun m => if bitOf e m && m != memberOf me && m != memberOf dest then some (localPort (memberOf me) m) else none)
      else []
    match bestPort s vias with
    | some v =>
      if usable s direct && decide ((s.port direct).depth ≤ 2 * (s.port v).depth + s.fabric.adthr.toNat) then some (direct, false)
      else some (v, false)
    | none => if usable s direct then some (direct, false) else esc
  else
    let (w0, w1) := groupEntry s gen toward
    let dports := (List.range 48).filterMap (fun f => if bitOf w0 f then some (32 + f) else none)
    let ways := (List.range 32).filterMap (fun m => if bitOf w1 m && m != memberOf me then some (localPort (memberOf me) m) else none)
    match bestPort s (if dports.isEmpty then ways else dports) with
    | some p => some (p, false)
    | none => esc
/-- The channel of a packet's next hop (R51). -/
def channelOf (s : State) (pk : Packet) (port : Nat) : Nat :=
  if pk.esc then 3 else if 32 ≤ port then 1 else if groupOf pk.origin.toNat = groupOf (ownId s) then 0 else 2

/-- A packet counted as delivered or terminated in its generation (R59). -/
def countEject (s : State) (pk : Packet) : State :=
  let i := if pk.gen then 1 else 0
  { s with fabric := { s.fabric with genej := s.fabric.genej.setIfInBounds i (s.fabric.genej.toList.getD i 0 + 1) } }
/-- The kind that answers a request: Task records and Return messages are answered with a Write acknowledge. [DEDUCED, unsafe: log 52] -/
def respKind (kind : Nat) : Nat := if kind = 1 then 2 else if kind = 5 then 6 else if kind = 7 then 9 else 4
/-- A response to a request on its way (R50). -/
def reply (s : State) (pk : Packet) (status : Nat) (data : List Byte := []) (more : List (Nat × Nat × Nat) := []) : State :=
  let fs := respFields (pTag pk) status ++ (if pk.kind = 7 then [(303, 288, ownId s)] else []) ++ more
  let r := newPacket s (respKind pk.kind.toNat) pk.origin.toNat pk.job fs data
  { s with fabric := if pk.origin.toNat = ownId s then { s.fabric with deliver := s.fabric.deliver ++ [r] }
                     else { s.fabric with inject := s.fabric.inject ++ [r] } }
/-- A Forward status to a device: the reporting device, the unit and the member with it (R50, R68). -/
def forwardStatus (s : State) (dest : Nat) (job : BitVec 16) (tag status from_ unit member : Nat) : State :=
  let p := newPacket s 9 dest job (respFields tag status ++ [(303, 288, from_), (271, 258, unit), (225, 218, member)]) []
  { s with fabric := if dest = ownId s then { s.fabric with deliver := s.fabric.deliver ++ [p] } else { s.fabric with inject := s.fabric.inject ++ [p] } }
/-- A packet terminated (R55): a request is answered with status 0x30, a unit of a three-party read is reported to its owner in C's name
(R68), anything else is discarded. -/
def terminate (s : State) (pk : Packet) : State :=
  let s := countEject s pk
  if sequenced pk.kind.toNat then reply s pk 0x30
  else if pk.kind = 8 then
    forwardStatus s pk.origin.toNat pk.job (pbits pk 287 272) 0x30 pk.dest.toNat (pbits pk 271 258) 0
  else s

/-- One packet routed (R52, R55): delivered, put on an egress channel, moved to escape, or terminated. -/
def routePacket (s : State) (pk : Packet) (input : Nat) : State :=
  let pk := if hasVia pk.kind.toNat && pViaV pk && !pViaDone pk && pVia pk = groupOf (ownId s) then { pk with body := setBits pk.body 335 335 1 } else pk
  if pk.dest.toNat = ownId s then
    let s := countEject s pk
    { s with fabric := { s.fabric with deliver := s.fabric.deliver ++ [pk] } }
  else
    match routeOf s pk input with
    | none => terminate { s with fabric := { s.fabric with noroute := s.fabric.noroute + 1 } } pk
    | some (p, esc) =>
      if pk.hops = 63 then terminate { s with fabric := { s.fabric with hopdrop := s.fabric.hopdrop + 1 } } pk
      else
        let s := if esc && !pk.esc then { s with fabric := { s.fabric with escmoves := s.fabric.escmoves + 1 } } else s
        let pk := { pk with esc := pk.esc || esc }
        let v := s.port p
        let c := channelOf s pk p
        s.setPort p (v.setChan c { v.chan c with egress := (v.chan c).egress ++ [(input, pk)] })

/-- The bytes of Collective packets that this device holds: in the staging store, and on the way to it. -/
def stagingUse (s : State) : Nat :=
  stagedBytes s + ((s.fabric.deliver.filter (fun p => p.kind == 0x0C)).map (fun p => 64 * p.len)).foldl (· + ·) 0
/-- Whether a packet has to stay in its input: an arrival of a collective for this device that the staging store has no room for (R79). -/
def staysIn (s : State) (pk : Packet) : Bool :=
  pk.kind == 0x0C && pk.dest.toNat == ownId s && (collTarget s pk).isNone && decide (64 * 2 ^ 20 < stagingUse s + 64 * pk.len)
/-- The head packet of an input taken: of this device's list (`n` 0), or of channel c of port n - 1, whose slots are freed (R32). -/
def takeInput (s : State) (n c : Nat) : Option (State × Packet × Nat) :=
  if n = 0 then
    match s.fabric.router with
    | [] => none
    | e :: rest => some ({ s with fabric := { s.fabric with router := rest } }, e.2, e.1)
  else
    let v := s.port (n - 1); let x := v.chan c
    match x.ingress with
    | [] => none
    | pk :: rest =>
      if pk.kind = 0x0B || staysIn s pk then none
      else some (s.setPort (n - 1) (v.setChan c { x with ingress := rest, held := x.held - flitsOf pk, freed := x.freed + flitsOf pk }), pk, n)

/-- R52: the head of an input is forwarded: `n` 0 for what this device injects and what ports have handed back, p + 1 for port p, with its
channel in `k`. -/
def execRoutePacket (s : State) : Host.Outcome State Fault Refusal :=
  .next (match takeInput s s.ev.n (s.ev.k % 4) with
    | some (s, pk, i) => routePacket s pk i
    | none => s)
/-- R61: the head packet of channel `k` (0 to 2) of port `n` has not moved for DLTIME: it goes to the escape channel; without an escape port
it stays where it is. -/
def execDeadlockEscape (s : State) : Host.Outcome State Fault Refusal :=
  .next (if !isPort s.ev.n || 3 ≤ s.ev.k then s
    else match takeInput s (s.ev.n + 1) s.ev.k with
      | some (s', pk, i) =>
        if pk.dest.toNat != ownId s && (escapePort s pk.gen pk.dest.toNat).isNone then s
        else routePacket { s' with fabric := { s'.fabric with escmoves := s'.fabric.escmoves + 1 } } { pk with esc := true } i
      | none => s)

/-! ## Injection (R53, R58) -/

/-- One step of the shift register. -/
def lfsrStep (x : BitVec 32) : BitVec 32 := if bitOf x 0 then (x >>> 1) ^^^ 0x80200003#32 else x >>> 1
/-- n steps of the shift register. -/
def lfsrSteps (n : Nat) (x : BitVec 32) : BitVec 32 := match n with | 0 => x | n + 1 => lfsrSteps n (lfsrStep x)
/-- The candidate groups of a draw, ascending. -/
def viaCandidates (s : State) (gen : Bool) (dest : Nat) : List Nat :=
  (List.range 1024).filter (fun g => bitOf (groupEntry s gen g).1 63 && g != groupOf (ownId s) && g != groupOf dest)
/-- The flits waiting at a packet's first hop; none without a route. -/
def firstHop (s : State) (pk : Packet) : Option Nat := (routeOf s pk 0).map (fun r => (s.port r.1).depth)
/-- A VIA group drawn for a packet of the origin (R53). -/
def drawVia (s : State) (pk : Packet) : State × Packet :=
  if !s.fabric.adapt || !hasVia pk.kind.toNat || groupOf pk.dest.toNat = groupOf (ownId s) then (s, pk)
  else
    let cs := viaCandidates s pk.gen pk.dest.toNat
    if cs.isEmpty then (s, pk)
    else
      let x := lfsrSteps 32 s.fabric.lfsr
      let s := { s with fabric := { s.fabric with lfsr := x } }
      let via := cs.getD (x.toNat * cs.length / 2 ^ 32) 0
      let pk' := { pk with body := setBits (setBits pk.body 346 337 via) 336 336 1 }
      match firstHop s pk, firstHop s pk' with
      | some qmin, some qnm =>
        if 5 * qnm + s.fabric.adthr.toNat < 3 * qmin then ({ s with fabric := { s.fabric with nonmin := s.fabric.nonmin + 1 } }, pk') else (s, pk)
      | _, _ => (s, pk)
/-- A packet of this device enters its router (R53, R58, R59). -/
def injectPacket (s : State) (pk : Packet) : State :=
  if pk.dest.toNat = ownId s then { s with fabric := { s.fabric with deliver := s.fabric.deliver ++ [pk] } }
  else
    let pk := { pk with gen := s.fabric.cur, esc := false, hops := 0, body := if hasVia pk.kind.toNat then setBits pk.body 346 335 0 else pk.body }
    let (s, pk) := drawVia s pk
    let i := if pk.gen then 1 else 0
    { s with fabric := { s.fabric with
        geninj := s.fabric.geninj.setIfInBounds i (s.fabric.geninj.toList.getD i 0 + 1), router := s.fabric.router ++ [(0, pk)] } }

/-! ## Order streams at the origin (R56) -/

/-- The order stream of a packet: destination, job, class. -/
def streamKey (pk : Packet) : BitVec 16 × BitVec 16 × BitVec 4 := (pk.dest, pk.job, BitVec.ofNat 4 (orderClass (pAddr pk)))
/-- An order stream of this device. -/
def outStream (s : State) (k : BitVec 16 × BitVec 16 × BitVec 4) : OutStream := ((s.fabric.out.find? (fun p => p.1 == k)).map (fun p => p.2)).getD {}
/-- An order stream of this device replaced. -/
def setOut (s : State) (k : BitVec 16 × BitVec 16 × BitVec 4) (o : OutStream) : State :=
  { s with fabric := { s.fabric with out := (k, o) :: s.fabric.out.filter (fun p => p.1 != k) } }
/-- A tag that no request of this device has. -/
def freeTag (s : State) : BitVec 16 :=
  let n := s.fabric.requests.length
  ((List.range (n + 1)).map (fun i => s.fabric.nextTag + BitVec.ofNat 16 i)).find? (fun t =>
    !s.fabric.requests.any (fun r => pTag r.pkt == t.toNat)) |>.getD s.fabric.nextTag
/-- FIRST of a packet as it is sent: every earlier packet of its stream has been acknowledged. -/
def withFirst (pk : Packet) (first : Bool) : Packet := { pk with body := setBits pk.body 334 334 (if first then 1 else 0) }

/-- A sequenced request sent: it takes a tag and the next number of its stream (R56). -/
def sendRequest (s : State) (pk : Packet) (access : Option Nat) (ctx : Nat) (piece : Nat := 0) : State × BitVec 16 :=
  let tag := freeTag s
  let k := streamKey pk
  let o := outStream s k
  let pk := { pk with seq := k.2.2 ++ o.next, body := setBits pk.body 362 347 tag.toNat }
  let pk := withFirst pk o.unacked.isEmpty
  let s := setOut s k { next := o.next + 1, unacked := o.unacked ++ [pk] }
  let s := { s with fabric := { s.fabric with
    nextTag := tag + 1, requests := s.fabric.requests ++ [{ pkt := pk, access := access, piece := piece, ctx := ctx }] } }
  (injectPacket s pk, tag)

/-- The code of an atomic operation (R50). -/
def AmoOp.code : AmoOp → Nat
  | .swap => 0 | .add => 1 | .and => 2 | .or => 3 | .xor => 4 | .min => 5 | .max => 6 | .minu => 7 | .maxu => 8 | .cas => 9
/-- The atomic operation of a code; none for a reserved one. -/
def amoOfCode : Nat → Option AmoOp
  | 0 => some .swap | 1 => some .add | 2 => some .and | 3 => some .or | 4 => some .xor | 5 => some .min | 6 => some .max
  | 7 => some .minu | 8 => some .maxu | 9 => some .cas | _ => none

/-- Where the destination field of a forward descriptor names this device, its id. -/
def forwardDest (s : State) (dst : Word) : Nat := if deviceField dst = 0 then ownId s else deviceField dst - 1
/-- The piece of a far access to a peer whose request leaves next: a vl.tr makes one for each lane (R351). -/
def Far.nextPiece (f : Far) : Option Piece := f.pieces.find? (fun p => !p.sent)
/-- Its address at the peer. -/
def Far.nextVa (f : Far) : Nat := match f.nextPiece with | some p => p.key | none => addr48 f.addr
/-- The request packet of a far access (R50). -/
def farPacket (s : State) (f : Far) : Packet :=
  let n := match f.nextPiece with | some p => p.len | none => 0
  let job := farJob s f
  let dest := f.dev - 1
  let fs := reqFields f.nextVa n 0
  match f.kind with
  | .load => newPacket s 1 dest job fs []
  | .store => newPacket s 3 dest job fs f.data
  | .atomic op x c sc =>
    newPacket s 5 dest job (fs ++ [(333, 330, op.code), (321, 321, if sc then 1 else 0)])
      (natBytes n x.toNat ++ (if op == .cas then natBytes n c.toNat else []))
  | .forward cast =>
    let dst := leWord f.data; let w1 := leWord (f.data.drop 8)
    newPacket s 7 dest job [(423, 376, addr48 f.addr), (329, 304, bitsOf w1 25 0), (303, 288, if cast then 0 else forwardDest s dst),
      (287, 240, addr48 dst), (239, 234, bitsOf w1 31 26), (233, 226, bitsOf w1 39 32), (225, 225, if cast then 1 else 0)] []
  | .record => newPacket s 0x0D dest job fs f.data
  | .message => newPacket s 0x0E dest job fs f.data

/-- Whether a far access still waits for slots of its taint (R178). -/
def farTainted (s : State) (f : Far) : Bool :=
  if savedTid ≤ f.tid then f.taint != 0 else (f.taint &&& (s.thread f.tid).outstanding) != 0

/-- Whether two accesses of one thread set to a peer touch a common 8-byte word (R176). -/
def Far.touches (e f : Far) : Bool :=
  e.realTid == f.realTid && e.dev == f.dev && e.pieces.any (fun p => f.pieces.any (fun q => sameWords p.key p.len q.key q.len))
/-- The loads of a context that a save has abandoned, which a restore sends again (R294). -/
def abandonedLoads (s : State) (c : Nat) : List Far :=
  (s.ctx c).abandoned ++ (match (s.ctx c).image with | some i => i.loads | none => [])
/-- Whether a far access to a peer may leave (R56, R64, R176, R178): its slots have arrived, no earlier access of the device in the same
stream is still here, none of its thread set to its words that another stream carries is still to be performed, and the limits leave room.
-/
def mayLeave (s : State) (f : Far) : Bool :=
  let pk := farPacket s f
  f.dev != 0 && !f.sent && !f.over && !farTainted s f &&
  !s.far.any (fun e => e.id < f.id && e.dev == f.dev && !e.over &&
    ((!e.sent && farJob s e == farJob s f && e.pieces.any (fun p => !p.sent && orderClass p.key == orderClass f.nextVa)) ||
     (orderClass e.nextVa != orderClass f.nextVa && e.touches f))) &&
  !(abandonedLoads s f.ctx).any (fun e => e.id < f.id && e.touches f) &&
  !(f.kind == .store && f.core.isSome && decide (64 ≤ (s.far.filter (fun e => e.kind == .store && e.dev != 0 && e.sent && !e.over && e.core == f.core)).length)) &&
  decide ((outStream s (streamKey pk)).unacked.length < 32) && decide (s.fabric.requests.length < 8192)

/-- R53: a packet enters the router: with `flag` the next one that waits for injection, else the request of the far access `n`. -/
def execPacketInject (s : State) : Host.Outcome State Fault Refusal :=
  .next (if s.ev.flag then
      match s.fabric.inject with
      | [] => s
      | pk :: rest => injectPacket { s with fabric := { s.fabric with inject := rest } } pk
    else match s.far.find? (fun f => f.id == s.ev.n) with
      | none => s
      | some f =>
        if !mayLeave s f then s
        else
          let j := f.pieces.findIdx (fun p => !p.sent)
          let ps := f.pieces.modify j (fun p => { p with sent := true })
          let (s, tag) := sendRequest s (farPacket s f) (some f.id) f.ctx j
          { s with far := s.far.map (fun (e : Far) =>
              if e.id == f.id then { e with pieces := ps, sent := ps.all (fun p => p.sent), tag := some tag } else e) })

/-! ## The end of a far access (R65, R127, R166) -/

/-- A far access replaced. -/
def setFar (s : State) (f : Far) : State := { s with far := s.far.map (fun e => if e.id == f.id then f else e) }
/-- A far access forgotten. -/
def dropFar (s : State) (id : Nat) : State := { s with far := s.far.filter (fun e => e.id != id) }
/-- The masks of x registers freed of a slot's bit in the far accesses that wait for it. -/
def clearTaint (s : State) (tid : Nat) (b : BitVec 16) : State :=
  { s with far := s.far.map (fun (e : Far) => if e.tid == tid then { e with taint := e.taint &&& ~~~b } else e) }

/-- The value that has come for a register bound to a write stream stored as its next element (R139). -/
def streamArrives (s : State) (tid : Nat) (r : Reg) (v : VWord) : State :=
  match (s.core (coreOf tid)).streams.toList.getD r.toNat none with
  | some u =>
    if !u.bound || !u.write || u.owner != tid then s
    else
      let s := match localKey s tid (u.addr u.pos) 16 with
        | .ok k => hubStore s [(k, 16)] (natBytes 16 v.toNat)
        | .error _ => s
      let c := s.core (coreOf tid)
      s.setCore (coreOf tid) { c with streams := c.streams.setIfInBounds r.toNat (if u.pos + 1 < u.total then some { u with pos := u.pos + 1 } else none) }
  | none => s
/-- A value written to a far access's destination, its slot freed and its bit cleared everywhere (R127); a thread set that waits for it
goes on (R128). -/
def deliverData (s : State) (f : Far) (bs : List Byte) : State :=
  let t := s.thread f.tid
  let bs := overlaid f.overlay bs
  let t := match f.dest with
    | .none => t
    | .x r bits sg => t.putX r (extendTo bits sg (leNat bs)) (t.maskX r)
    | .v r => t.putV r (BitVec.ofNat 128 (leNat bs)) (t.maskV r)
  let t := match f.slot with
    | some i => { t.clearBit (slotBit i) with slots := t.slots.setIfInBounds i .free }
    | none => t
  let t := if t.run == .blocked f.id then { t with run := .running } else t
  let s := dropFar (s.setThread f.tid t) f.id
  let s := match f.dest with | .v r => streamArrives s f.tid r (BitVec.ofNat 128 (leNat bs)) | _ => s
  match f.slot with
  | some i => clearTaint s f.tid (slotBit i)
  | none => s

/-- The failure of a far access recorded (R65, R166): the sticky bit where a peer is involved, and the fault record, unless its sender
reports it. A write of the Compline engine leaves no trace in a context (R96). -/
def recordFailure (s : State) (f : Far) (code : Nat) : State :=
  let refused := (match f.kind with | .record => code == 0x50 || code == 0x53 | _ => false)
  let s := if f.dev = 0 || refused || f.tid = cplTid then s else setSticky s f.ctx (f.dev - 1)
  if f.own then s
  else
    let agent := match f.kind with | .record => 9 | .message => 9 | _ => f.agent
    writeFault s f.ctx { dev := if f.dev = 0 then ownId s else f.dev - 1, tid := if f.realTid < 0x4000 then some f.realTid else none
                         retired := f.retired, agent := agent, code := code, addr := f.addr, wid := f.wid, pc := f.pc }

/-- Whether a far access gives a value. -/
def Far.gives (f : Far) : Bool := match f.kind with | .load => true | .atomic _ _ _ _ => true | .forward _ => true | _ => false
/-- A far access that has failed (R65): a load or atomic writes zero, a store leaves its home as it was; a call record that cannot be
delivered is answered to its caller (R115), a message that cannot be is reported with 0x30 (R116). -/
def failFar (s : State) (f : Far) (code : Nat) : State :=
  let s := recordFailure s f (match f.kind with | .message => 0x30 | _ => code)
  let s := match f.kind with | .atomic _ _ _ _ => fillMark s f.id [] | _ => s
  if f.own then setFar s { f with fail := code }
  else
    match f.kind with
    | .forward _ => deliverData s f (natBytes 8 code)
    | .record =>
      let r := recordOf f.data
      let s := dropFar s f.id
      if r.kind = 3 && code != 0x50 && code != 0x53 then
        sendMessage s { tid := f.tid, ctx := f.ctx, wid := f.wid, pc := f.pc, retired := f.retired } r.rdev r.rcore r.mbox (refusalWords code r)
      else s
    | _ => if f.gives then deliverData s { f with overlay := [] } (List.replicate 16 0) else dropFar s f.id
/-- An atomic performed: what it has stored takes its place in the log of an ordered activation (R83). -/
def atomicDone (s : State) (f : Far) (op : AmoOp) (x c : Word) (n old : Nat) : State :=
  fillMark s f.id (if op == .cas && old != c.toNat % 2 ^ (8 * n) then [] else [(f.addr, natBytes n (op.apply n old x.toNat c.toNat))])
/-- A far access that has been performed at a peer, with the bytes of the answer. -/
def endFar (s : State) (f : Far) (bs : List Byte) : State :=
  if f.own then setFar s { f with performed := true, data := bs }
  else if f.gives then deliverData s f bs
  else dropFar s f.id

/-! ## Responses (R57, R65) -/

/-- Bytes with some of them replaced. -/
def spliceBytes (n pos : Nat) (old new : List Byte) : List Byte :=
  let o := old ++ List.replicate (n - old.length) 0
  o.take pos ++ new ++ o.drop (pos + new.length)
/-- The request with a tag. -/
def requestOf (s : State) (tag : Nat) : Option Request := s.fabric.requests.find? (fun r => pTag r.pkt == tag)
/-- A request that has been answered leaves its stream; the packets behind it may be sent again if they are to be retried (R57).
[DEDUCED, unsafe: log 134] -/
def acknowledged (s : State) (r : Request) : State :=
  let k := streamKey r.pkt
  let o := outStream s k
  let s := setOut s k { o with unacked := o.unacked.filter (fun p => pTag p != pTag r.pkt) }
  let after := fun (q : Packet) => decide ((q.seq.toNat + 4096 - r.pkt.seq.toNat) % 4096 < 2048)
  { s with fabric := { s.fabric with requests := (s.fabric.requests.filter (fun q => pTag q.pkt != pTag r.pkt)).map (fun (q : Request) =>
      if streamKey q.pkt == k && after q.pkt then { q with again := true } else q) } }
/-- The answer to a request: status 0x3F asks for it again; any other ends it. -/
def answered (s : State) (tag status : Nat) (bs : List Byte) : State :=
  match requestOf s tag with
  | none => s
  | some r =>
    if status = 0x3F then
      { s with fabric := { s.fabric with requests := s.fabric.requests.map (fun (q : Request) =>
          if pTag q.pkt == tag then { q with retry := true } else q) } }
    else
      let s := acknowledged s r
      match r.access.bind (fun id => s.far.find? (fun f => f.id == id)) with
      | none => s
      | some f =>
        if status != 0 then failFar s f (status % 128)
        else
          match f.kind with
          | .forward _ => deliverData { s with fabric := { s.fabric with forwards := tset s.fabric.forwards tag f } } f (natBytes 8 0)
          | .atomic op x c _ =>
            let n := match f.pieces with | p :: _ => p.len | [] => 8
            endFar (atomicDone s f op x c n (leNat (bs.take n))) f (bs.take n)
          | .load =>
            (match f.pieces[r.piece]? with
             | none => s
             | some p =>
               let f := { f with data := spliceBytes f.length p.pos f.data (bs.take p.len), pieces := f.pieces.set r.piece { p with done := true } }
               if f.pieces.all (fun q => q.done) then endFar s f f.data else setFar s f)
          | _ => endFar s f []

/-- The first delivered packet of some kind, taken. -/
def takeDelivered (s : State) (kind : Nat) : Option (State × Packet) :=
  match s.fabric.deliver.find? (fun p => p.kind.toNat == kind) with
  | none => none
  | some pk => some ({ s with fabric := { s.fabric with deliver := s.fabric.deliver.erase pk } }, pk)
/-- A response of some kind that has arrived. -/
def onResponse (s : State) (kind : Nat) : Host.Outcome State Fault Refusal :=
  .next (match takeDelivered s kind with
    | some (s, pk) => answered s (pTag pk) (pStatus pk) pk.data
    | none => s)
/-- R65: Read data arrives. -/
def execReadData (s : State) : Host.Outcome State Fault Refusal := onResponse s 2
/-- R65: a Write acknowledge arrives. -/
def execWriteAcknowledge (s : State) : Host.Outcome State Fault Refusal := onResponse s 4
/-- R65: an Atomic result arrives. -/
def execAtomicResult (s : State) : Host.Outcome State Fault Refusal := onResponse s 6
/-- R65: the request with tag `n` has had no response for PEERTMO; with `flag`, an arrival that rank `n` of a collective awaits has not come
from the device `k`, which is unreachable (R80). -/
def execPeerTimeout (s : State) : Host.Outcome State Fault Refusal :=
  .next (if s.ev.flag then
      match s.coll.find? (fun c => c.id == s.ev.n && c.awaits) with
      | some c => failWaiting s c.job c.collid s.ev.k
      | none => s
    else answered s s.ev.n 0x30 [])
/-- Whether a request is the oldest unacknowledged one of its stream. -/
def Request.oldest (r : Request) (s : State) : Bool := (outStream s (streamKey r.pkt)).unacked.head?.any (fun p => pTag p == pTag r.pkt)
/-- R57: the retried request with tag `n` is sent again, once an earlier packet of its stream has been answered, or when none is left. -/
def execRetryResend (s : State) : Host.Outcome State Fault Refusal :=
  .next (match requestOf s s.ev.n with
    | none => s
    | some r =>
      let first := r.oldest s
      if r.retry && (r.again || first) then
        let pk := withFirst r.pkt first
        injectPacket { s with fabric := { s.fabric with requests := s.fabric.requests.map (fun (q : Request) =>
          if pTag q.pkt == pTag r.pkt then { q with retry := false, again := false, pkt := pk } else q) } } pk
      else s)

/-! ## Order at the target (R57) -/

/-- The order table with the least recently used entry that holds nothing evicted where it is full; none where every entry holds. -/
def evictOrder (l : List ((BitVec 16 × BitVec 16 × BitVec 4) × InStream)) : Option (List ((BitVec 16 × BitVec 16 × BitVec 4) × InStream)) :=
  if l.length < 4096 then some l
  else (l.reverse.find? (fun p => p.2.held.isEmpty)).map (fun v => l.filter (fun p => p.1 != v.1))
/-- The stream number of a packet. -/
def seqNumber (pk : Packet) : BitVec 12 := BitVec.ofNat 12 pk.seq.toNat
/-- Held packets that follow a number, in order, and the next expected number. -/
def drainHeld (fuel : Nat) (n : BitVec 12) (held : List Packet) : List Packet × BitVec 12 × List Packet :=
  match fuel with
  | 0 => ([], n, held)
  | k + 1 =>
    match held.find? (fun p => seqNumber p == n) with
    | none => ([], n, held)
    | some p =>
      let r := drainHeld k (n + 1) (held.filter (fun q => seqNumber q != n))
      (p :: r.1, r.2)
/-- A sequenced packet at its target: performed in order, held, or answered with retry. [DEDUCED, unsafe: log 82] -/
def sequencedArrival (s : State) (pk : Packet) : State :=
  let key := (pk.origin, pk.job, BitVec.ofNat 4 (pk.seq.toNat / 4096))
  let n := seqNumber pk
  let e := (s.fabric.order.find? (fun p => p.1 == key)).map (fun p => p.2)
  let rest := s.fabric.order.filter (fun p => p.1 != key)
  let retry := reply { s with fabric := { s.fabric with ordretry := s.fabric.ordretry + 1 } } pk 0x3F
  let perform := fun (l : List ((BitVec 16 × BitVec 16 × BitVec 4) × InStream)) (held : List Packet) =>
    let (ps, next, held) := drainHeld held.length (n + 1) held
    { s with fabric := { s.fabric with serve := s.fabric.serve ++ pk :: ps, order := (key, { expected := next, held := held }) :: l } }
  match e with
  | none => if pFirst pk then (match evictOrder rest with | some l => perform l [] | none => retry) else retry
  | some e =>
    if pFirst pk || n = e.expected then perform rest e.held
    else
      let ahead := (n - e.expected).toNat
      let stored := (s.fabric.order.map (fun p => p.2.held.length)).foldl (· + ·) 0
      if ahead ≤ 2048 && stored < 1024 && !e.held.any (fun q => seqNumber q == n) then
        { s with fabric := { s.fabric with order := (key, { e with held := e.held ++ [pk] }) :: rest } }
      else retry
/-- R57: the first sequenced packet delivered meets the order table. -/
def execSequencedPacketArrival (s : State) : Host.Outcome State Fault Refusal :=
  .next (match s.fabric.deliver.find? (fun p => sequenced p.kind.toNat) with
    | some pk => sequencedArrival { s with fabric := { s.fabric with deliver := s.fabric.deliver.erase pk } } pk
    | none => s)

/-! ## Draining (R69) -/

/-- A drain of a port starts: later packets take it as Down, and a marker goes out on each channel. [DEDUCED, unsafe: log 83] -/
def drainPort (s : State) (p : Nat) : State :=
  if !isPort p then s
  else
    let v := s.port p
    let mark := newPacket s 0x0B (ownId s) 0 [(6, 0, p)] []
    s.setPort p { v with drained := true, chans := v.chans.map (fun (c : Channel) => { c with egress := c.egress ++ [(0, mark)] }) }
/-- R69: FAB_DRAIN with GO and port `n`. -/
def execFabricDrain (s : State) : Host.Outcome State Fault Refusal := .next (drainPort s s.ev.n)
/-- R69: a drain marker at the head of channel `k` of port `n`: on the fourth the port's bit and the note. -/
def execDrainMarker (s : State) : Host.Outcome State Fault Refusal :=
  onPort s (fun s p v =>
    let c := s.ev.k % 4; let x := v.chan c
    match x.ingress with
    | pk :: rest =>
      if pk.kind != 0x0B then s
      else
        let m := v.markers ||| BitVec.ofNat 4 (2 ^ c)
        let v := v.setChan c { x with ingress := rest, held := x.held - 1, freed := x.freed + 1 }
        if m != 15 then s.setPort p { v with markers := m }
        else
          let d := s.fabric.dstat ||| BitVec.ofNat 80 (2 ^ p)
          let s := { s.setPort p { v with markers := 0 } with fabric := { s.fabric with dstat := d } }
          if s.fabric.note &&& ~~~(7 : Word) = 0 then s
          else if p < 64 then noteStore64 s s.fabric.note (BitVec.ofNat 64 d.toNat)
          else noteStore64 s ((s.fabric.note &&& ~~~(7 : Word)) + 8) (BitVec.ofNat 64 (d.toNat / 2 ^ 64))
    | [] => s)

end Sys2Proof.Machine
end

