-- ==== Sys2Proof/Machine/MemEv.lean ====
section
/-! DEFINITION. Machine/MemEv.lean: events of the memory hierarchy: walks and invalidations (R159, R161), the bank hash (R153), gating of
banks and segments and their wakes (R162 to R164). -/
namespace Sys2Proof.Machine

/-! ## Walks (R159, R160) -/

/-- A walk ends: the tables as they stand fill the die TLB, every requesting cluster TLB and micro-TLB, or the failure goes to every access
that joined; a walk that waited for a place starts, and misses that waited take theirs (R159). -/
def walkEnd (s : State) (i : Nat) (w : Walk) : State :=
  let invs := s.xlt.invs.map (fun (v : Inv) => if i < v.walks then { v with walks := v.walks - 1 } else v)
  let waits := decide (64 < (s.xlt.walks.filter (fun x => x.die == w.die)).length)
  let s := { s with xlt := { s.xlt with walks := s.xlt.walks.eraseIdx i, invs := invs } }
  let s := if waits then s.setDie w.die { s.die w.die with walks := (s.die w.die).walks + 1 } else s
  let s := match walkTables s w.ctx (w.vpage * 0x10000) with
    | .error c =>
      let s := hubUe s w.ctx (BitVec.ofNat 64 (w.vpage * 0x10000)) 1 c
      { s with xlt := { s.xlt with failed := s.xlt.failed ++ w.tids.map (fun t => (t, w.ctx, w.vpage, c)) } }
    | .ok e =>
      let s := fillDie s w.die e
      let s := (w.cores.map clusterOfCore).eraseDups.foldl (fun s c => fillCluster s c e) s
      w.cores.foldl (fun s g => fillMicro s g e) s
  admitMisses s.xlt.wait s
/-- Whether walk number i runs: it is among the first sixty-four of its die (R159), and no table it reads lies in a waking segment. -/
def walkRuns (s : State) (i : Nat) (w : Walk) : Bool :=
  decide (((s.xlt.walks.take i).filter (fun x => x.die == w.die)).length < 64) && !tablesWait s w.ctx (w.vpage * 0x10000) 1
/-- R159: TLB_WALK_COMPLETE: walk number n ends. -/
def execTlbWalkComplete (s : State) : Host.Outcome State Fault Refusal :=
  .next (match s.xlt.walks[s.ev.n]? with
    | some w => if walkRuns s s.ev.n w then walkEnd s s.ev.n w else s
    | none => s)

/-! ## Invalidations (R161) -/

/-- Whether an invalidation names an entry. -/
def Inv.hits (v : Inv) (e : TlbEntry) : Bool := e.ctx == v.ctx && (v.all || (e.vpage ≤ v.vpage && v.vpage < e.vpage + e.pages))
/-- Every matching entry gone from every level on every die. -/
def dropEntries (s : State) (v : Inv) : State :=
  let cut := fun (_ : Nat) (l : List TlbEntry) => l.filter (fun e => !v.hits e)
  { s with xlt := { s.xlt with micro := tmap s.xlt.micro cut, cluster := tmap s.xlt.cluster cut, die := tmap s.xlt.die cut } }
/-- A write to XLT_INV. [DEDUCED, unsafe: log 62] -/
def xltInvWrite (s : State) (x : Word) : State :=
  let v : Inv := { all := bitOf x 63, ctx := bitsOf x 53 48, vpage := bitsOf x 47 16, walks := s.xlt.walks.length, mark := s.nextId }
  dropEntries { s with xlt := { s.xlt with invs := s.xlt.invs ++ [v] } } v
/-- R161: XLT_INV: the word written. -/
def execXltInv (s : State) : Host.Outcome State Fault Refusal := .next (xltInvWrite s s.ev.word)
/-- Whether a far access that was issued before an invalidation may use an entry that it names. -/
def Far.under (f : Far) (v : Inv) : Bool :=
  f.ctx == v.ctx && f.id < v.mark && !f.over &&
  (v.all || f.pieces.any (fun q => (cuts (addr48 (f.pieceAddr q)) (max 1 q.len) (2 ^ 30)).any (fun p => p.1 / 2 ^ 30 == v.vpage / 2 ^ 14)))
/-- R161: XLT_INV_COMPLETE: the oldest invalidation ends when older walks have ended and older accesses are done; of more than 16 the
next one is then performed. -/
def execXltInvComplete (s : State) : Host.Outcome State Fault Refusal :=
  .next (match s.xlt.invs with
    | [] => s
    | v :: r =>
      if v.walks != 0 || s.far.any (fun f => f.under v) then s
      else
        let s := dropEntries s v
        let late := match r[15]? with
          | some w => [{ w with walks := s.xlt.walks.length, mark := s.nextId }]
          | none => []
        let s := { s with xlt := { s.xlt with invs := r.take 15 ++ late ++ r.drop 16, done := s.xlt.done + 1 } }
        late.foldl dropEntries s)

/-! ## The bank hash (R151, R153) -/

/-- A write to SPAD_HASH. -/
def spadHashWrite (s : State) (c : Nat) (x : Word) : State :=
  let m : BitVec 6 × BitVec 6 := (BitVec.ofNat 6 (bitsOf x 5 0), BitVec.ofNat 6 (bitsOf x 13 8))
  if clusterUsed s c then s.setCluster c { s.cluster c with pend := some m } else applyHash s c m
/-- R153: SPAD_HASH: cluster n, the word written. -/
def execSpadHash (s : State) : Host.Outcome State Fault Refusal := .next (if s.ev.n < 256 then spadHashWrite s s.ev.n s.ev.word else s)
/-! ## Gating (R162) -/

/-- A scratchpad bank filled with zeros. -/
def zeroBank (s : State) (c b : Nat) : State :=
  let k := s.cluster c
  let inBank := fun (x : Nat) => decide (spadKey s c 0 ≤ x) && decide (x < spadKey s c 0 + 0x400000) && spadBank k (x - spadKey s c 0) == b
  let s := { s with poison := s.poison.filter (fun u => !inBank u) }
  if k.epoch = 0 then { s with mem := s.mem.filter (fun x => !inBank x.1) }
  else
    { s with mem := (List.range 8192).foldl (fun m row =>
        let off := row * 512 + ((b ^^^ (row % 64 &&& k.m1.toNat)) ^^^ (row / 64 % 64 &&& k.m2.toNat)) * 8
        memPuts m (spadKey s c off) (List.replicate 8 0)) s.mem }
/-- A segment of die SRAM filled with zeros. -/
def zeroSegment (s : State) (d g : Nat) : State :=
  let k := sramBase + d * 0x40000000 + g * 0x4000000
  { s with mem := memZero s.mem k 0x4000000, poison := s.poison.filter (fun u => !(k ≤ u && u < k + 0x4000000)) }

/-- The bits of a word that are set, below n. -/
def setBitsOf (n : Nat) (x : Nat) : List Nat := (List.range n).filter (fun i => x / 2 ^ i % 2 == 1)
/-- Whether an access waits in the replay queue of a scratchpad bank. -/
def bankQueued (s : State) (c b : Nat) : Bool :=
  s.replay.any (fun a => a.who.live s && (wordsOf a.key a.len).any (fun w =>
    isSpad w && (w % epochSpan - spadBase) / 0x400000 == c && spadBank (s.cluster c) ((w % epochSpan - spadBase) % 0x400000) == b))
/-- Whether an access waits in the replay queue of a segment. -/
def segmentQueued (s : State) (d g : Nat) : Bool :=
  s.replay.any (fun a => a.who.live s && (wordsOf a.key a.len).any (fun w =>
    isSram w && (w - sramBase) / 0x40000000 == d && (w - sramBase) % 0x40000000 / 0x4000000 == g))
/-- The bits of a mask whose bank or segment has an empty queue. -/
def idleBits (n x : Nat) (queued : Nat → Bool) : Nat := ((setBitsOf n x).filter (fun i => !queued i)).foldl (fun m i => m + 2 ^ i) 0
/-- A write to SPAD_GATE: a bank with accesses in its queue turns off after them. -/
def spadGateWrite (s : State) (c : Nat) (x : Word) : State :=
  let k := s.cluster c
  let offs := x &&& ~~~k.gate
  let ons := k.gate &&& ~~~x
  if offs != 0 && s.launches.any (fun l => l.holds s && (l.inCluster c).isSome && l.spu != 0) then s
  else
    let wakes := ons &&& k.off
    let now : Word := BitVec.ofNat 64 (idleBits 64 (offs &&& ~~~k.wake).toNat (bankQueued s c))
    let s := s.setCluster c { k with gate := x, off := (k.off ||| now) &&& ~~~wakes, wake := k.wake ||| wakes }
    (setBitsOf 64 wakes.toNat).foldl (fun s b => zeroBank s c b) s
/-- R162: SPAD_GATE: cluster n, the word written. -/
def execSpadGate (s : State) : Host.Outcome State Fault Refusal := .next (if s.ev.n < 256 then spadGateWrite s s.ev.n s.ev.word else s)

/-- Whether some page of a virtual range of a context lies in a physical range. -/
def rangeMeets (n : Nat) (s : State) (c va left k len : Nat) : Bool :=
  match n with
  | 0 => false
  | n + 1 =>
    if left = 0 then false
    else
      let step := min left (0x10000 - va % 0x10000)
      (match walkTables s c va with
       | .ok e => overlap (e.physOf va) step k len
       | .error _ => false) || rangeMeets n s c (va + step) (left - step) k len
/-- Whether a segment holds part of a resident launch's deque tier, or of a context area. -/
def segmentUsed (s : State) (k : Nat) : Bool :=
  s.launches.any (fun l => l.holds s && l.dqsram != 0 &&
    rangeMeets (4 * l.dqsram + 1) s l.ctx l.dqbase (4096 * l.dqsram * 64) k 0x4000000) ||
  s.ctxs.any (fun p => p.2.live && overlap (areaBase p.2) p.2.alen.toNat k 0x4000000)
/-- A write to DSRAM_GATE. -/
def dsramGateWrite (s : State) (d : Nat) (w : Word) : State :=
  let x : BitVec 10 := BitVec.ofNat 10 w.toNat
  let k := s.die d
  let offs := x &&& ~~~k.gate
  let ons := k.gate &&& ~~~x
  if (setBitsOf 10 offs.toNat).any (fun g => segmentUsed s (sramBase + d * 0x40000000 + g * 0x4000000)) then s
  else
    let wakes := ons &&& k.off
    let now : BitVec 10 := BitVec.ofNat 10 (idleBits 10 (offs &&& ~~~k.wake).toNat (segmentQueued s d))
    let s := s.setDie d { k with gate := x, off := (k.off ||| now) &&& ~~~wakes, wake := k.wake ||| wakes }
    (setBitsOf 10 wakes.toNat).foldl (fun s g => zeroSegment s d g) s
/-- R162: DSRAM_GATE: die n, the word written. -/
def execDsramGate (s : State) : Host.Outcome State Fault Refusal := .next (if s.ev.n < 4 then dsramGateWrite s s.ev.n s.ev.word else s)

/-- R162: BANK_WAKE_COMPLETE: bank k of cluster n, or with the flag segment k of die n: its WAKE bit clears, and what has waited for the
fill is performed (R163); a bank that is to be turned off does so once its queue is empty. -/
def execBankWakeComplete (s : State) : Host.Outcome State Fault Refusal :=
  .next (
    if s.ev.flag then
      let b : BitVec 10 := BitVec.ofNat 10 (2 ^ (s.ev.k % 10))
      let woke := (s.die s.ev.n).wake &&& b != 0
      let s := if woke then (let s' := s.setDie s.ev.n { s.die s.ev.n with wake := (s.die s.ev.n).wake &&& ~~~b }; flushHub s'.replay [] s') else s
      let k := s.die s.ev.n
      if k.gate &&& b != 0 && k.wake &&& b = 0 && !segmentQueued s s.ev.n (s.ev.k % 10) then s.setDie s.ev.n { k with off := k.off ||| b } else s
    else
      let b : Word := BitVec.ofNat 64 (2 ^ (s.ev.k % 64))
      let woke := (s.cluster s.ev.n).wake &&& b != 0
      let s := if woke then (let s' := s.setCluster s.ev.n { s.cluster s.ev.n with wake := (s.cluster s.ev.n).wake &&& ~~~b }; flushHub s'.replay [] s') else s
      let k := s.cluster s.ev.n
      if k.gate &&& b != 0 && k.wake &&& b = 0 && !bankQueued s s.ev.n (s.ev.k % 64) then s.setCluster s.ev.n { k with off := k.off ||| b } else s)

end Sys2Proof.Machine
end

