-- ==== Sys2Proof/Machine/Peer.lean ====
section
/-! DEFINITION. Machine/Peer.lean: requests of other devices performed here (R49, R63, R158), three-party reads at owner and destination
(R67, R68, R365), Task records and Return messages (R115 to R117), and Collective packets (R79). -/
namespace Sys2Proof.Machine

/-! ## Requests at the home -/

/-- The first packet of a kind that waits to be performed, with nothing of its order stream before it; `n` of them are passed over. -/
def nextServed (s : State) (kind n : Nat) : Option Packet :=
  let same := fun (a b : Packet) => a.origin == b.origin && a.job == b.job && a.seq.toNat / 4096 == b.seq.toNat / 4096
  let ready := s.fabric.serve.zipIdx.filter (fun p => p.1.kind.toNat == kind && !(s.fabric.serve.take p.2).any (fun q => same q p.1))
  (ready[n]?).map (fun p => p.1)
/-- A packet that has been performed. -/
def served (s : State) (pk : Packet) : State := { s with fabric := { s.fabric with serve := s.fabric.serve.erase pk } }

/-- What a request meets first: its context, a status that answers it at once, or a wait (R49, R96, R293). -/
inductive Meets where
  | ctx (c : Nat)
  | status (code : Nat)
  | waits
/-- The context of a request from the fabric. [DEDUCED, unsafe: log 80] -/
def meets (s : State) (pk : Packet) : Meets :=
  match jobCtx s pk.job with
  | none => .status 0x11
  | some c =>
    if s.cpl.state != .idle then .status 0x30
    else if (s.ctx c).save == .stopping || (s.ctx c).save == .writing || (s.ctx c).save == .restoring then .waits
    else .ctx c

/-- The keys of a request's bytes, or its status. [DEDUCED, unsafe: log 80] -/
def requestKeys (s : State) (c : Nat) (pk : Packet) (rights : List Nat) : Except Nat (List (Nat × Nat)) :=
  let a := pAddr pk; let n := pSize pk
  if n = 0 || 4096 < n then .error 0x01
  else if 0xFFF000000000 < a + n then .error 0x10
  else match hubKeys s c a n rights with
    | .ok ks => .ok ks
    | .error (k, _) => .error k
/-- A request answered with a status. -/
def refuse (s : State) (pk : Packet) (code : Nat) : State := reply (served s pk) pk code
/-- A request refused for a cause that its translation or its home has given; an uncorrectable error that it has met is counted (R155). -/
def refuseAt (s : State) (c : Nat) (pk : Packet) (k : Nat) : State := refuse (hubUe s c (BitVec.ofNat 64 (pAddr pk)) (pSize pk) k) pk k

/-- A request of the fabric arrives at the homes of its bytes: whether it waits there (R163). -/
def packetArrive (s : State) (pk : Packet) (c : Nat) (ks : List (Nat × Nat)) : State × Bool :=
  if tablesWait s c (pAddr pk) (pSize pk) then (s, true) else arrive s (.packet pk.origin (pTag pk)) ks

/-- R63: a peer Read: PRD, then Read data. `n` passes over earlier ones of other streams. -/
def execRead (s : State) : Host.Outcome State Fault Refusal :=
  .next (match nextServed s 1 s.ev.n with
    | none => s
    | some pk =>
      match meets s pk with
      | .waits => s
      | .status k => refuse s pk k
      | .ctx c =>
        match requestKeys s c pk [rightPRD] with
        | .error k => refuseAt s c pk k
        | .ok ks =>
          if (inletAt s c (pAddr pk)).isSome then refuse s pk 0x11
          else match packetArrive s pk c ks with
            | (s, true) => s
            | (s, false) =>
              match readKeys s ks with
              | .error k => refuse (countUe s ks k) pk k
              | .ok bs => reply (served s pk) pk 0 bs)

/-- R63: a peer Write: PWR, performed, then a Write acknowledge; to an inlet, as the stream takes it (R262). [DEDUCED, unsafe: log 81] -/
def execWrite (s : State) : Host.Outcome State Fault Refusal :=
  .next (match nextServed s 3 s.ev.n with
    | none => s
    | some pk =>
      match meets s pk with
      | .waits => s
      | .status k => refuse s pk k
      | .ctx c =>
        let bs := pk.data.take (pSize pk)
        match requestKeys s c pk [rightPWR] with
        | .error k => refuseAt s c pk k
        | .ok ks =>
          match inletAt s c (pAddr pk) with
          | some (g, i) =>
            let (s, took) := inletStore s g i (pAddr pk % 4096) bs
            if bs.length ≤ took then reply (served s pk) pk 0
            else
              let rest := { pk with data := pk.data.drop took, body := setBits pk.body 375 363 (pSize pk - took) }
              { s with fabric := { s.fabric with serve := s.fabric.serve.map (fun q => if q == pk then rest else q) } }
          | none =>
            match packetArrive s pk c ks with
            | (s, true) => s
            | (s, false) =>
              match writeKeys s ks bs with
              | .error k => refuse (countUe s ks k) pk k
              | .ok s => reply (served s pk) pk 0)

/-- R63: a peer Atomic: PRD and PWR, performed indivisibly, then the old value; a reserved OP is answered with 0x01 (R50). -/
def execAtomic (s : State) : Host.Outcome State Fault Refusal :=
  .next (match nextServed s 5 s.ev.n with
    | none => s
    | some pk =>
      match meets s pk with
      | .waits => s
      | .status k => refuse s pk k
      | .ctx c =>
        match amoOfCode (pbits pk 333 330) with
        | none => refuse s pk 0x01
        | some op =>
          match requestKeys s c pk [rightPRD, rightPWR] with
          | .error k => refuseAt s c pk k
          | .ok ks =>
            let n := pSize pk
            if (inletAt s c (pAddr pk)).isSome then refuse s pk 0x11
            else match packetArrive s pk c ks with
              | (s, true) => s
              | (s, false) =>
                match readKeys s ks with
                | .error k => refuse (countUe s ks k) pk k
                | .ok bs =>
                  let old := leNat bs
                  let x := leNat (pk.data.take n); let cmp := leNat ((pk.data.drop n).take n)
                  let s := if op == .cas && old != cmp then s else putKeys s ks (natBytes n (op.apply n old x cmp))
                  reply (served s pk) pk 0 (natBytes n old))

/-! ## Three-party reads (R67, R68, R364, R365) -/

/-- The device ids of a multicast group, in member order (R71). -/
def groupDevices (s : State) (q : Nat) : List Nat :=
  ((List.range 64).map (fun i => (tget s.fabric.mcast (q * 64 + i) 0).toNat)).takeWhile (fun d => d != 0xFFFF)

/-- Who A is, where this device is A: its core and thread set; and the source, where this device is A or the owner. They are free values
elsewhere, since no packet carries them. [DESIGN CHOICE, safe: log 78] -/
def partyA (s : State) (adev : Nat) (atag : Nat) : State × Nat × Nat × Word :=
  match (if adev = ownId s then tfind s.fabric.forwards atag else none) with
  | some f => (s, f.tid / 4, f.tid % 4, BitVec.ofNat 64 (addr48 f.addr))
  | none =>
    let (s, x) := freshWord s
    let (s, y) := match s.fabric.deliveries.find? (fun d => d.adev.toNat == adev && d.atag.toNat == atag) with
      | some d => (s, BitVec.ofNat 64 d.src)
      | none => freshWord s
    (s, bitsOf x 11 0, bitsOf x 15 12, y)
/-- The member index of this device in a delivery (R365), as it knows it: as the owner, as A, or from a status of B; else a free value.
[DESIGN CHOICE, safe: log 78] -/
def memberIndex (s : State) (a : Arrival) : State × Nat :=
  let own := s.fabric.deliveries.find? (fun d => d.adev == a.adev && d.atag == a.atag && d.cdev.toNat == ownId s)
  let mine := if a.adev.toNat = ownId s then tfind s.fabric.forwards a.atag.toNat else none
  match a.member, own, mine with
  | some m, _, _ => (s, m)
  | none, some d, _ => (s, d.member.getD 0)
  | none, none, some f =>
    (s, match f.kind with | .forward true => (groupDevices s (bitsOf (leWord (f.data.drop 8)) 39 32)).idxOf (ownId s) | _ => 0)
  | none, none, none =>
    let (s, x) := freshWord s
    (s, bitsOf x 5 0)
/-- A completion record in ring `ring` of a context (R365). -/
def ringRecord (s : State) (c ring : Nat) (adev atag member status bytes : Nat) (dest : Word) : State :=
  let x := s.ctx c
  if x.crTable = 0 then s
  else
    let d := x.crTable + BitVec.ofNat 64 (32 * ring)
    match hubRead s c d 32 with
    | .error k => hubUe s c d 32 k
    | .ok bs =>
      let w := leWords 4 bs
      let base := w.getD 0 0
      let log := bitsOf (w.getD 1 0) 4 0
      let size := if 4 ≤ log && log ≤ 16 then 2 ^ log else 16
      let prod := (w.getD 2 0).toNat % 2 ^ 32; let cons := (w.getD 3 0).toNat % 2 ^ 32
      let lose := fun (s : State) =>
        match hubWrite s c (d + 8) (natBytes 8 (bitsOf (w.getD 1 0) 31 0 + (bitsOf (w.getD 1 0) 63 32 + 1) % 2 ^ 32 * 2 ^ 32)) with
        | .ok s => s
        | .error k => hubUe s c (d + 8) 8 k
      if base = 0 || size ≤ (prod + 2 ^ 32 - cons) % 2 ^ 32 then lose s
      else
        let (s, core, ts, src) := partyA s adev atag
        let w0 := adev * 2 ^ 48 + core % 4096 * 2 ^ 36 + ts % 16 * 2 ^ 32 + member % 256 * 2 ^ 24 + status % 128
        let rec_ := natBytes 8 w0 ++ natBytes 8 bytes ++ natBytes 8 dest.toNat ++ natBytes 8 src.toNat
        let slot := base + BitVec.ofNat 64 (32 * (prod % size))
        match hubWrite s c slot rec_ with
        | .error k => lose (hubUe s c slot 32 k)
        | .ok s' =>
          match hubWrite s' c (d + 16) (natBytes 8 ((prod + 1) % 2 ^ 32)) with
          | .ok s'' => s''
          | .error k => lose (hubUe s c (d + 16) 8 k)

/-- Whether the descriptor of one of some completion rings must be waited for (R163, R365). -/
def ringsWait (s : State) (c : Nat) (rings : List Nat) : Bool :=
  (s.ctx c).crTable != 0 && rings.any (fun r => hubWaits s c ((s.ctx c).crTable + BitVec.ofNat 64 (32 * r)) 32)

/-- The status of a failure at the owner (R68): 0x61 for an uncorrectable error, else 0x11: a source page that does not translate counts as
one whose right is missing. [DEDUCED, unsafe: log 79] -/
def ownerCode (k : Nat) : Nat := if k = 0x61 then 0x61 else 0x11
/-- Owner B takes a Forward request (R67): every source page needs FSRC in the job's context; then acceptance and the deliveries; a
refusal names A its member index where it is one of the destinations. [DEDUCED, unsafe: log 79] -/
def acceptForward (s : State) (adev : Nat) (job : BitVec 16) (tag : Nat) (src n cdev dst ring mgroup : Nat) (cast : Bool) : State :=
  let pages := match jobCtx s job with | some c => hubKeys s c src n [rightFSRC] | none => .error (0x11, 0)
  let members := if cast then (groupDevices s mgroup).zipIdx.map (fun p => (p.1, some p.2)) else [(cdev, none)]
  match jobCtx s job, pages with
  | some c, .ok _ =>
    let ds := members.map (fun m => { adev := BitVec.ofNat 16 adev, atag := BitVec.ofNat 16 tag, job := job, ctx := c, src := src, dst := dst,
                                      cdev := BitVec.ofNat 16 m.1, ring := ring, bytes := n, member := m.2 : Delivery })
    let old := s.fabric.deliveries.filter (fun d => !(d.adev.toNat == adev && d.atag.toNat == tag))
    forwardStatus { s with fabric := { s.fabric with deliveries := old ++ ds } } adev job tag 0 (ownId s) 0 0
  | _, .error (k, a) =>
    let s := match jobCtx s job with | some c => hubUe s c (BitVec.ofNat 64 a) 1 k | none => s
    let s := members.foldl (fun s m => if m.1 = adev then s else forwardStatus s m.1 job tag (ownerCode k) (ownId s) 0 (m.2.getD 0)) s
    forwardStatus s adev job tag (ownerCode k) (ownId s) 0 (((members.find? (fun m => m.1 == adev)).bind (fun m => m.2)).getD 0)
  | none, .ok _ => s

/-- The bytes of the next unit of a delivery: destination-aligned 4 KiB. -/
def Delivery.unitBytes (d : Delivery) : Nat := min (d.bytes - d.done) (4096 - (d.dst + d.done) % 4096)
/-- One unit of a delivery read and sent, in member order within a cast (R67); a failure ends the delivery (R68). -/
def deliverUnit (s : State) (i : Nat) : State :=
  match s.fabric.deliveries[i]? with
  | none => s
  | some d =>
    let before := (s.fabric.deliveries.take i).any (fun e => e.adev == d.adev && e.atag == d.atag && e.done < e.bytes && e.unit ≤ d.unit)
    if before || d.bytes ≤ d.done then s
    else
      let n := d.unitBytes
      let fail := fun (s : State) (code : Nat) =>
        let s := { s with fabric := { s.fabric with deliveries := s.fabric.deliveries.eraseIdx i } }
        let s := forwardStatus s d.adev.toNat d.job d.atag.toNat code (ownId s) d.unit (d.member.getD 0)
        if d.cdev = d.adev then s else forwardStatus s d.cdev.toNat d.job d.atag.toNat code (ownId s) d.unit (d.member.getD 0)
      if tablesWait s d.ctx (d.src + d.done) n then s
      else match hubKeys s d.ctx (d.src + d.done) n [rightFSRC] with
      | .error (k, a) => fail (hubUe s d.ctx (BitVec.ofNat 64 a) 1 k) (ownerCode k)
      | .ok ks =>
        match arrive s (.forward d.adev d.atag.toNat d.cdev) ks with
        | (s, true) => s
        | (s, false) =>
          match readKeys s ks with
          | .error k => fail (countUe s ks k) (ownerCode k)
          | .ok bs =>
            let last := decide (d.bytes ≤ d.done + n)
            let p := newPacket s 8 d.cdev.toNat d.job
              (reqFields (d.dst + d.done) n 0 ++ [(303, 288, d.adev.toNat), (287, 272, d.atag.toNat), (271, 258, d.unit), (257, 257, if last then 1 else 0),
               (239, 234, d.ring)]) bs
            let ds := s.fabric.deliveries.set i { d with done := d.done + n, unit := d.unit + 1 }
            { s with fabric := { s.fabric with
                deliveries := ds
                deliver := if d.cdev.toNat = ownId s then s.fabric.deliver ++ [p] else s.fabric.deliver
                inject := if d.cdev.toNat = ownId s then s.fabric.inject else s.fabric.inject ++ [p] } }

/-- R67: owner B: with `flag` the next unit of delivery `n` is read and sent; else a Forward request is taken, from the fabric, or from a
thread set of this device where this device is the owner (far access `n` where `k` is 1). [DESIGN CHOICE, safe: log 77] -/
def execForwardRequest (s : State) : Host.Outcome State Fault Refusal :=
  .next (if s.ev.flag then deliverUnit s s.ev.n
    else if s.ev.k = 1 then
      match s.far.find? (fun f => f.id == s.ev.n && f.dev == 0 && !f.sent && !farTainted s f) with
      | some f =>
        (match f.kind with
         | .forward cast =>
           let pk := farPacket s { f with dev := ownId s + 1 }
           let tag := freeTag s
           if (jobCtx s pk.job).any (fun c => tablesWait s c (pAddr pk) (pbits pk 329 304)) then s else
           let s := { s with fabric := { s.fabric with nextTag := tag + 1 } }
           let s := setFar s { f with sent := true, tag := some tag }
           acceptForward s (ownId s) pk.job tag.toNat (pAddr pk) (pbits pk 329 304) (pbits pk 303 288) (pbits pk 287 240) (pbits pk 239 234)
             (pbits pk 233 226) cast
         | _ => s)
      | none => s
    else
      match nextServed s 7 s.ev.n with
      | none => s
      | some pk =>
        let go := acceptForward (served s pk) pk.origin.toNat pk.job (pTag pk) (pAddr pk) (pbits pk 329 304) (pbits pk 303 288) (pbits pk 287 240)
          (pbits pk 239 234) (pbits pk 233 226) (pbits pk 225 225 == 1)
        match meets s pk with
        | .waits => s
        | .status 0x30 => refuse s pk 0x30
        | .ctx c => if tablesWait s c (pAddr pk) (pbits pk 329 304) then s else go
        | _ => go)

/-- The arrival of a delivery at destination C. -/
def arrivalOf (s : State) (adev atag : BitVec 16) : Arrival :=
  (s.fabric.arrivals.find? (fun a => a.adev == adev && a.atag == atag)).getD { adev := adev, atag := atag }
/-- The arrival replaced, or forgotten. -/
def setArrival (s : State) (a : Arrival) (keep : Bool) : State :=
  let rest := s.fabric.arrivals.filter (fun x => !(x.adev == a.adev && x.atag == a.atag))
  { s with fabric := { s.fabric with arrivals := if keep then rest ++ [a] else rest } }
/-- Whether the units 0 to n - 1 have been written. -/
def Arrival.upTo (a : Arrival) (n : Nat) : Bool := (List.range n).all (fun i => a.got.any (fun p => p.1 == i))
/-- The bytes written from DEST on as one run (R365). -/
def Arrival.run (a : Arrival) (n fuel : Nat) : Nat :=
  match fuel with
  | 0 => 0
  | k + 1 => match tfind a.got n with | some b => b + Arrival.run a (n + 1) k | none => 0
/-- The completion record, once every unit it reports has been performed: after the last one, or after those before the first that failed
(R67, R68). A device that no unit has told the ring or the destination takes free values. -/
def closeArrival (s : State) (c : Nat) (a : Arrival) : State :=
  let ended := match a.fail, a.total with
    | some (u, k), _ => if a.upTo u then some k else none
    | none, some n => if a.upTo n then some 0 else none
    | none, none => none
  match ended with
  | none => setArrival s a true
  | some status =>
    let (s, r) := match a.ring with | some r => (s, r) | none => let (s, x) := freshWord s; (s, bitsOf x 5 0)
    let (s, d) := match a.first with | some d => (s, BitVec.ofNat 64 d) | none => freshWord s
    let (s, m) := memberIndex s a
    setArrival (ringRecord s c r a.adev.toNat a.atag.toNat m status (a.run 0 (a.got.length + 1)) d) { a with told := true } (a.fail.isSome && a.total.isNone)
/-- A failure told to an arrival: of its failed units the first counts. -/
def Arrival.failAt (a : Arrival) (u code : Nat) : Arrival :=
  { a with fail := match a.fail with | some f => if f.1 ≤ u then some f else some (u, code) | none => some (u, code) }
/-- Destination C takes a unit (R67, R68): FDST on every page, the unit whole; a unit behind one that failed is not written. A unit that
fails is reported to A, and to the owner, which sends no later one. [DEDUCED, unsafe: log 79] -/
def takeUnit (s : State) (pk : Packet) : State :=
  let adev := BitVec.ofNat 16 (pbits pk 303 288); let atag := BitVec.ofNat 16 (pbits pk 287 272)
  let unit := pbits pk 271 258; let n := pSize pk
  let a0 := arrivalOf s adev atag
  let a0 := if a0.told && (match a0.fail with | some f => decide (unit ≤ f.1) | none => true) then { adev := adev, atag := atag : Arrival } else a0
  let a := { a0 with
    ring := some (pbits pk 239 234), first := if unit = 0 then some (pAddr pk) else a0.first
    total := if pbits pk 257 257 = 1 then some (unit + 1) else a0.total }
  let late := match a.fail with | some f => decide (f.1 < unit) | none => false
  let tell := fun (s : State) (code : Nat) =>
    let (s, m) := memberIndex s a
    let s := forwardStatus s adev.toNat pk.job atag.toNat code (ownId s) unit m
    if pk.origin = adev then s else forwardStatus s pk.origin.toNat pk.job atag.toNat code (ownId s) unit m
  match jobCtx s pk.job with
  | none => if late then setArrival s a a.total.isNone else setArrival (tell s 0x34) { a.failAt unit 0x34 with told := true } a.total.isNone
  | some c =>
    if late then (if a.told then setArrival s a a.total.isNone else closeArrival s c a)
    else
      let fail := fun (s : State) (code : Nat) => closeArrival (tell s code) c (a.failAt unit code)
      match hubKeys s c (pAddr pk) n [rightFDST] with
      | .error (k, x) => fail (hubUe s c (BitVec.ofNat 64 x) 1 k) (if k = 0x11 then 0x34 else k)
      | .ok ks =>
        match writeKeys s ks (pk.data.take n) with
        | .error k => fail (countUe s ks k) k
        | .ok s => closeArrival s c { a with got := tset a.got unit n }
/-- R67: destination C takes the first unit that has arrived. -/
def execForwardData (s : State) : Host.Outcome State Fault Refusal :=
  .next (match takeDelivered s 8 with
    | none => s
    | some (s', pk) =>
      match jobCtx s pk.job with
      | none => takeUnit s' pk
      | some c =>
        if (s.ctx c).save == .stopping || (s.ctx c).save == .writing || (s.ctx c).save == .restoring || ringsWait s c [pbits pk 239 234] then s
        else match hubKeys s c (pAddr pk) (pSize pk) [rightFDST] with
          | .error _ => if tablesWait s c (pAddr pk) (pSize pk) then s else takeUnit s' pk
          | .ok ks => (match packetArrive s pk c ks with
            | (s, true) => s
            | (s, false) => takeUnit { s with fabric := s'.fabric } pk))

/-! Who takes a Forward status (R68): A, whose access it is about; the owner, whose delivery stops; C, whose record reports it. -/

/-- The device that owns the source of a three-party read of this device. -/
def ownerOf (s : State) (f : Far) : Nat := if f.dev = 0 then ownId s else f.dev - 1
/-- The destinations of a three-party read of this device; with a member index, the one that it names. -/
def destsOf (s : State) (f : Far) (member : Option Nat) : List Nat :=
  match f.kind with
  | .forward true =>
    let ds := groupDevices s (bitsOf (leWord (f.data.drop 8)) 39 32)
    (match member with | some m => (ds[m]?).toList | none => ds)
  | _ => [forwardDest s (leWord f.data)]
/-- The access of this device that a status is about, and whether it tells the outcome at the owner, which the request awaits: a status of
the owner about itself and no later unit; another, of a destination or of the owner about one, may overtake it. -/
def statusFar (s : State) (pk : Packet) : Option (Far × Bool) :=
  let tag := pTag pk; let org := pk.origin.toNat; let from_ := pbits pk 303 288
  let first := fun (owner : Nat) => org == owner && from_ == owner && pbits pk 271 258 == 0
  let late := fun (f : Far) (owner : Nat) => org == owner || (org == from_ && (destsOf s f none).contains org)
  match requestOf s tag with
  | some r =>
    if r.pkt.kind = 7 then
      (match r.access.bind (fun id => s.far.find? (fun f => f.id == id)) with
       | some f => if first r.pkt.dest.toNat then some (f, true) else if late f r.pkt.dest.toNat then some (f, false) else none
       | none => none)
    else none
  | none =>
    match s.far.find? (fun f => f.dev == 0 && f.sent && f.tag == some (BitVec.ofNat 16 tag)) with
    | some f => if first (ownId s) then some (f, true) else if late f (ownId s) then some (f, false) else none
    | none => match tfind s.fabric.forwards tag with
      | some f => if org = ownerOf s f || (org = from_ && (destsOf s f none).contains org) then some (f, false) else none
      | none => none
/-- A's part: the first status decides rd (R364); a later one is a fault record and the sticky bit of B for 0x61, else of the device that
it names. -/
def statusAtA (s : State) (pk : Packet) : State :=
  let tag := pTag pk; let code := pStatus pk % 128; let from_ := pbits pk 303 288
  match statusFar s pk with
  | some (f, true) =>
    if f.dev != 0 then answered s tag (pStatus pk) []
    else if code = 0 then deliverData { s with fabric := { s.fabric with forwards := tset s.fabric.forwards tag f } } f (natBytes 8 0)
    else failFar s { f with dev := ownId s + 1 } code
  | some (f, false) =>
    if code = 0 then s
    else
      writeFault (setSticky s f.ctx from_) f.ctx {
        dev := from_, tid := some (f.realTid % 0x4000), unit := pbits pk 271 258, retired := f.retired, agent := 0, code := code
        addr := f.addr, wid := f.wid, pc := f.pc }
  | none => (match requestOf s tag with | some r => if r.pkt.kind = 7 && r.pkt.dest = pk.origin then answered s tag (pStatus pk) [] else s | none => s)
/-- The owner's part: a delivery whose destination has failed, or that a router says cannot be reached, stops; of the latter A is told. -/
def statusAtB (s : State) (pk : Packet) (asA : Bool) : State :=
  let from_ := pbits pk 303 288; let code := pStatus pk % 128
  let mine := fun (d : Delivery) => d.atag.toNat == pTag pk && d.job == pk.job && d.cdev.toNat == from_ && (!asA || d.adev.toNat == ownId s)
  match s.fabric.deliveries.find? mine with
  | none => s
  | some d =>
    if code = 0 then s
    else
      let s := { s with fabric := { s.fabric with deliveries := s.fabric.deliveries.erase d } }
      if code = 0x30 then forwardStatus s d.adev.toNat d.job d.atag.toNat 0x30 from_ (pbits pk 271 258) (d.member.getD 0) else s
/-- C's part: a failure at the owner ends the delivery with a record. -/
def statusAtC (s : State) (pk : Packet) (c : Nat) : State :=
  let code := pStatus pk % 128; let m := pbits pk 225 218
  match s.fabric.arrivals.find? (fun a => a.atag.toNat == pTag pk && !a.told) with
  | some a => closeArrival s c { a.failAt (pbits pk 271 258) code with member := some m }
  | none =>
    let (s, x) := freshWord s
    closeArrival s c { { adev := BitVec.ofNat 16 (bitsOf x 14 0), atag := BitVec.ofNat 16 (pTag pk), member := some m : Arrival } with
      fail := some (pbits pk 271 258, code) }
/-- A Forward status taken by each of the three whose part this device has in the delivery (R68, R364). [DEDUCED, unsafe: log 79] -/
def takeStatus (s : State) (pk : Packet) : State :=
  let code := pStatus pk % 128; let from_ := pbits pk 303 288
  let byOwner := pk.origin.toNat == from_ && (code == 0x11 || code == 0x61)
  let f := statusFar s pk
  let s1 := statusAtB (statusAtA s pk) pk f.isSome
  let isC := match f with
    | some (f, _) => from_ == ownerOf s f && (destsOf s f (if code = 0x61 then some (pbits pk 225 218) else none)).contains (ownId s)
    | none => !(s.fabric.deliveries.any (fun d => d.atag.toNat == pTag pk && d.job == pk.job && d.cdev.toNat == from_)) && (requestOf s (pTag pk)).isNone
  match jobCtx s pk.job with
  | some c => if byOwner && isC then statusAtC s1 pk c else s1
  | none => s1
/-- R68: a Forward status arrives. -/
def execForwardStatus (s : State) : Host.Outcome State Fault Refusal :=
  .next (match takeDelivered s 9 with
    | some (s', pk) => if (jobCtx s pk.job).any (fun c => ringsWait s c (List.range 64)) then s else takeStatus s' pk
    | none => s)

/-! ## Task records, return messages (R115 to R117) -/

/-- Whether a launch waits in a stop of its whole launch (R301): what arrives for it stays in its input buffer. -/
def heldArrival (l : Option Launch) : Bool := match l with | some l => l.debugDrain | none => false
/-- R115: a Task record is placed in the deque or pool that its address names, or refused: its own return message goes out and the
status answers its origin. -/
def execTaskRecord (s : State) : Host.Outcome State Fault Refusal :=
  .next (match nextServed s 0x0D s.ev.n with
    | none => s
    | some pk =>
      match meets s pk with
      | .waits => s
      | .status k => refuse s pk k
      | .ctx c =>
        let r := recordOf (pk.data.take 64)
        let target := pAddr pk % 0x10000
        if heldArrival (receiver s none pk.job (target / 0x8000 % 2 == 1) (target % 0x1000)) then s
        else match placeCall s none pk.job target r with
        | .ok s => reply (served s pk) pk 0
        | .error k =>
          let s := refuse s pk k
          if r.kind = 3 then sendMessage s { tid := hubTid, ctx := c, wid := r.w1, pc := 0 } r.rdev r.rcore r.mbox (refusalWords k r) else s)

/-- A waiter whose mailbox holds a message: w3 to w6 are loaded and FLAG is cleared (R117, R339). -/
def loadWaiter (s : State) (g : Nat) (w : Waiter) : Option (State × Waiter) :=
  match s.launch w.launch with
  | none => none
  | some l =>
    match l.onCore g with
    | none => none
    | some a =>
      let k := tcmByte s l g (a.tcm * 4096) (w.mbox - a.tcm * 4096)
      let v := leWords 4 (memRead s k 32)
      if v.getD 3 0 = 0 then none
      else
        let r := { w.record with w3 := v.getD 0 0, w4 := v.getD 1 0, w5 := v.getD 2 0, w6 := v.getD 3 0 }
        some (memWrite s (k + 24) (natBytes 8 0), { w with record := r, loaded := true })
/-- A loaded waiter placed at the head of its deque, once an entry is free (R111). -/
def placeWaiter (s : State) (g i : Nat) : State :=
  match (s.core g).waiters[i]? with
  | none => s
  | some w =>
    match s.launch w.launch with
    | none => s
    | some l =>
      if !w.loaded || dequeRoom s l g = 0 then s
      else putHead (setWaiters s g w.launch ((s.core g).waiters.eraseIdx i)) g w.launch w.record
/-- R116, R117: with `flag` the waiter `k` of core `n` takes the message in its mailbox and goes to the head of its deque; else a
Return message packet is written to its mailbox. -/
def execReturnMessage (s : State) : Host.Outcome State Fault Refusal :=
  .next (if s.ev.flag then
      match (s.core s.ev.n).waiters[s.ev.k]? with
      | none => s
      | some w =>
        if w.loaded then s
        else match loadWaiter s s.ev.n w with
          | none => s
          | some (s, w) => placeWaiter (setWaiters s s.ev.n w.launch ((s.core s.ev.n).waiters.set s.ev.k w)) s.ev.n s.ev.k
    else
      match nextServed s 0x0E s.ev.n with
      | none => s
      | some pk =>
        match meets s pk with
        | .waits => s
        | .status k => refuse s pk k
        | .ctx c =>
          let o := pAddr pk - tcmBase
          if heldArrival (boxLaunch s c (o / 0x20000) (o % 0x20000)) then s
          else match deliverMessage s c (o / 0x20000) (o % 0x20000) (leWords 4 pk.data) with
          | some s => reply (served s pk) pk 0
          | none => refuse s pk 0x30)
/-- R111: the loaded waiter `k` of core `n` is placed once an entry of its deque is free. -/
def execParkedRecordPlace (s : State) : Host.Outcome State Fault Refusal := .next (placeWaiter s s.ev.n s.ev.k)

/-! ## Collectives -/

/-- R79: with `flag` a Collective packet that has arrived is placed or held in the staging store; else the rank `n` takes one step of its
tree; `k` 1: its instance has failed at a rank of another device whose copy differs (R75). -/
def execCollective (s : State) : Host.Outcome State Fault Refusal :=
  .next (if s.ev.flag then
      match takeDelivered s 0x0C with
      | none => s
      | some (s', pk) =>
        if heldArrival ((collTarget s pk).bind (fun c => s.launch c.launch)) then s
        else (match collDeliver s' pk with | some s'' => s'' | none => s)
    else collStep s s.ev.n (s.ev.k == 1))

end Sys2Proof.Machine
end

