-- ==== Sys2Proof/Machine/SchedEv.lean ====
section
/-! DEFINITION. Machine/SchedEv.lean: the events of the scheduler: acceptance and admission of launches (R93, R100 to R105, R164, R292),
dealing and placement (R106, R107), pick-up (R109, R112), levelling (R113) and completion (R120). -/
namespace Sys2Proof.Machine

/-! ## Acceptance (R93, R101, R292) -/

/-- Whether no reserved bit of a launch packet is set (R100). -/
def Launch.reservedClear (l : Launch) : Bool :=
  bitsOf (l.word 0) 1 0 == 0 && !bitOf (l.word 0) 48 && bitsOf (l.word 2) 63 60 == 0 && !bitOf (l.word 2) 51 &&
  bitsOf (l.word 3) 63 48 == 0 && bitsOf (l.word 3) 31 29 == 0 &&
  bitsOf (l.word 4) 63 44 == 0 && bitsOf (l.word 4) 20 13 == 0 &&
  bitsOf (l.word 5) 63 48 == 0 && bitsOf (l.word 5) 5 0 == 0 && bitsOf (l.word 6) 63 32 == 0 && bitsOf (l.word 7) 63 36 == 0 &&
  bitsOf (l.word 13) 63 32 == 0 && (List.range 14).all (fun i => l.word (18 + i) == 0)
/-- The checks of R101 on the levels and the bindings. -/
def Launch.levelsOk (l : Launch) : Bool :=
  let bind := fun (x : Nat) => x == 7 || x < l.nlev
  1 ≤ l.nlev && l.nlev ≤ 6 && (List.range 6).all (fun i => (i < l.nlev) == (l.width i != 0)) &&
  ((List.range 6).map (fun i => l.width i)).foldl (· + ·) 0 == 64 && bind l.clvl && bind l.crlvl &&
  (l.clvl == 7 || l.crlvl == 7 || decide (l.clvl ≤ l.crlvl))
/-- The checks of R101 and R103 on what a launch claims. -/
def Launch.demandsOk (l : Launch) : Bool :=
  l.clcount != 0 && l.clbase + l.clcount ≤ 256 && 1 ≤ l.ncores && l.ncores ≤ 16 && 1 ≤ l.tsets && l.tsets ≤ 4 && l.acct ≤ 8 &&
  l.tcmu ≤ 32 && l.spu ≤ 64 && l.evsh ≤ 2048 && l.evsh % 64 == 0 && l.dqtcm * 64 ≤ l.tcmu * 4096
/-- The alignments of R101. -/
def Launch.alignedOk (l : Launch) : Bool :=
  !(l.ordered && l.dmode != 0 && l.dtab.toNat % 16 != 0) && !(l.ordered && l.dmode == 2 && l.undo.toNat % 16 != 0) && l.doneaddr.toNat % 8 == 0
/-- Whether a range of a context translates page by page, with WR, to die SRAM (R101). -/
def regionSram (n : Nat) (s : State) (c va left : Nat) : Bool :=
  match n with
  | 0 => left == 0
  | n + 1 =>
    if left = 0 then true
    else
      let step := min left (0x10000 - va % 0x10000)
      (match walkTables s c va with
       | .ok e => va < 2 ^ 48 && bitOf e.rights rightWR && isSram (e.physOf va)
       | .error _ => false) && regionSram n s c (va + step) (left - step)
/-- The checks of R101. -/
def launchOk (s : State) (l : Launch) : Bool :=
  bitsOf (l.word 0) 63 56 == 1 && l.dmode != 3 && l.reservedClear && l.nitems != 0 && !(l.ordered && decide (2 ^ 32 < l.nitems)) &&
  l.levelsOk && l.demandsOk && l.alignedOk && (l.dqsram == 0 || regionSram (4 * l.dqsram + 1) s l.ctx l.dqbase (4096 * l.dqsram * 64))

/-- The image of a launch placed in its context area: the lowest free 4 KiB-aligned offset after the header, the lowest free directory
entry (R292). [DESIGN CHOICE, unsafe: log 39] -/
def placeImageAt (s : State) (l : Launch) : Option (Nat × Nat) :=
  let mine := s.launches.filter (fun m => m.ctx == l.ctx)
  let fits := fun (o : Nat) => decide (o + l.imageSize ≤ (s.ctx l.ctx).alen.toNat) && !mine.any (fun m => overlap o l.imageSize m.imageOff m.imageLen)
  let offs := (0x10000 :: mine.map (fun m => m.imageOff + m.imageLen)).filter fits
  let slots := (List.range 64).filter (fun i => !mine.any (fun m => m.dirSlot == i))
  match offs, slots with
  | o :: os, i :: _ => some (os.foldl min o, i)
  | _, _ => none
/-- A directory entry of a context area. -/
def directoryPut (s : State) (c i off len : Nat) : State := headerPut (headerPut s c (0x400 + 16 * i) off) c (0x408 + 16 * i) len

/-- A packet rejected, or a packet that could not be read (R93). [DEDUCED, unsafe: log 41] -/
def rejectPacket (s : State) (c code : Nat) (a : Word) : State :=
  writeFault s c { dev := ownId s, agent := 9, code := code, addr := a }
/-- LQ_HEAD of a context advanced. -/
def headOn (s : State) (c : Nat) : State := s.setCtx c { s.ctx c with lqHead := (s.ctx c).lqHead + 1 }
/-- 2^LQLOG (R89). -/
def Ctx.lqSize (x : Ctx) : Nat := 2 ^ (if 4 ≤ x.lqlog.toNat && x.lqlog.toNat ≤ 16 then x.lqlog.toNat else 4)

/-- The next packet of a context accepted or rejected (R93). [DEDUCED, unsafe: log 121] -/
def acceptLaunch (s : State) (c : Nat) : State :=
  let x := s.ctx c
  if !x.live || s.cpl.state != .idle || x.lqHead = x.doorbell then s
  else
    let a := x.lqBase + BitVec.ofNat 64 (256 * (x.lqHead.toNat % x.lqSize))
    if hubWaits s c a 256 then s
    else match hubRead s c a 256 with
    | .error k => headOn (rejectPacket (hubUe s c a 256 k) c k a) c
    | .ok bs =>
      let l : Launch := { seq := s.nextSeq, ctx := c, packet := leWords 32 bs, seed := x.seed, kernel := c == 0 }
      if l.dqsram != 0 && tablesWait s c l.dqbase (4096 * l.dqsram * 64) then s
      else if !launchOk s l then headOn (rejectPacket s c 0x23 a) c
      else
        match placeImageAt s l with
        | none => headOn (rejectPacket s c 0x23 a) c
        | some (off, i) =>
          let l := { l with imageOff := off, imageLen := l.imageSize, dirSlot := i, lwm := some (0, 0) }
          headOn (directoryPut { s with launches := s.launches ++ [l], nextSeq := s.nextSeq + 1 } c i off l.imageLen) c
/-- R93: LAUNCH_ACCEPT: context n. -/
def execLaunchAccept (s : State) : Host.Outcome State Fault Refusal := .next (acceptLaunch s s.ev.n)

/-! ## Admission (R103 to R105, R164) -/

/-- The lowest offset of k free units among n, where some ranges are taken. [DESIGN CHOICE, unsafe: log 39] -/
def lowestFree (n k : Nat) (taken : List (Nat × Nat)) : Option Nat :=
  (List.range (n + 1)).find? (fun o => o + k ≤ n && taken.all (fun t => !overlap o k t.1 t.2))
/-- What a launch would hold on a core (R104). -/
def planCore (s : State) (l : Launch) (g : Nat) : Option CoreAllot :=
  let on := s.launches.filterMap (fun m => if m.holds s then (m.onCore g).map (fun a => (m, a)) else none)
  let free := (List.range 4).filter (fun t => !on.any (fun p => p.2.ts.contains t))
  let events := (on.map (fun p => p.1.evsh)).foldl (· + ·) 0
  if free.length < l.tsets || 2048 < events + l.evsh then none
  else
    match lowestFree 32 l.tcmu (on.map (fun p => (p.2.tcm, p.1.tcmu))), lowestFree 8 l.acct (on.map (fun p => (p.2.tile, p.1.acct))) with
    | some t, some a => some { core := g, tcm := t, tile := a, ts := free.take l.tsets }
    | _, _ => none
/-- What a launch would hold in a cluster; a cluster whose bank hash is about to change waits (R153). -/
def planCluster (s : State) (l : Launch) (c : Nat) : Option ClusterAllot :=
  if (s.cluster c).pend.isSome then none
  else
    (lowestFree 64 l.spu (s.launches.filterMap (fun m => if m.holds s then (m.inCluster c).map (fun a => (a.spad, m.spu)) else none))).map
      (fun o => { cluster := c, spad := o })
/-- The cores that a launch uses. -/
def Launch.useCores (l : Launch) : List Nat := l.useClusters.flatMap (fun c => (List.range l.ncores).map (fun i => 16 * c + i))
/-- Everything that a launch would hold, where all of it is free at once. -/
def planLaunch (s : State) (l : Launch) : Option (List CoreAllot × List ClusterAllot) := do
  let cs ← l.useCores.mapM (planCore s l)
  let ks ← l.useClusters.mapM (planCluster s l)
  some (cs, ks)

/-- The launch whose turn it is to be admitted (R103): launches of Saved contexts are passed over. [DEDUCED, unsafe: log 41] -/
def nextToAdmit (s : State) (ls : List Launch) (skip : List Nat) : Option Launch :=
  match ls with
  | [] => none
  | l :: r =>
    if l.admitted then nextToAdmit s r skip
    else if skip.contains l.ctx || (s.ctx l.ctx).save == .saved then nextToAdmit s r (l.ctx :: skip)
    else some l

/-- The memories of a launch's allotments filled with zeros (R105), its tiles cleared (R132), the instruction caches of its clusters
invalidated (R438). -/
def zeroAllots (s : State) (l : Launch) : State :=
  let clear := fun (s : State) (k n : Nat) =>
    { s with mem := memZero s.mem k n, poison := s.poison.filter (fun u => !(k ≤ u && u < k + n)) }
  let s := l.cores.foldl (fun s a =>
    let c := s.core a.core
    let s := s.setCore a.core { c with tiles := c.tiles.mapIdx (fun i t => if a.tile ≤ i && i < a.tile + l.acct then {} else t) }
    clear s (tcmKey a.core (a.tcm * 4096)) (l.tcmu * 4096)) s
  l.clusters.foldl (fun s a =>
    clear (s.setCluster a.cluster { s.cluster a.cluster with icache := [] }) (spadKey s a.cluster (a.spad * 65536)) (l.spu * 65536)) s

/-- Whether a cluster's banks are all on. -/
def banksOn (s : State) (c : Nat) : Bool := (s.cluster c).gate == 0 && (s.cluster c).off == 0 && (s.cluster c).wake == 0
/-- The hub wakes what a launch needs (R164). -/
def wakeFor (s : State) (l : Launch) : State :=
  l.useClusters.foldl (fun s c => if (s.cluster c).gate == 0 then s else spadGateWrite s c 0) s
/-- The next accepted launch admitted, where it can be. -/
def admitNext (s : State) : State :=
  match nextToAdmit s s.launches [] with
  | none => s
  | some l =>
    if !ctxRuns s l.ctx then s
    else
      match planLaunch s l with
      | none => s
      | some (cs, ks) =>
        if l.spu != 0 && !l.useClusters.all (banksOn s) then wakeFor s l
        else
          let l := { l with admitted := true, cores := cs, clusters := ks }
          zeroAllots (s.setLaunch l) l
/-- R103: LAUNCH_ADMIT. -/
def execLaunchAdmit (s : State) : Host.Outcome State Fault Refusal := .next (admitNext s)

/-! ## Dealing (R102, R106) -/

/-- The next n undealt identifiers of a cluster from one on. -/
def Launch.deal (l : Launch) (c : Nat) (n id : Nat) : List Nat :=
  match n with
  | 0 => []
  | n + 1 => match l.nextFor c id with | some i => i :: Launch.deal l c n (i + 1) | none => []
/-- Whether a cluster still has undealt items. -/
def Launch.undealt (l : Launch) (c : Nat) : Bool := (l.nextFor c (tget l.next c 0)).isSome

/-- Whether the scheduler works for a launch: admitted, its context Running. -/
def schedules (s : State) (l : Launch) : Bool := l.admitted && !l.stopped && ctxRuns s l.ctx
/-- A pool below 256 topped up to 512: it stays in ascending order. -/
def topUp (s : State) (n c : Nat) : State :=
  match s.launch n with
  | none => s
  | some l =>
    let pool := tget l.pools c []
    if !schedules s l || (l.inCluster c).isNone || 256 ≤ pool.length then s
    else
      let d := l.deal c (512 - pool.length) (tget l.next c 0)
      match d.getLast? with
      | none => s
      | some z => s.setLaunch { l with pools := tset l.pools c (sortBy (fun a b => decide (a ≤ b)) (pool ++ d)), next := tset l.next c (z + 1) }
/-- R106: POOL_TOPUP: launch n, cluster k. -/
def execPoolTopup (s : State) : Host.Outcome State Fault Refusal := .next (topUp s s.ev.n s.ev.k)

/-! ## Placement (R106 to R108) -/

/-- The core key of an identifier (R102). -/
def Launch.coreKey (l : Launch) (id : Nat) : Nat := id / 2 ^ l.below l.crlvl
/-- Whether two identifiers share the keys that a range record must not cross (R106). -/
def Launch.sameKeys (l : Launch) (a b : Nat) : Bool :=
  (l.clvl == 7 || a / 2 ^ l.below l.clvl == b / 2 ^ l.below l.clvl) && (l.crlvl == 7 || l.coreKey a == l.coreKey b)
/-- How many items from an identifier on form one range record. -/
def Launch.run (l : Launch) (lo : Nat) (k : Nat) (pool : List Nat) : Nat :=
  match pool with
  | [] => k
  | i :: r => if i = lo + k ∧ k < l.grain ∧ l.sameKeys lo i then Launch.run l lo (k + 1) r else k
/-- The record of the first items of a pool, and how many they are (R108). -/
def Launch.dealt (l : Launch) (lo : Nat) (rest : List Nat) : Record × Nat :=
  let n := if l.grain = 0 then 1 else l.run lo 1 rest
  let w0 := fun (kind : Nat) => BitVec.ofNat 64 (kind * 2 ^ 52 + l.prio * 2 ^ 48 + l.entry)
  let r : Record := { w1 := BitVec.ofNat 64 lo, w2 := BitVec.ofNat 64 (lo % 2 ^ 32) }
  if l.grain = 0 then ({ r with w0 := w0 0, w3 := l.word 8, w4 := l.word 9, w5 := l.word 10, w6 := l.word 11 }, n)
  else ({ r with w0 := w0 1, w3 := BitVec.ofNat 64 lo, w4 := BitVec.ofNat 64 (lo + n), w5 := l.word 10, w6 := l.word 11 }, n)

/-- The core of a cluster that a record goes to (R107). -/
def placeCore (s : State) (l : Launch) (c id : Nat) : Nat :=
  if l.crlvl != 7 then 16 * c + l.coreKey id % l.ncores
  else
    let depth := fun (i : Nat) => (dequeOf s (16 * c + i) l.seq).length
    16 * c + (List.range l.ncores).foldl (fun best i => if depth i < depth best then i else best) 0
/-- One record placed from a cluster's pool: those of calls first. [DEDUCED, unsafe: log 37] -/
def placeOne (s : State) (n c : Nat) : State :=
  match s.launch n with
  | none => s
  | some l =>
    if !schedules s l || (l.inCluster c).isNone then s
    else
      match tget l.poolRecords c [] with
      | r :: rs =>
        let g := placeCore s l c r.w1.toNat
        if 8 ≤ (dequeOf s g n).length then s
        else putTail (s.setLaunch { l with poolRecords := tset l.poolRecords c rs }) g n r
      | [] =>
        match tget l.pools c [] with
        | [] => s
        | lo :: rest =>
          let g := placeCore s l c lo
          if 8 ≤ (dequeOf s g n).length then s
          else
            let (r, k) := l.dealt lo rest
            putTail (s.setLaunch { l with pools := tset l.pools c (rest.drop (k - 1)), live := l.live + 1 }) g n r
/-- R107: DISPATCH_PLACE: launch n, cluster k. -/
def execDispatchPlace (s : State) : Host.Outcome State Fault Refusal := .next (placeOne s s.ev.n s.ev.k)

/-! ## Pick-up (R109, R112, R201, R286) -/

/-- The HANDLER word of a context area (R291). -/
def handlerWord (s : State) (c : Nat) : Word := leWord (memRead s (areaBase (s.ctx c) + 8) 8)
/-- A thread set starts a record (R109, R286): every other register is zero, the mode is the launch's. -/
def startRecord (s : State) (tid : Nat) (l : Launch) (r : Record) : State :=
  let t : Thread := {
    pc := r.entry, kernel := l.kernel, wid := r.w1, tstamp := r.w2, tvec := handlerWord s l.ctx &&& ~~~(3 : Word)
    act := some { launch := l.seq, record := r }, run := .running, instret := (s.thread tid).instret }
  s.setThread tid { t with x := (((t.x.set 10 r.w3).set 11 r.w4).set 12 r.w5).set 13 r.w6 }

/-- The place of the record that an idle thread set takes from a list: highest PRIO, then nearest the head, among those that may start.
[DEDUCED, unsafe: log 38] -/
def bestRecord (ok : Record → Bool) (d : List Record) : Option Nat :=
  (d.zipIdx.foldl (fun (best : Option (Nat × Nat)) p =>
    if !ok p.1 then best
    else match best with
      | some b => if b.1 < p.1.prio then some (p.1.prio, p.2) else best
      | none => some (p.1.prio, p.2)) none).map (fun p => p.2)
/-- Whether a record of a launch may start (R201). -/
def mayStart (s : State) (l : Launch) (r : Record) : Bool :=
  !l.ordered || l.spec || (match lowWater s l with | some m => r.phase == m.1 | none => true)
/-- A thread set that is idle and ready for a record: its far-load slots are all free. -/
def isIdle (t : Thread) : Bool := t.run == .idle && t.slots.toList.all (fun x => x == .free)
/-- The launch that a thread set belongs to. -/
def launchOfSet (s : State) (tid : Nat) : Option Launch := s.launches.find? (fun l => l.holds s && l.tids.contains tid)

/-- A serial replay takes its next record when nothing else of the launch runs (R85). -/
def pickReplay (s : State) (tid : Nat) (l : Launch) : State :=
  match l.replayRecords with
  | (g, r) :: rest =>
    if g = coreOf tid ∧ (actStamps s l.seq).isEmpty then startRecord (s.setLaunch { l with replayRecords := rest }) tid l r else s
  | [] => s
/-- An idle thread set takes a record: one on the core, and where none of them may start, one of the tiers. [DEDUCED, unsafe: log 38] -/
def pickUp (s : State) (tid : Nat) : State :=
  match launchOfSet s tid with
  | none => s
  | some l =>
    if !schedules s l || l.debugDrain || coreFrozen s (coreOf tid) || !isIdle (s.thread tid) || (s.thread tid).stopHeld || s.allStopped then s
    else if l.phaseState = .replay then pickReplay s tid l
    else if l.phaseState = .replayCheck then s
    else
      let g := coreOf tid
      let d := dequeOf s g l.seq
      let ok := mayStart s l
      match (bestRecord ok (d.take (onCoreOf s g l.seq))).or (bestRecord ok d) with
      | none => s
      | some i =>
        match d[i]? with
        | some r => startRecord (takeRecordAt s g l.seq i) tid l r
        | none => s
/-- R109: RECORD_PICKUP: thread set n. -/
def execRecordPickup (s : State) : Host.Outcome State Fault Refusal := .next (pickUp s s.ev.n)

/-! ## Levelling (R113) -/

/-- The neighbour with the least depth, ties to the lowest number. -/
def shallowest (depth : Nat → Nat) (l : List Nat) : Option Nat :=
  l.foldl (fun best i => match best with | none => some i | some b => if depth i < depth b then some i else best) none
/-- What each member ships, from depths sampled at once: (from, to, how many). -/
def shipments (depth : Nat → Nat) (near : Nat → List Nat) (members : List Nat) : List (Nat × Nat × Nat) :=
  members.filterMap (fun i =>
    match shallowest depth (near i) with
    | some m => if depth m + 2 ≤ depth i then some (i, m, (depth i - depth m) / 2) else none
    | none => none)

/-- The deques of a launch levelled in one cluster: nothing enters a reserve (R111). -/
def levelDeques (s : State) (l : Launch) (c : Nat) : State :=
  let core := fun (i : Nat) => 16 * c + i
  let depth := fun (i : Nat) => (dequeOf s (core i) l.seq).length
  let room := fun (s : State) (i : Nat) => dequeRoom s l (core i) - l.tsets
  let moves := shipments depth (fun i => torusNear i l.ncores) (List.range l.ncores)
  let taken := moves.foldl (fun (acc : State × List (Nat × List Record)) m =>
    let (s, out) := acc
    let coming := ((out.filter (fun o => o.1 == m.2.1)).map (fun o => o.2.length)).foldl (· + ·) 0
    let k := min m.2.2 (room s m.2.1 - coming)
    let d := dequeOf s (core m.1) l.seq
    (dropTail s (core m.1) l.seq k, out ++ [(m.2.1, d.drop (d.length - k))])) (s, [])
  taken.2.foldl (fun s o => putTails s (core o.1) l.seq o.2) taken.1
/-- The dispatcher moves one record to each used core with an idle thread set and an empty deque. -/
def feedIdle (s : State) (l : Launch) (c : Nat) : State :=
  (List.range l.ncores).foldl (fun s i =>
    let g := 16 * c + i
    let idle := match l.onCore g with | some a => a.ts.any (fun t => (s.thread (4 * g + t)).run == .idle) | none => false
    if !idle || !(dequeOf s g l.seq).isEmpty then s
    else
      let depth := fun (j : Nat) => (dequeOf s (16 * c + j) l.seq).length
      let deep := (List.range l.ncores).foldl (fun best j => if depth best < depth j then j else best) 0
      if depth deep < 2 then s
      else
        let d := dequeOf s (16 * c + deep) l.seq
        match d.getLast? with
        | some r => putTail (dropTail s (16 * c + deep) l.seq 1) g l.seq r
        | none => s) s
/-- The mesh neighbours of a cluster on its die, 8 by 8 in rows, within the placement of a launch. [DEDUCED, unsafe: log 42] -/
def meshNear (l : Launch) (c : Nat) : List Nat :=
  let d := c / 64 * 64; let i := c % 64
  let all := (if i < 8 then [] else [i - 8]) ++ (if i % 8 = 0 then [] else [i - 1]) ++ (if i % 8 = 7 then [] else [i + 1]) ++ (if 56 ≤ i then [] else [i + 8])
  (all.map (fun x => d + x)).filter (fun x => l.clbase ≤ x && x < l.clbase + l.clcount)
/-- The pools of a launch that is not bound to clusters levelled. -/
def levelPools (s : State) (l : Launch) : State :=
  let depth := fun (c : Nat) => (tget l.pools c []).length
  let moves := shipments depth (meshNear l) l.useClusters
  let cut := moves.foldl (fun t m => tset t m.1 ((tget t m.1 []).take (depth m.1 - m.2.2))) l.pools
  let given := moves.foldl (fun t m => tset t m.2.1 (sortBy (fun a b => decide (a ≤ b)) (tget t m.2.1 [] ++ (tget l.pools m.1 []).drop (depth m.1 - m.2.2)))) cut
  s.setLaunch { l with pools := given }
/-- One balancing step of a launch. [DEDUCED, unsafe: log 42] -/
def balance (s : State) (n : Nat) : State :=
  match s.launch n with
  | none => s
  | some l =>
    if !schedules s l || l.crlvl != 7 then s
    else
      let s := l.useClusters.foldl (fun s c => levelDeques s l c) s
      let s := l.useClusters.foldl (fun s c => feedIdle s l c) s
      if l.clvl = 7 then levelPools s l else s
/-- R113: BALANCE: launch n. -/
def execBalance (s : State) : Host.Outcome State Fault Refusal := .next (balance s s.ev.n)

/-! ## Completion (R120) -/

/-- What a launch held on a core given back: its slots and table empty (R135), its descent unit Free (R276), its streams released
(R250), its tokens with the engine (R133), its records discarded. -/
def releaseOn (s : State) (l : Launch) (a : CoreAllot) : State :=
  let c := s.core a.core
  let n := l.seq
  let out := fun (q : EngQueue) =>
    let keep := fun (o : Option Entry) => match o with | some e => if e.launch == n then none else some e | none => none
    { queued := q.queued.filter (fun e => e.launch != n), running := keep q.running, paused := keep q.paused
      writeback := q.writeback.filter (fun e => e.launch != n) : EngQueue }
  s.setCore a.core { c with
    tiles := c.tiles.mapIdx (fun i t => if a.tile ≤ i && i < a.tile + l.acct then {} else t)
    shapes := c.shapes.map (fun x => match x with | some d => if d.launch == n then none else x | none => none)
    table := match c.table with | some t => if t.launch == n then none else c.table | none => none
    streams := c.streams.map (fun x => match x with
      | some u => if coreOf u.owner == a.core && a.ts.contains (u.owner % 4) then none else x
      | none => none)
    mq := out c.mq, cq := out c.cq
    tree := if c.tree.launch == n then {} else c.tree
    rx := c.rx.map (fun x => match x with | some r => if r.launch == n then none else x | none => none)
    rxSaved := c.rxSaved.filter (fun p => p.2.launch != n)
    deques := tdel c.deques n, onCore := tdel c.onCore n
    waiters := c.waiters.filter (fun w => w.launch != n) }
/-- What a launch of a Saved context still has in the tables of a core. -/
def dropSaved (s : State) (l : Launch) (a : CoreAllot) : State :=
  let c := s.core a.core
  s.setCore a.core { c with
    rxSaved := c.rxSaved.filter (fun p => p.2.launch != l.seq), deques := tdel c.deques l.seq, onCore := tdel c.onCore l.seq
    waiters := c.waiters.filter (fun w => w.launch != l.seq) }
/-- Everything that a launch held released everywhere at once, its image and directory entry with it. -/
def releaseLaunch (s : State) (l : Launch) : State :=
  let s := if l.holds s then l.cores.foldl (fun s a => releaseOn s l a) s else l.cores.foldl (fun s a => dropSaved s l a) s
  let s := { s with launches := s.launches.filter (fun m => m.seq != l.seq) }
  settleHash (directoryPut s l.ctx l.dirSlot 0 0) (l.clusters.map (fun a => a.cluster))

/-- A store of the hub on its way: to a peer, or the rest of one that an inlet withholds (R262). -/
def hubSend (s : State) (c : Nat) (a : Word) (dev key pos : Nat) (bs : List Byte) : State :=
  let (s, id) := freshId s
  let s := if dev = 0 then s else (takePeerSlot s c (dev - 1)).1
  { s with far := s.far ++ [{
      id := id, tid := hubTid, ctx := c, kernel := false, wid := 0, pc := 0, kind := .store, addr := a
      pieces := [inletPiece key 0 pos (bs.length - pos)], data := bs, dest := .none, slot := none, taint := 0, dev := dev, agent := 9 }] }
/-- The completion word of a launch written at any address that the hub can reach (R120, R48, R149): the state, or the cause. A word at
another device leaves as a peer write. [DEDUCED, unsafe: log 43] -/
def doneWrite (s : State) (c : Nat) (a : Word) (bs : List Byte) : Except Nat State :=
  match decodeAddr s a with
  | .translated va =>
    match inletAt s c va with
    | some (g, i) =>
      match hubKeys s c va bs.length [rightWR] with
      | .error (k, _) => .error k
      | .ok _ =>
        let (s, took) := inletStore s g i (va % 4096) bs
        .ok (if bs.length ≤ took then s else hubSend s c a 0 va took bs)
    | none => hubWrite s c a bs
  | .window x =>
    if !windowAllowed s c x bs.length then .error 0x11
    else match (windowKeys s x bs.length).findSome? (fun p => homeFails s p.1 p.2 false) with
      | some k => .error k
      | none => .ok (hubStore s (windowKeys s x bs.length) bs)
  | .peer d va => .ok (hubSend s c a (d + 1) va 0 bs)
  | .nowhere => .error 0x10
  | _ => .error 0x11

/-- Whether a launch is over: nothing of it is undealt, queued, running, or still on its way (R120, R388, R424).
[DEDUCED, unsafe: log 48] -/
def launchOver (s : State) (l : Launch) : Bool :=
  schedules s { l with stopped := false } && l.live == 0 && l.clusters.all (fun a =>
    (l.stopped || !l.undealt a.cluster) && (tget l.pools a.cluster []).isEmpty && (tget l.poolRecords a.cluster []).isEmpty) &&
  (actStamps s l.seq).isEmpty && l.replayRecords.isEmpty && l.foldLater.isEmpty && !l.phaseOpen &&
  !s.far.any (fun f => l.tids.contains f.tid && f.kind != .load && !f.over) &&
  !s.coll.any (fun c => c.launch == l.seq && s.coll.any (fun d => d.sameInstance c && (d.inFlight || d.phase == 7))) &&
  l.cores.all (fun a =>
    ((s.core a.core).mq.all ++ (s.core a.core).cq.all ++ (s.core a.core).mq.writeback ++ (s.core a.core).cq.writeback).all (fun e => e.launch != l.seq))
/-- A launch completed. -/
def completeLaunch (s : State) (n : Nat) : State :=
  match s.launch n with
  | none => s
  | some l =>
    if !launchOver s l || (l.doneaddr != 0 && tablesWait s l.ctx (addr48 l.doneaddr) 8) then s
    else
      let v := if l.stopped then 2 ^ 63 + 0x52 else 1
      let s := if l.doneaddr = 0 then s
        else match doneWrite s l.ctx l.doneaddr (natBytes 8 v) with
          | .ok s => s
          | .error k => writeFault (hubUe s l.ctx l.doneaddr 8 k) l.ctx { dev := ownId s, agent := 9, code := k, addr := l.doneaddr }
      let s := releaseLaunch s l
      if l.notify then raiseVector s l.ctx 1 else s
/-- R120: LAUNCH_COMPLETE: launch n. -/
def execLaunchComplete (s : State) : Host.Outcome State Fault Refusal := .next (completeLaunch s s.ev.n)

end Sys2Proof.Machine
end

