-- ==== Sys2Proof/Machine/CommitEv.lean ====
section
/-! DEFINITION. Machine/CommitEv.lean: the low-water mark announced (R196), commits and aborts (R197 to R200, R119), phases, their digests
and the serial replay (R82 to R85). -/
namespace Sys2Proof.Machine

/-- R196: LWM_ANNOUNCE: launch n. -/
def execLwmAnnounce (s : State) : Host.Outcome State Fault Refusal :=
  .next (match s.launch s.ev.n with
    | some l => if l.ordered && l.admitted then s.setLaunch { l with lwm := lowWater s l } else s
    | none => s)

/-! ## The stores of a commit (R195, R197) -/

/-- The runs of written bytes of a block. -/
def blockRuns (a : Nat) (bytes : List (Option Byte)) (run : List Byte) : List (Word × List Byte) :=
  match bytes with
  | [] => if run.isEmpty then [] else [(BitVec.ofNat 64 (a - run.length), run)]
  | some b :: r => blockRuns (a + 1) r (run ++ [b])
  | none :: r => (if run.isEmpty then [] else [(BitVec.ofNat 64 (a - run.length), run)]) ++ blockRuns (a + 1) r []
/-- The stores that a commit buffer holds. -/
def bufStores (buf : List BufBlock) : List (Word × List Byte) := buf.flatMap (fun b => blockRuns b.addr.toNat b.bytes [])

/-- A store that goes on its way after the announcement: to a peer home or to an inlet (R197). -/
def commitFar (s : State) (f : Sender) (a : Word) (taint : BitVec 16) (pieces : List Piece) (dev : Nat) (bs : List Byte) : State :=
  let (s, id) := freshId s
  let s := if dev = 0 then s else (takePeerSlot s f.ctx (dev - 1)).1
  { s with far := s.far ++ [{
      id := id, tid := f.tid, ctx := f.ctx, kernel := (s.thread f.tid).kernel, wid := f.wid, pc := f.pc, kind := .store, addr := a
      pieces := pieces, data := bs, dest := .none, slot := none, taint := taint, dev := dev, retired := f.retired, agent := f.agent }] }
/-- A fault record of a commit. -/
def commitFault (s : State) (f : Sender) (code : Nat) (a : Word) : State :=
  writeFault s f.ctx { dev := ownId s, tid := some f.tid, retired := f.retired, agent := f.agent, code := code, addr := a, wid := f.wid, pc := f.pc }
/-- One store of a commit: at a home of the device or an inlet of it it is performed at once, part of the atomic set; what an inlet
withholds follows (R262); a failure leaves a fault record. -/
def commitStore (s : State) (f : Sender) (p : Word × List Byte) : State :=
  let a := p.1; let bs := p.2
  match decodeAddr s a with
  | .translated va =>
    match hubKeys s f.ctx va bs.length [rightWR] with
    | .error (k, _) => commitFault (hubUe s f.ctx a bs.length k) f k a
    | .ok ks =>
      match inletAt s f.ctx va with
      | some (g, i) =>
        let (s, took) := inletStore s g i (va % 4096) bs
        if bs.length ≤ took then s else commitFar s f a 0 [inletPiece ((ks.headD (0, 0)).1) 0 took (bs.length - took)] 0 bs
      | none => match writeKeys s ks bs with | .ok s => s | .error k => commitFault (countUe s ks k) f k a
  | .window x =>
    if (s.thread f.tid).kernel || windowAllowed s f.ctx x bs.length then
      match writeKeys s (windowKeys s x bs.length) bs with | .ok s => s | .error k => commitFault s f k a
    else commitFault s f 0x11 a
  | .peer d va => commitFar s f a 0 [{ key := va, pos := 0, len := bs.length }] (d + 1) bs
  | .register x => (cuts x bs.length 8).foldl (fun s c =>
      commitFar s f (a + BitVec.ofNat 64 (c.1 - x)) 0 [{ key := c.1, pos := 0, len := c.2 }] 0 ((bs.drop (c.1 - x)).take c.2)) s
  | _ => commitFault s f 0x10 a
/-- Whether a commit has to wait for a waking home of one of its stores, or for an access that waits there (R163). -/
def commitWaits (s : State) (c : Nat) (ps : List (Word × List Byte)) : Bool :=
  let busy := fun (ks : List (Nat × Nat)) => ks.any (fun k => homeWaits s k.1 k.2) || queuedOn s ks
  ps.any (fun p => match decodeAddr s p.1 with
    | .translated va => tablesWait s c va p.2.length ||
      (match inletAt s c va, hubKeys s c va p.2.length [rightWR] with | none, .ok ks => busy ks | _, _ => false)
    | .window x => busy (windowKeys s x p.2.length)
    | _ => false)
/-- A store of a held rk.send goes on its way (R414). -/
def sendHeld (s : State) (f : Sender) (taint : BitVec 16) (p : Word × List Byte) : State :=
  let a := p.1; let bs := p.2
  match decodeAddr s a with
  | .translated va =>
    (match hubKeys s f.ctx va bs.length [rightWR] with
     | .error (k, _) => commitFault (hubUe s f.ctx a bs.length k) f k a
     | .ok ks => commitFar s f a taint (placePieces { s with cur := f.tid } a (.far ks) bs.length) 0 bs)
  | .peer d va => commitFar s f a taint [{ key := va, pos := 0, len := bs.length }] (d + 1) bs
  | _ => commitFault s f 0x10 a

/-! ## The undo region applied (R85) -/

/-- The undo entries from n - 1 down to 0 applied. -/
def undoAll (n : Nat) (s : State) (l : Launch) : State :=
  match n with
  | 0 => s
  | n + 1 =>
    let s := match hubRead s l.ctx (l.undo + BitVec.ofNat 64 (32 * n)) 32 with
      | .error k => hubUe s l.ctx (l.undo + BitVec.ofNat 64 (32 * n)) 32 k
      | .ok e =>
        let a := leWord e
        let old := (e.drop 16).take (leWord (e.drop 8)).toNat
        match decodeAddr s a with
        | .window x => (match writeKeys s (windowKeys s x old.length) old with | .ok s => s | .error k => countUe s (windowKeys s x old.length) k)
        | .peer d va => commitFar s { tid := hubTid, ctx := l.ctx, wid := 0, pc := 0, agent := 10 } a 0 [{ key := va, pos := 0, len := old.length }] (d + 1) old
        | _ => (match hubWrite s l.ctx a old with | .ok s => s | .error k => hubUe s l.ctx a old.length k)
    undoAll n s l

/-! ## Announcement and aborts (R197, R198, R200) -/

/-- The later activations that a write signature aborts. -/
def conflicting (s : State) (n tid : Nat) (ts : Nat × Nat) (w : BitVec 256) : List Nat :=
  s.threads.filterMap (fun p =>
    match p.2.act with
    | some a => if p.1 != tid && a.launch == n && !a.irrevocable && !tsLe a.record.ts ts && sigMeets a.rsig w then some p.1 else none
    | none => none)
/-- A write signature announced. -/
def announce (s : State) (n tid : Nat) (ts : Nat × Nat) (w : BitVec 256) : State :=
  (conflicting s n tid ts w).foldl (fun s t => detachFollowers (abortActivation s t) t) s

/-- The phase of a commit: a new phase begins with an empty undo region. -/
def enterPhase (l : Launch) (p : Nat) : Launch :=
  if l.phase = p ∧ l.phaseOpen then l
  else
    { l with phase := p, phaseOpen := l.dmode != 0 && p < l.nph, phaseState := .running, undoPos := 0, phaseRecords := [] }
/-- Who commits, as a fault record names it: the address of the store is not kept, so it is a free value.
[DESIGN CHOICE, safe: log 31] -/
def committer (s : State) (tid : Nat) (l : Launch) : State × Sender :=
  let t := s.thread tid
  let (s, v) := freshWord s
  (s, { tid := tid, ctx := l.ctx, wid := t.wid, pc := v, agent := 10, retired := match t.run with | .committing _ => true | _ => false })
/-- The first part of a commit: the announcement, the aborts, and the stores of the buffer; in a logged phase those to peers are released
after them, each once its old contents have been read (R85, R197). An activation enters the records of its phase once, where it has not
become irrevocable before. -/
def commitAnnounce (s : State) (tid : Nat) (l : Launch) (a : Activation) : State :=
  let l := enterPhase l a.record.phase
  let l := if l.logs && !a.irrevocable then { l with phaseRecords := l.phaseRecords ++ [(coreOf tid, a.record)] } else l
  let away := fun (p : Word × List Byte) => l.logs && (match decodeAddr s p.1 with | .peer _ _ => true | _ => false)
  let later := ((bufStores a.buf).filter away).map (fun p => HeldOp.store p.1 p.2)
  let ps := (bufStores a.buf).filter (fun p => !away p)
  let s := undoAppend (s.setLaunch l) l (ps.map (fun p => (p.1, p.2.length)))
  let s := s.setThread tid { s.thread tid with act := some { a with buf := [], wsig := 0, commitDone := true, held := later ++ a.held } }
  let s := announce s l.seq tid a.record.ts a.wsig
  let (s, f) := committer s tid l
  ps.foldl (fun s p => commitStore s f p) s

/-! ## Held operations released (R119, R199, R414, R425) -/

/-- A store to a peer in a logged phase (R85): what it overwrites is read first and appended to the undo region; what cannot be read is not.
[DESIGN CHOICE, unsafe: log 28] -/
def releaseStore (s : State) (f : Sender) (l : Launch) (d va : Nat) (a : Word) (bs : List Byte) : Option (State × List HeldOp) :=
  if !l.logs then some (commitStore s f (a, bs), [])
  else match s.far.find? (fun x => x.tid == f.tid && x.own && x.kind == .load && x.addr == a) with
    | none =>
      if peerLimitOf s (some (coreOf f.tid)) (s.ctx f.ctx).job d va false then none
      else
        let (s, id) := freshId s
        let s := (takePeerSlot s f.ctx d).1
        some ({ s with far := s.far ++ [{
          id := id, tid := f.tid, ctx := f.ctx, kernel := (s.thread f.tid).kernel, wid := f.wid, pc := f.pc, kind := .load, addr := a
          pieces := [{ key := va, pos := 0, len := bs.length }], data := [], dest := .none, slot := none, taint := 0, dev := d + 1
          own := true, retired := f.retired, agent := f.agent }] }, [.store a bs])
    | some x =>
      if !x.over then none
      else
        let s := { s with far := s.far.filter (fun y => y.id != x.id) }
        let s := if x.fail != 0 then s else (cuts a.toNat bs.length 16).foldl (fun s c =>
          undoPut s l.seq (BitVec.ofNat 64 c.1) ((x.data.drop (c.1 - a.toNat)).take c.2)) s
        some (commitStore s f (a, bs), [])
/-- One held operation released, and what is left of it; none where it must wait. In a serial replay records, messages and collectives,
which have been released before, are discarded. [DEDUCED, unsafe: log 26] -/
def releaseOp (s : State) (tid : Nat) (l : Launch) (a : Activation) (h : HeldOp) : Option (State × List HeldOp) :=
  let (s, f) := committer s tid l
  let replay := l.phaseState == .replay
  match h with
  | .record r target head pc =>
    if replay then some (s, [])
    else
      let f := { f with pc := pc }
      if r.phase < a.record.phase then some (refuseRecord s f 0x23 r, [])
      else if head then
        if createFull s l (coreOf tid) then some (refuseRecord s f 0x50 r, []) else some (liveUp (putHead s (coreOf tid) l.seq r) l.seq, [])
      else some (sendCall s f (some l.seq) target r, [])
  | .store x bs => (match decodeAddr s x with | .peer d va => releaseStore s f l d va x bs | _ => some (commitStore s f (x, bs), []))
  | .message dev core mbox vals pc =>
    if replay then some (s, [])
    else if s.far.any (fun x => x.tid == tid && !x.over) then none
    else some (sendMessage s { f with pc := pc } dev core mbox vals, [])
  | .entry e copy =>
    let g := coreOf tid; let q := if copy then 1 else 0
    if (queueOf s g q).full then none
    else
      let (s, id) := freshId s
      let held := e.id
      let (s, e) := appendEntry s tid e
      let s := elogAppend s g q e
      let s := setQueue s g q { queueOf s g q with queued := (queueOf s g q).queued ++ [{ e with id := id, retired := f.retired }] }
      let rename := fun (p : Word × List Byte) => if p.2.isEmpty && p.1.toNat == held then (BitVec.ofNat 64 id, p.2) else p
      let t := s.thread tid
      some (s.setThread tid { t with act := t.act.map (fun x => { x with log := x.log.map rename }) }, [])
  | .send pc stores taint =>
    match stores with
    | [] => some (s, [])
    | p :: _ =>
      let now := stores.takeWhile (fun q => q.1 == p.1)
      let later := stores.dropWhile (fun q => q.1 == p.1)
      let s := undoAppend s l (now.map (fun q => (q.1, q.2.length)))
      some (now.foldl (fun s q => sendHeld s { f with pc := pc } taint q) s, if later.isEmpty then [] else [.send pc later taint])
  | .coll block map table pc =>
    if replay then some (s, [])
    else
      let (s, id) := freshId s
      let w := leWords 8 block
      let n := bitsOf (w.getD 0 0) 35 24 + 1
      let c : CollRank := {
        id := id, collid := BitVec.ofNat 16 (bitsOf (w.getD 0 0) 63 48), rank := bitsOf (w.getD 0 0) 47 36, job := (s.ctx l.ctx).job
        ctx := l.ctx, launch := l.seq, tid := tid, wid := f.wid, pc := pc, kernel := (s.thread tid).kernel, block := w
        map := unitsOf n 8 map, table := (List.range n).map (fun r => unitsOf 16 2 (table.drop (32 * r))), phase := 7, retired := f.retired }
      some ({ s with coll := s.coll ++ [c] }, [])

/-- Whether a store or atomic of a thread set is still on its way. -/
def storesOut (s : State) (tid : Nat) : Bool :=
  s.far.any (fun f => f.tid == tid && (match f.kind with | .store => true | .atomic _ _ _ _ => true | _ => false) && !f.over)
/-- Held operations released in order, until one must wait or its stores are on their way. -/
def releaseAll (hs : List HeldOp) (s : State) (tid : Nat) : State :=
  match hs with
  | [] => s
  | h :: r =>
    match (s.thread tid).act, launchOf s tid with
    | some a, some l =>
      match releaseOp s tid l a h with
      | none => s
      | some (s, left) =>
        let t := s.thread tid
        let s := s.setThread tid { t with act := t.act.map (fun x => { x with held := left ++ r }) }
        if left.isEmpty then releaseAll r s tid else s
    | _, _ => s

/-! ## The end of a commit (R84, R118, R200) -/

/-- The committed stores of an activation join the digest of its phase, once its copy entries have ended. -/
def foldCommit (s : State) (n : Nat) (a : Activation) : State :=
  match s.launch n with
  | some l => if l.dmode = 0 then s else s.setLaunch (foldReady s { l with foldLater := l.foldLater ++ [(a.record.phase, a.record.index, a.log)] })
  | none => s
/-- The last part of a commit: an activation in Committing goes to its next state; one that asked to be irrevocable goes on. -/
def commitEnd (s : State) (tid : Nat) (a : Activation) : State :=
  let t := s.thread tid
  match t.run with
  | .committing after =>
    let s := foldCommit s a.launch a
    let s := s.setThread tid { s.thread tid with act := some { a with commitDone := false } }
    match s.launch a.launch with
    | some l => if l.phaseState = .replay then goIdle s tid else finishSuspension s tid after
    | none => goIdle s tid
  | _ => s.setThread tid { t with act := some { a with commitDone := false, want := false, irrevocable := true, wsig := 0 } }

/-! ## Phases (R85) -/

/-- A fault record with cause 0x52: the recorded and the computed digest in its extension. [DESIGN CHOICE, unsafe: log 30] -/
def digestFault (s : State) (l : Launch) (detail : Nat) (recorded computed : List Byte) : State :=
  writeFault s l.ctx { dev := ownId s, agent := 10, code := 0x52, detail := detail, retired := detail == 0 || detail == 2
                       ext := recorded ++ computed }
/-- The activations of a launch that could be aborted. -/
def launchActs (s : State) (n : Nat) : List Nat :=
  s.threads.filterMap (fun p => match p.2.act with | some a => if a.launch == n && !a.irrevocable then some p.1 else none | none => none)
/-- A launch stopped: what it still has queued is discarded. [DEDUCED, unsafe: log 33] -/
def stopLaunch (s : State) (n : Nat) : State :=
  let s := (launchActs s n).foldl (fun s t => detachFollowers (goIdle (suspendGive s t) t) t) s
  let s := { s with cores := tmap s.cores (fun _ (c : Core) =>
    { c with deques := tdel c.deques n, onCore := tdel c.onCore n, waiters := c.waiters.filter (fun w => w.launch != n) }) }
  match s.launch n with
  | some l => s.setLaunch { l with stopped := true, phaseOpen := false, phaseState := .stopped, pools := [], poolRecords := [], live := 0, replayRecords := [] }
  | none => s
/-- The table entry of a phase. -/
def tableEntry (l : Launch) (p : Nat) : Word := l.dtab + BitVec.ofNat 64 (16 * p)
/-- The phase digest P of a launch. -/
def phaseDigest (l : Launch) : List Byte := natBytes 16 (tget l.digest l.phase (0 : BitVec 128)).toNat
/-- A failure of the hub at the digest table. [DESIGN CHOICE, unsafe: log 30] -/
def tableFault (s : State) (l : Launch) (code : Nat) : State :=
  writeFault s l.ctx { dev := ownId s, agent := 10, code := code, addr := tableEntry l l.phase }
/-- A phase done. -/
def phaseDone (s : State) (n : Nat) : State :=
  match s.launch n with
  | some l => s.setLaunch { l with phaseOpen := false, phaseState := .running, digest := tdel l.digest l.phase, phaseRecords := [], undoPos := 0 }
  | none => s
/-- A replay begins: speculative activations go back, the undo entries are applied in reverse commit order, and the records of the phase
are to run one at a time in ascending index. [DEDUCED, unsafe: log 29] -/
def beginReplay (s : State) (n : Nat) : State :=
  let s := (launchActs s n).foldl (fun s t => detachFollowers (abortActivation s t) t) s
  match s.launch n with
  | none => s
  | some l =>
    let s := undoAll l.undoPos s l
    s.setLaunch { l with
      phaseState := .replay, digest := tset l.digest l.phase 0
      replayRecords := sortBy (fun a b => decide (a.2.index ≤ b.2.index)) l.phaseRecords, phaseRecords := [] }
/-- Whether every activation of the launch's current phase has committed. -/
def phaseOver (s : State) (l : Launch) : Bool :=
  l.phaseOpen && !l.foldLater.any (fun f => f.1 == l.phase) &&
  (match lowWater s l with | none => true | some m => decide (l.phase < m.1))
/-- Whether the hub has to wait at the digest table, or to read an undo region, in a waking segment (R163). -/
def tableWaits (s : State) (l : Launch) : Bool := hubWaits s l.ctx (tableEntry l l.phase) 16 || (l.dmode == 2 && hubWaits s l.ctx l.undo (32 * l.undoPos))
/-- The hub acts after the last commit of a phase. -/
def phaseComplete (s : State) (n : Nat) : State :=
  match s.launch n with
  | none => s
  | some l =>
    if !phaseOver s l || tableWaits s l then s
    else
      match l.phaseState with
      | .replay => s.setLaunch { l with phaseState := .replayCheck }
      | .replayCheck => s
      | .stopped => s
      | st =>
        if l.dmode = 1 then
          phaseDone (match hubWrite s l.ctx (tableEntry l l.phase) (phaseDigest l) with | .ok s => s | .error k => tableFault (hubUe s l.ctx (tableEntry l l.phase) 16 k) l k) n
        else
          match hubRead s l.ctx (tableEntry l l.phase) 16 with
          | .error k => phaseDone (tableFault (hubUe s l.ctx (tableEntry l l.phase) 16 k) l k) n
          | .ok r =>
            if r = phaseDigest l then phaseDone s n
            else if st = .unlogged then stopLaunch (digestFault s l 2 r (phaseDigest l)) n
            else beginReplay (digestFault s l 0 r (phaseDigest l)) n

/-! ## The events -/

/-- Whether the activation of a thread set may commit now (R196, R200, R85). -/
def mayCommit (s : State) (l : Launch) (t : Thread) (a : Activation) : Bool :=
  ((match t.run with | .committing _ => true | _ => false) || a.want) && l.lwm == some a.record.ts && lowWater s l == some a.record.ts &&
  !(l.phaseOpen && l.phase != a.record.phase)
/-- A commit taken as far as it goes. [DEDUCED, safe: log 32] -/
def commitStep (s : State) (tid : Nat) : State :=
  let t := s.thread tid
  match t.act, launchOf s tid with
  | some a, some l =>
    if !l.ordered || !((s.ctx l.ctx).save == .running || (s.ctx l.ctx).save == .stopping) then s
    else
      let s :=
        if a.commitDone then s
        else if mayCommit s l t a && !(a.irrevocable && storesOut s tid) then (if commitWaits s l.ctx (bufStores a.buf) then s else commitAnnounce s tid l a)
        else if a.irrevocable && a.wsig != 0 then
          announce (if storesOut s tid then s else s.setThread tid { t with act := some { a with wsig := 0 } }) l.seq tid a.record.ts a.wsig
        else s
      match (s.thread tid).act with
      | some a =>
        if !a.commitDone || storesOut s tid then s
        else
          let s := releaseAll a.held s tid
          match (s.thread tid).act with
          | some a => if a.held.isEmpty && !storesOut s tid then commitEnd s tid a else s
          | none => s
      | none => s
  | _, _ => s
/-- R197: COMMIT: thread set n; then the phase of launch k, where its last activation has committed (R85). -/
def execCommit (s : State) : Host.Outcome State Fault Refusal := .next (phaseComplete (commitStep s s.ev.n) s.ev.k)
/-- R85: REPLAY_CHECK: launch n, whose serial replay has ended. -/
def execReplayCheck (s : State) : Host.Outcome State Fault Refusal :=
  .next (match s.launch s.ev.n with
    | none => s
    | some l =>
      if l.phaseState != .replayCheck || tableWaits s l then s
      else
        match hubRead s l.ctx (tableEntry l l.phase) 16 with
        | .error k => phaseDone (tableFault (hubUe s l.ctx (tableEntry l l.phase) 16 k) l k) l.seq
        | .ok r =>
          if r = phaseDigest l then phaseDone (digestFault s l 1 r (phaseDigest l)) l.seq
          else stopLaunch (digestFault s l 3 r (phaseDigest l)) l.seq)

end Sys2Proof.Machine
end

