-- ==== Sys2Proof/Machine/Fetch.lean ====
section
/-! DEFINITION. Machine/Fetch.lean: the fetch of parcels (R307, R158) through the cluster's instruction cache (R175, R437), and
breakpoints (R301). -/
namespace Sys2Proof.Machine

/-- A fetched parcel, a trap at the parcel's address, or a wait. -/
inductive Fetched where
  | ok (s : State) (p : BitVec 16)
  | trap (s : State) (code : Nat)
  | wait (s : State)

/-- The parcel at an address for the executing thread set: translated, with EX, from the cluster's cache where it stands there, else
from its home (R158, R437). [DESIGN CHOICE, unsafe: log 113] -/
def fetchParcel (s : State) (a : Word) : Fetched :=
  match decodeAddr s a with
  | .translated va =>
    match xlateThread s s.cur s.myCtx va with
    | .miss s => .wait s
    | .fail s c => .trap s c
    | .hit s e =>
      if bitOf e.rights rightEX then
        let k := e.physOf va
        let cl := s.cluster s.myCluster
        match tfind cl.icache k with
        | some p => .ok s p
        | none =>
          match arrive s (.thread s.cur s.th.pc) [(k, 2)] with
          | (s, true) => .wait s
          | (s, false) =>
            match homeFails s k 2 true with
            | some c => .trap (countUe s [(k, 2)] c) c
            | none =>
              let p := BitVec.ofNat 16 (leNat (memRead s k 2))
              let cl := s.cluster s.myCluster
              .ok (s.setCluster s.myCluster { cl with icache := tset cl.icache k p }) p
      else .trap s 0x11
  | _ => .trap s 0x10

/-- A fetched instruction: decoded, its length; or a trap (cause, faulting address), or a wait. -/
inductive FetchedInstr where
  | ok (s : State) (d : Decoded) (len : Nat)
  | trap (s : State) (code : Nat) (faddr : Word)
  | wait (s : State)

/-- The two bytes of a parcel. -/
def parcelBytes (p : BitVec 16) : List Byte := natBytes 2 p.toNat

/-- The instruction at an address (R307): one parcel, or two. -/
def fetchInstr (s : State) (a : Word) : FetchedInstr :=
  match fetchParcel s a with
  | .wait s => .wait s
  | .trap s c => .trap s c a
  | .ok s p =>
    if parcelLength p.toNat = some 4 then
      match fetchParcel s (a + 2) with
      | .wait s => .wait s
      | .trap s c => .trap s c (a + 2)
      | .ok s q =>
        match decodeBytes (parcelBytes p ++ parcelBytes q) with
        | some (d, n, _) => .ok s d n
        | none => .trap s 0x01 a
    else
      match decodeBytes (parcelBytes p) with
      | some (d, n, _) => .ok s d n
      | none => .trap s 0x01 a

/-- FEATURES bit i (R16). -/
def State.feature (s : State) (i : Nat) : Bool := bitOf s.pkg.features i

/-- Whether no other stop is held: a thread set that has been saved in its own stop is tested again (R301, R440). -/
def stopFree (s : State) : Bool :=
  match s.dbg.stop with
  | none => true
  | some x => x.tid == s.cur && s.th.act.any (fun a => a.launch == x.launch)
/-- Whether the instruction at the executing thread set's PC matches a valid breakpoint and no other stop is held (R300, R301). -/
def breakpointHit (s : State) : Bool :=
  s.dbg.en && s.feature 2 && stopFree s && !s.th.noMatch &&
  s.dbg.bps.toList.any (fun b =>
    bitOf b.1 63 && bitsOf b.1 47 2 * 4 == addr48 s.th.pc && bitsOf b.1 61 56 == s.myCtx &&
    (!bitOf b.1 62 || b.2 == s.th.wid))

/-- The cause of a decoded word that is no instruction (R308, R309): a kernel-only encoding in task mode is illegal before its
reserved fields are looked at. -/
def decodeCause (s : State) (d : Decoded) : Option Nat :=
  match d with
  | .ok _ => none
  | .illegal => some 0x01
  | .reserved k => if k && !s.th.kernel then some 0x01 else some 0x02

end Sys2Proof.Machine
end

