-- ==== Sys2Proof/Machine/Debug.lean ====
section
/-! DEFINITION. Machine/Debug.lean: the trace and sample rings (R302), starting and releasing a debug stop (R300, R301), and dbg.mark and
dbg.stop (R439, R440). -/
namespace Sys2Proof.Machine

/-- A sample, mark or stop record (R302). -/
def traceBytes (s : State) (tid kind tag : Nat) (pc : Word) : List Byte :=
  let t := s.thread tid
  let entry := match t.act with | some a => a.record.entry.toNat | none => 0
  let seq := match launchOf s tid with | some l => l.seq | none => 0
  natBytes 8 (ctxOf s tid * 2 ^ 58 + seq % 1024 * 2 ^ 48 + entry % 2 ^ 48 / 4 * 4 + kind) ++
  natBytes 8 t.wid.toNat ++
  natBytes 8 (tid % 4 * 2 ^ 60 + coreOf tid * 2 ^ 48 + addr48 pc) ++
  natBytes 8 (tag % 0x10000 * 2 ^ 48 + (Config.cycleAt s.steps).toNat % 2 ^ 48)

/-- 32 bytes put at record n of a ring of physical HBM; a failure loses the record (R439). -/
def ringPut (s : State) (base : Word) (n size : Nat) (bs : List Byte) : State :=
  let a := base.toNat + 32 * (if size = 0 then 0 else n % size)
  if isHbm a && physOk a 32 && (homeFails s a 32 false).isNone then memWrite s a bs else s

/-- A record in the trace ring (R302): nothing while TRC_BASE is 0. TRC_CTL [63:48] counts it. -/
def traceRecord (s : State) (tid kind tag : Nat) (pc : Word) : State :=
  if s.dbg.trcBase = 0 then s
  else
    let n := bitsOf s.dbg.trcCtl 63 48
    let s1 := ringPut s s.dbg.trcBase n (bitsOf s.dbg.trcCtl 47 32) (traceBytes s tid kind tag pc)
    { s1 with dbg := { s1.dbg with trcCtl := BitVec.ofNat 64 (s1.dbg.trcCtl.toNat % 2 ^ 48 + (n + 1) % 2 ^ 16 * 2 ^ 48) } }

/-- A stop starts at a thread set (R301): code 0x70 or 0x72, the extent of DBG_CTL.MODE, a record in the trace ring.
[DEDUCED, unsafe: log 74; DEDUCED, unsafe: log 75] -/
def startStop (s : State) (tid code : Nat) : State :=
  let seq := match launchOf s tid with | some l => l.seq | none => 0
  let mode := if s.dbg.mode.toNat = 3 then 0 else s.dbg.mode.toNat
  let s := traceRecord s tid 2 0 (s.thread tid).pc
  let s := { s with dbg := { s.dbg with stop := some { code := code, tid := tid, mode := mode, launch := seq }, lastCode := code, lastTid := tid } }
  let s := s.setThread tid { s.thread tid with stopHeld := true }
  match mode with
  | 1 => { s with launches := s.launches.map (fun (l : Launch) => if l.seq == seq then { l with debugDrain := true } else l) }
  | 2 => { s with threads := tmap s.threads (fun _ (t : Thread) => { t with stopHeld := true }) }
  | _ => s

/-- RESUME (R301): every stopped party goes on, and the stopped instruction executes with no second match. A sleep has ended
(R436). -/
def releaseStop (s : State) : State :=
  match s.dbg.stop with
  | none => s
  | some st =>
    let s := { s with
      dbg := { s.dbg with stop := none }
      launches := s.launches.map (fun (l : Launch) => { l with debugDrain := false })
      threads := tmap s.threads (fun _ (t : Thread) =>
        let ended := t.stopHeld && t.run == Run.sleepCount
        { t with stopHeld := false, run := if ended then Run.running else t.run }) }
    if (s.thread st.tid).act.any (fun a => a.launch != st.launch) || (s.thread st.tid).act.isNone then s
    else s.setThread st.tid { s.thread st.tid with noMatch := true }

/-- R439: dbg.mark: one mark record with the tag x[rs1] [15:0] and the instruction's own address, in its place among the local stores
(R302). It never traps: an error of rs1 is not looked at. -/
def execDbgMark (a : Reg) (s : State) : Host.Outcome State Fault Refusal :=
  let u : Use := { rx := [a], afterStores := true, mem := some { base := 0, off := 0, size := 0, store := true, order := .mark } }
  let eff := fun (s : State) => traceRecord s s.cur 1 ((rdX s a).toNat % 0x10000) s.pcNow
  match s.winRun with
  | some e => settleDeferred e (.ok (eff s))
  | none =>
    if blockedBy s s.th.entries u then .next (if 16 ≤ s.th.window.length then s else issued (enterWindow s (.dbgMark a) u) (.dbgMark a))
    else settle (.dbgMark a) (.ok (eff s))

/-- R440: dbg.stop: starts a stop where EN is set, FEATURES bit 2 is set and no stop is held, and retires after RESUME; otherwise it
retires at once. -/
def execDbgStop (s : State) : Host.Outcome State Fault Refusal :=
  issueN .dbgStop true (fun s =>
    if s.dbg.en && s.feature 2 && stopFree s && !s.th.noMatch then waitE (startStop s s.cur 0x72) else .ok s) s

end Sys2Proof.Machine
end

