-- ==== Sys2Proof/Machine/LoadStore.lean ====
section
/-! DEFINITION. Machine/LoadStore.lean: scalar and vector loads and stores (R348 to R351). -/
namespace Sys2Proof.Machine

/-- A scalar load (R348): n bytes at x[rs1] + imm, extended. -/
def scalarLoad (i : Instr) (d a : Reg) (off : BitVec 12) (n : Nat) (signed : Bool) (s : State) : Host.Outcome State Fault Refusal :=
  issueD i { rx := [a], wx := [d], mem := some { base := a, off := imm12 off, size := n, store := false } }
    (fun m s => loadEff s m (rdX s a + imm12 off) n (.x d (8 * n) signed)) s

/-- A scalar store (R348): the low n bytes of x[rs2] at x[rs1] + imm. -/
def scalarStore (i : Instr) (b a : Reg) (off : BitVec 12) (n : Nat) (s : State) : Host.Outcome State Fault Refusal :=
  issueD i { rx := [a, b], mem := some { base := a, off := imm12 off, size := n, store := true, dx := [b] } }
    (fun m s => storeEff s m (rdX s a + imm12 off) (natBytes n (rdX s b).toNat)) s

/-- R348: lb. -/
def execLb (d a : Reg) (i : BitVec 12) (s : State) : Host.Outcome State Fault Refusal := scalarLoad (.lb d a i) d a i 1 true s

/-- R348: lh. -/
def execLh (d a : Reg) (i : BitVec 12) (s : State) : Host.Outcome State Fault Refusal := scalarLoad (.lh d a i) d a i 2 true s

/-- R348: lw. -/
def execLw (d a : Reg) (i : BitVec 12) (s : State) : Host.Outcome State Fault Refusal := scalarLoad (.lw d a i) d a i 4 true s

/-- R348: ld. -/
def execLd (d a : Reg) (i : BitVec 12) (s : State) : Host.Outcome State Fault Refusal := scalarLoad (.ld d a i) d a i 8 true s

/-- R348: lbu. -/
def execLbu (d a : Reg) (i : BitVec 12) (s : State) : Host.Outcome State Fault Refusal := scalarLoad (.lbu d a i) d a i 1 false s

/-- R348: lhu. -/
def execLhu (d a : Reg) (i : BitVec 12) (s : State) : Host.Outcome State Fault Refusal := scalarLoad (.lhu d a i) d a i 2 false s

/-- R348: lwu. -/
def execLwu (d a : Reg) (i : BitVec 12) (s : State) : Host.Outcome State Fault Refusal := scalarLoad (.lwu d a i) d a i 4 false s

/-- R348: sb. -/
def execSb (b a : Reg) (i : BitVec 12) (s : State) : Host.Outcome State Fault Refusal := scalarStore (.sb b a i) b a i 1 s

/-- R348: sh. -/
def execSh (b a : Reg) (i : BitVec 12) (s : State) : Host.Outcome State Fault Refusal := scalarStore (.sh b a i) b a i 2 s

/-- R348: sw. -/
def execSw (b a : Reg) (i : BitVec 12) (s : State) : Host.Outcome State Fault Refusal := scalarStore (.sw b a i) b a i 4 s

/-- R348: sd. -/
def execSd (b a : Reg) (i : BitVec 12) (s : State) : Host.Outcome State Fault Refusal := scalarStore (.sd b a i) b a i 8 s

/-- R350: vl: vd := the 16 bytes at x[rs1] + imm. -/
def execVl (d a : Reg) (i : BitVec 12) (s : State) : Host.Outcome State Fault Refusal :=
  issueD (.vl d a i) { rx := [a], wv := [d], mem := some { base := a, off := imm12 i, size := 16, store := false } }
    (fun m s => loadEff s m (rdX s a + imm12 i) 16 (.v d)) s

/-- R350: vs: the 16 bytes at x[rs1] + imm := vs2. -/
def execVs (b a : Reg) (i : BitVec 12) (s : State) : Host.Outcome State Fault Refusal :=
  issueD (.vs b a i) { rx := [a], rv := [b], mem := some { base := a, off := imm12 i, size := 16, store := true, dv := [b] } }
    (fun m s => storeEff s m (rdX s a + imm12 i) (natBytes 16 (rdV s b).toNat)) s

/-- The row of R147 that an address matches, and the device for the first row (R351). -/
def rowOf (s : State) (a : Word) : Nat × Nat :=
  match decodeAddr s a with
  | .peer d _ => (1, d)
  | .ownTcm _ => (2, 0)
  | .ownSpad _ => (3, 0)
  | .window x => if isTcm x then (4, 0) else (5, 0)
  | .register _ => (6, 0)
  | .nowhere => (7, 0)
  | .translated _ => (8, 0)

/-- The places of the lanes of a vl.tr, in order (R351). -/
def lanePlaces (s : State) (n : Nat) (l : List Word) : Except Stop (State × List Place) :=
  match l with
  | [] => .ok (s, [])
  | a :: r =>
    match place s a n [rightRD] with
    | .error x => .error x
    | .ok (s, p) =>
      match lanePlaces s n r with
      | .error x => .error x
      | .ok (s, ps) => .ok (s, p :: ps)

/-- The effect of vl.tr (R351): lane i from base + i × stride; all lanes in one row of R147. -/
def columnEff (s : State) (m : Mask) (d : Reg) (base : Word) (n stride : Nat) : Eff := do
  let addrs := (List.range (16 / n)).map (fun i => base + BitVec.ofNat 64 (i * stride))
  match addrs.find? (fun a => rowOf s a != rowOf s base) with
  | some a => trapE s 0x10 a
  | none => .ok ()
  let (s, ps) ← lanePlaces s n addrs
  match ps.headD (.register 0) with
  | .register _ => trapE s 0x11 base
  | .near _ =>
    let (s, bs) ← (ps.zip addrs).foldlM (init := (s, ([] : List Byte))) (fun (acc : State × List Byte) pa =>
      match pa.1 with
      | .near k => do let (s, b) ← localRead acc.1 m pa.2 k n; .ok (s, acc.2 ++ b)
      | _ => .ok acc)
    .ok (putDest s m (.v d) bs)
  | p =>
    match p with
    | .peer dv va => if peerLimit s dv va false (16 / n) then waitE s else .ok ()
    | _ => .ok ()
    let s := addrs.foldl (fun s a => noteRead s (plainAddr s a) n) s
    let ovl := if buffers s then
        (match s.myAct with
         | some x => (addrs.mapIdx (fun i a => (bufGet x.buf (plainAddr s a) n).map (fun q => (i * n + q.1, q.2)))).flatten
         | none => [])
      else []
    let pieces := (ps.mapIdx (fun i p =>
      match p with
      | .far _ => (placePieces s (base + BitVec.ofNat 64 (i * stride)) p n).map (fun q =>
          { q with pos := i * n + q.pos, off := some (BitVec.ofNat 64 (i * stride + q.pos)) })
      | .peer _ va => [{ key := va, pos := i * n, len := n, off := some (BitVec.ofNat 64 (i * stride)) }]
      | .near k => [{ key := k, pos := i * n, len := n }]
      | .register x => [{ key := x, pos := i * n, len := n }])).flatten
    .ok (farWithSlot s m .load base pieces (placeDev p) [] (.v d) false ovl)

/-- R351: vl.tr: one column of a row-major array. [DEDUCED, safe: log 67] -/
def execVlTr (d a : Reg) (z : BitVec 2) (k : BitVec 10) (s : State) : Host.Outcome State Fault Refusal :=
  issueD (.vlTr d a z k)
    { rx := [a], wv := [d],
      mem := some { base := a, off := 0, size := (16 / 2 ^ z.toNat - 1) * k.toNat + 2 ^ z.toNat, store := false } }
    (fun m s => columnEff s m d (rdX s a) (2 ^ z.toNat) k.toNat) s

end Sys2Proof.Machine
end

