-- ==== Sys2Proof/Machine/Encoded.lean ====
section
/-! DEFINITION. Machine/Encoded.lean: the meaning of an instruction by its encoded form, for what executes an instruction without fetching
it: the deferred window (R129) and the expansion of a 16-bit instruction (R312). -/
namespace Sys2Proof.Machine

/-- The execution of a 32-bit instruction; what is no such instruction does nothing. -/
def runEncoded (i : Instr) (s : State) : Host.Outcome State Fault Refusal :=
  match i with
  | .lui d i => execLui d i s
  | .auipc d i => execAuipc d i s
  | .jal d i => execJal d i s
  | .jalr d a i => execJalr d a i s
  | .beq a b i => execBeq a b i s
  | .bne a b i => execBne a b i s
  | .blt a b i => execBlt a b i s
  | .bge a b i => execBge a b i s
  | .bltu a b i => execBltu a b i s
  | .bgeu a b i => execBgeu a b i s
  | .lb d a i => execLb d a i s
  | .lh d a i => execLh d a i s
  | .lw d a i => execLw d a i s
  | .ld d a i => execLd d a i s
  | .lbu d a i => execLbu d a i s
  | .lhu d a i => execLhu d a i s
  | .lwu d a i => execLwu d a i s
  | .sb b a i => execSb b a i s
  | .sh b a i => execSh b a i s
  | .sw b a i => execSw b a i s
  | .sd b a i => execSd b a i s
  | .fence d a m p sl => execFence d a m p sl s
  | .fenceTso d a => execFenceTso d a s
  | .addi d a i => execAddi d a i s
  | .slti d a i => execSlti d a i s
  | .sltiu d a i => execSltiu d a i s
  | .xori d a i => execXori d a i s
  | .ori d a i => execOri d a i s
  | .andi d a i => execAndi d a i s
  | .slli d a sl => execSlli d a sl s
  | .srli d a sl => execSrli d a sl s
  | .srai d a sl => execSrai d a sl s
  | .clz d a => execClz d a s
  | .ctz d a => execCtz d a s
  | .cpop d a => execCpop d a s
  | .sextB d a => execSextB d a s
  | .sextH d a => execSextH d a s
  | .rori d a sl => execRori d a sl s
  | .orcB d a => execOrcB d a s
  | .rev8 d a => execRev8 d a s
  | .addiw d a i => execAddiw d a i s
  | .slliw d a sl => execSlliw d a sl s
  | .slliUw d a sl => execSlliUw d a sl s
  | .srliw d a sl => execSrliw d a sl s
  | .sraiw d a sl => execSraiw d a sl s
  | .roriw d a sl => execRoriw d a sl s
  | .clzw d a => execClzw d a s
  | .ctzw d a => execCtzw d a s
  | .cpopw d a => execCpopw d a s
  | .add d a b => execAdd d a b s
  | .sll d a b => execSll d a b s
  | .slt d a b => execSlt d a b s
  | .sltu d a b => execSltu d a b s
  | .xor d a b => execXor d a b s
  | .srl d a b => execSrl d a b s
  | .or d a b => execOr d a b s
  | .and d a b => execAnd d a b s
  | .sub d a b => execSub d a b s
  | .sra d a b => execSra d a b s
  | .andn d a b => execAndn d a b s
  | .orn d a b => execOrn d a b s
  | .xnor d a b => execXnor d a b s
  | .mul d a b => execMul d a b s
  | .mulh d a b => execMulh d a b s
  | .mulhsu d a b => execMulhsu d a b s
  | .mulhu d a b => execMulhu d a b s
  | .div d a b => execDiv d a b s
  | .divu d a b => execDivu d a b s
  | .rem d a b => execRem d a b s
  | .remu d a b => execRemu d a b s
  | .sh1add d a b => execSh1add d a b s
  | .sh2add d a b => execSh2add d a b s
  | .sh3add d a b => execSh3add d a b s
  | .min d a b => execMin d a b s
  | .minu d a b => execMinu d a b s
  | .max d a b => execMax d a b s
  | .maxu d a b => execMaxu d a b s
  | .rol d a b => execRol d a b s
  | .ror d a b => execRor d a b s
  | .addw d a b => execAddw d a b s
  | .sllw d a b => execSllw d a b s
  | .srlw d a b => execSrlw d a b s
  | .subw d a b => execSubw d a b s
  | .sraw d a b => execSraw d a b s
  | .mulw d a b => execMulw d a b s
  | .divw d a b => execDivw d a b s
  | .divuw d a b => execDivuw d a b s
  | .remw d a b => execRemw d a b s
  | .remuw d a b => execRemuw d a b s
  | .addUw d a b => execAddUw d a b s
  | .zextH d a => execZextH d a s
  | .sh1addUw d a b => execSh1addUw d a b s
  | .sh2addUw d a b => execSh2addUw d a b s
  | .sh3addUw d a b => execSh3addUw d a b s
  | .rolw d a b => execRolw d a b s
  | .rorw d a b => execRorw d a b s
  | .amoaddW d a b q l => execAmoaddW d a b q l s
  | .amoaddD d a b q l => execAmoaddD d a b q l s
  | .amoswapW d a b q l => execAmoswapW d a b q l s
  | .amoswapD d a b q l => execAmoswapD d a b q l s
  | .amoxorW d a b q l => execAmoxorW d a b q l s
  | .amoxorD d a b q l => execAmoxorD d a b q l s
  | .amoorW d a b q l => execAmoorW d a b q l s
  | .amoorD d a b q l => execAmoorD d a b q l s
  | .amoandW d a b q l => execAmoandW d a b q l s
  | .amoandD d a b q l => execAmoandD d a b q l s
  | .amominW d a b q l => execAmominW d a b q l s
  | .amominD d a b q l => execAmominD d a b q l s
  | .amomaxW d a b q l => execAmomaxW d a b q l s
  | .amomaxD d a b q l => execAmomaxD d a b q l s
  | .amominuW d a b q l => execAmominuW d a b q l s
  | .amominuD d a b q l => execAmominuD d a b q l s
  | .amomaxuW d a b q l => execAmomaxuW d a b q l s
  | .amomaxuD d a b q l => execAmomaxuD d a b q l s
  | .csrrw d a c => execCsrrw d a c s
  | .csrrs d a c => execCsrrs d a c s
  | .csrrc d a c => execCsrrc d a c s
  | .csrrwi d c u => execCsrrwi d c u s
  | .csrrsi d c u => execCsrrsi d c u s
  | .csrrci d c u => execCsrrci d c u s
  | .vl d a i => execVl d a i s
  | .vlTr d a z sl => execVlTr d a z sl s
  | .vs b a i => execVs b a i s
  | .vadd d a b t => execVadd d a b t s
  | .vsub d a b t => execVsub d a b t s
  | .vmul d a b t => execVmul d a b t s
  | .vmulh d a b u t => execVmulh d a b u t s
  | .vmac d a b u t => execVmac d a b u t s
  | .vmin d a b u t => execVmin d a b u t s
  | .vmax d a b u t => execVmax d a b u t s
  | .vabs d a t => execVabs d a t s
  | .vand d a b => execVand d a b s
  | .vor d a b => execVor d a b s
  | .vxor d a b => execVxor d a b s
  | .vsll d a b t => execVsll d a b t s
  | .vsrl d a b t => execVsrl d a b t s
  | .vsra d a b t => execVsra d a b t s
  | .vcmpEq d a b t => execVcmpEq d a b t s
  | .vcmpNe d a b t => execVcmpNe d a b t s
  | .vcmpLt d a b u t => execVcmpLt d a b u t s
  | .vcmpLe d a b u t => execVcmpLe d a b u t s
  | .vfadd d a b t => execVfadd d a b t s
  | .vfsub d a b t => execVfsub d a b t s
  | .vfmul d a b t => execVfmul d a b t s
  | .vfma d a b t => execVfma d a b t s
  | .vfmin d a b t => execVfmin d a b t s
  | .vfmax d a b t => execVfmax d a b t s
  | .vdot d a b u t => execVdot d a b u t s
  | .vredsum d a u t => execVredsum d a u t s
  | .vredmax d a u t => execVredmax d a u t s
  | .vredmin d a u t => execVredmin d a u t s
  | .vrcp d a t => execVrcp d a t s
  | .vrsqrt d a t => execVrsqrt d a t s
  | .vexp2 d a t => execVexp2 d a t s
  | .vlog2 d a t => execVlog2 d a t s
  | .vtanh d a t => execVtanh d a t s
  | .verf d a t => execVerf d a t s
  | .vperm d a b t => execVperm d a b t s
  | .vzip d a b t => execVzip d a b t s
  | .vunzip d a b t => execVunzip d a b t s
  | .vbcast d a t => execVbcast d a t s
  | .vext d a i t => execVext d a i t s
  | .vins d a i t => execVins d a i t s
  | .vmv d a => execVmv d a s
  | .vmxEnc d a sl e t => execVmxEnc d a sl e t s
  | .vmxDec d a e t => execVmxDec d a e t s
  | .vsel d a b c t => execVsel d a b c t s
  | .vcvt d a t sl u m => execVcvt d a t sl u m s
  | .vtabEnc d a sl u => execVtabEnc d a sl u s
  | .vtabDec d a t => execVtabDec d a t s
  | .ldAcq d a => execLdAcq d a s
  | .sdRel a b => execSdRel a b s
  | .amoScSwap d a b w => execAmoScSwap d a b w s
  | .amoScAdd d a b w => execAmoScAdd d a b w s
  | .amoScMin d a b u w => execAmoScMin d a b u w s
  | .amoScMax d a b u w => execAmoScMax d a b u w s
  | .amoScCas d a b w => execAmoScCas d a b w s
  | .fenceS d sl k => execFenceS d sl k s
  | .depJoin d a v w => execDepJoin d a v w s
  | .depClr d a v => execDepClr d a v s
  | .depWait a w => execDepWait a w s
  | .waitAddr d a b o => execWaitAddr d a b o s
  | .barInit a b => execBarInit a b s
  | .barArrive a => execBarArrive a s
  | .barWait a => execBarWait a s
  | .waitAny d a b => execWaitAny d a b s
  | .rdFwd d a b => execRdFwd d a b s
  | .rdCast d a b => execRdCast d a b s
  | .peerErr d a => execPeerErr d a s
  | .peerId d a => execPeerId d a s
  | .peerClr a => execPeerClr a s
  | .tsGet d => execTsGet d s
  | .widGet d => execWidGet d s
  | .nodeCh d a b => execNodeCh d a b s
  | .callAt a b => execCallAt a b s
  | .msgWait a b => execMsgWait a b s
  | .taskPush a => execTaskPush a s
  | .taskPop d => execTaskPop d s
  | .taskSplit d a => execTaskSplit d a s
  | .taskSteal d a => execTaskSteal d a s
  | .taskCnt d => execTaskCnt d s
  | .follow a => execFollow a s
  | .engPush a => execEngPush a s
  | .engQfence i => execEngQfence i s
  | .engWait i => execEngWait i s
  | .engStat d i => execEngStat d i s
  | .engSave a => execEngSave a s
  | .engResume a => execEngResume a s
  | .accTake i => execAccTake i s
  | .accGive i => execAccGive i s
  | .shpLd a i => execShpLd a i s
  | .shpSt a i => execShpSt a i s
  | .shpEvict i => execShpEvict i s
  | .tblLd a => execTblLd a s
  | .vaccLd d a => execVaccLd d a s
  | .vaccSt a b => execVaccSt a b s
  | .rkCfg a => execRkCfg a s
  | .rkSend a b => execRkSend a b s
  | .rkFold sl => execRkFold sl s
  | .rkStat d sl => execRkStat d sl s
  | .rkDrain sl => execRkDrain sl s
  | .rkGrad a b sl => execRkGrad a b sl s
  | .rkWgrad a b sl => execRkWgrad a b sl s
  | .waveCfg a sl => execWaveCfg a sl s
  | .waveCloseInstr sl => execWaveCloseInstr sl s
  | .waveWait sl => execWaveWait sl s
  | .trCfg a => execTrCfg a s
  | .trDesc a => execTrDesc a s
  | .trPath d a => execTrPath d a s
  | .trBwd d a b => execTrBwd d a b s
  | .collGo a => execCollGo a s
  | .collWait a => execCollWait a s
  | .collStat d a => execCollStat d a s
  | .strmCfg a u => execStrmCfg a u s
  | .frep a l m n => execFrep a l m n s
  | .strmBind u => execStrmBind u s
  | .strmEnd u => execStrmEnd u s
  | .ctxSave a => execCtxSave a s
  | .ctxLoad d a => execCtxLoad d a s
  | .sleep a => execSleep a s
  | .dbgMark a => execDbgMark a s
  | .ecall => execEcall s
  | .ebreak => execEbreak s
  | .suspend => execSuspend s
  | .yield => execYield s
  | .exit => execExit s
  | .followEnd => execFollowEnd s
  | .rkEnc => execRkEnc s
  | .trapRet => execTrapRet s
  | .icacheInv => execIcacheInv s
  | .dbgStop => execDbgStop s
  | .compressedInstruction _ | .matins | .firmwareRecoveryImage | .attestationRequest | .attestationQueuedServe | .powerSample
  | .monitorRefresh | .mdroopRead | .registerWrite | .flitBoundary | .packetReceive | .flitCrcError | .allowanceReturn
  | .allowanceReturnSend | .allowanceReturnTimeout | .stripeChange | .replayRequest | .acknowledge | .modeChange | .identity
  | .unknownControlFlit | .laneMarginFailure | .trainingComplete | .trainingFail | .retrainComplete | .retrainFail | .signalLost
  | .announceDarkEnter | .signalReturn | .darkTimerExpiry | .relockComplete | .relockFail | .lnkCmdPark | .lnkCmdWake
  | .lnkCmdRetrainPam4 | .lnkCmdForceNrz | .lnkCmdAnnounceDark | .lnkCmdReserved | .lnkEnSet | .lnkEnClear | .idleParkExpiry
  | .wakeDepthTrigger | .wakeStripeChange | .gridCapture | .packetInject | .routePacket | .deadlockEscape | .sequencedPacketArrival
  | .retryResend | .read | .write | .atomic | .readData | .writeAcknowledge | .atomicResult | .peerTimeout | .forwardRequest
  | .forwardData | .forwardStatus | .drainMarker | .fabricDrain | .taskRecord | .returnMessage | .parkedRecordPlace | .collective
  | .lwmAnnounce | .commit | .replayCheck | .bar2Access | .ctxCreate | .ctxDestroy | .ctxRetrySave | .ctxCmdReserved | .doorbell
  | .launchAccept | .hostIrq | .cplGo | .cplQuiesceComplete | .cplCopyComplete | .cplCopyError | .cplBoundExceeded | .cplSealComplete
  | .cplRestore | .cplRestoreComplete | .cplHoldRelease | .twilightFreeze | .twilightRead | .sidebandDump | .xltInv | .xltInvComplete
  | .tlbWalkComplete | .spadHash | .spadGate | .dsramGate | .bankWakeComplete | .launchAdmit | .poolTopup | .dispatchPlace
  | .recordPickup | .balance | .launchComplete | .farLoadData | .deferredExecute | .asyncTrapDelivery | .ctxStopped | .ctxSaveWritten
  | .ctxSaveFail | .ctxRestoreStart | .ctxRestoreDone | .queueWriteback | .entryStart | .entryOvertake | .entryAge | .mma | .mmaz
  | .azero | .aload | .astore | .queueFence | .copy | .decomp | .compr | .gather | .scatter | .fill | .nzscan | .signal | .inletStore
  | .waveTick | .barrierArrival | .waitWake | .waitAnyTimeout | .sleepExpiry | .breakpointMatch | .debugResume | .sampleTick | .rplGo
  | .accessPerformedAtHome | .powerRemoval => .next s

/-- R312: a 16-bit instruction executes exactly as its 32-bit expansion; an encoding that has none raises 0x01.
[DESIGN CHOICE, safe: log 118] -/
def execCompressedInstruction (p : BitVec 16) (s : State) : Host.Outcome State Fault Refusal :=
  match expandCompressed p with
  | some i => runEncoded i { s with ilen := 2 }
  | none => .next (illegal s 0x01)

/-- R129, R131: the oldest window entry that is ready executes in the thread set's issue turn, before its next instruction. -/
def runEntryAt (e : WinEntry) (s : State) : Host.Outcome State Fault Refusal :=
  runEncoded e.instr { s with winRun := some e }

end Sys2Proof.Machine
end

