-- ==== Sys2Proof/Machine/DebugEv.lean ====
section
/-! DEFINITION. Machine/DebugEv.lean: the events of the debug block (R300 to R304): breakpoint matches, resuming, samples, the command log's
snapshot and the replay. -/
namespace Sys2Proof.Machine

/-- R301: BREAKPOINT_MATCH: the thread set whose turn it is, at an instruction that matches a valid breakpoint. -/
def execBreakpointMatch (s : State) : Host.Outcome State Fault Refusal :=
  .next (if breakpointHit s then startStop s s.cur 0x70 else s)
/-- R301: DEBUG_RESUME. -/
def execDebugResume (s : State) : Host.Outcome State Fault Refusal := .next (releaseStop s)
/-- One sample record for each thread set that runs an activation (R302). -/
def sampleTick (s : State) : State :=
  if s.dbg.sampBase = 0 || bitsOf s.dbg.sampCtl 31 0 == 0 then s
  else
    let running := s.threads.filterMap (fun p => if p.2.act.isSome && p.2.run != .idle then some p.1 else none)
    running.foldl (fun s t =>
      let s1 := ringPut s s.dbg.sampBase s.dbg.sampPos (bitsOf s.dbg.sampCtl 47 32) (traceBytes s t 0 0 (s.thread t).pc)
      { s1 with dbg := { s1.dbg with sampPos := s1.dbg.sampPos + 1 } }) s
/-- R302: SAMPLE_TICK. -/
def execSampleTick (s : State) : Host.Outcome State Fault Refusal := .next (sampleTick s)

/-! ## The command log (R304) -/

/-- The tiles of the logged core's launch kept, and written to ELOG_BASE: the log is enabled. [DESIGN CHOICE, unsafe: log 76] -/
def elogSnapshot (s : State) (g : Nat) : State :=
  match s.launches.find? (fun l => l.admitted && (l.onCore g).isSome && (s.ctx l.ctx).image.isNone) with
  | none => { s with dbg := { s.dbg with snapshot := [], log := [] } }
  | some l =>
    let base := match l.onCore g with | some a => a.tile | none => 0
    let ts := (List.range l.acct).map (fun i => tileOf s g (base + i))
    let a := s.dbg.elogBase.toNat
    let bs := ts.flatMap tileBytes
    let s := if isHbm a && physOk a bs.length then memWrite s a bs else s
    { s with dbg := { s.dbg with snapshot := ts.map (fun t => t.elems), log := [] } }

/-- For whom the replay of a logged entry reads. -/
def replayUnit (s : State) (g : Nat) (x : BitVec 256 × Word × Word × Nat) : Option UnitFor :=
  (s.launch x.2.2.2).map (fun l => { tid := unitTid g 6, core := g, launch := l, kernel := l.kernel, wid := x.2.1, pc := x.2.2.1 })
/-- The rows that a logged ALOAD reads. -/
def replayRows (t : Tcw) : List (Word × Nat) :=
  if tcwOp t = 0x04 then
    (List.range 32).map (fun r => (BitVec.ofNat 64 (bitsOf t 150 87) + BitVec.ofNat 64 (r * bitsOf t 182 151), if bitOf t 184 then 128 else 64))
  else []
/-- The rows of the logged entries that lie at peers asked for: whether one of them is still to come. -/
def replayAsk (s : State) (g : Nat) (xs : List (BitVec 256 × Word × Word × Nat)) : State × Bool :=
  xs.foldl (fun (acc : State × Bool) x =>
    match replayUnit acc.1 g x with
    | none => acc
    | some u => (replayRows x.1).foldl (fun (acc : State × Bool) r =>
        match decodeAddr acc.1 r.1 with
        | .peer _ _ => (match unitRead acc.1 u r.1 r.2 with | .wait s => (s, true) | .ok s _ => (s, acc.2) | .fail s _ _ _ => (s, acc.2))
        | _ => acc) acc) (s, false)
/-- A row read for a replay: one at a peer has come. [DESIGN CHOICE, unsafe: log 76] -/
def replayRead (s : State) (u : UnitFor) (a : Word) (n : Nat) : List Byte :=
  let ks : Option (List (Nat × Nat)) :=
    match decodeAddr s a with
    | .translated va => (hubKeys s u.launch.ctx va n [rightRD]).toOption
    | _ => (match unitPlace s u a n rightRD with | .ok _ (.near k) => some [(k, n)] | .ok _ (.far ks) => some ks | _ => none)
  match decodeAddr s a, ks with
  | .peer _ _, _ => (match unitFar s u .load a with | some f => if f.fail = 0 then f.data else List.replicate n 0 | none => List.replicate n 0)
  | _, some ks => (readKeys s ks).toOption.getD (List.replicate n 0)
  | _, none => List.replicate n 0
/-- One logged entry executed again; `k` counts the ASTOREs replayed before it. -/
def replayOne (s : State) (g k : Nat) (x : BitVec 256 × Word × Word × Nat) : State × Nat :=
  let t : Tcw := x.1
  match replayUnit s g x with
  | none => (s, k)
  | some u =>
    let l := u.launch
    let base := match l.onCore g with | some a => a.tile | none => 0
    let f32 := bitOf t 184; let tr := bitOf t 183; let sz := if f32 then 4 else 2
    let ti := base + bitsOf t 187 185
    match tcwOp t with
    | 0x01 | 0x02 => ((List.range (bitsOf t 178 174 + 1)).foldl (fun s i => mmaStep s g base t i) s, k)
    | 0x03 =>
      let e : Entry := { id := 0, tcw := t, launch := l.seq, tid := 4 * g, wid := x.2.1, pc := x.2.2.1 }
      ((List.range 8).foldl (fun s i => if entryTiles s g e / 2 ^ i % 2 == 1 then setTile s g i { tileOf s g i with elems := [], bad := [] } else s) s, k)
    | 0x04 =>
      ((replayRows t).zipIdx.foldl (fun s r =>
        let vs := (unitsOf 32 sz (replayRead s u r.1.1 r.1.2)).map (fun v => if f32 then v else (Fmt.f32.convert 0 0 false (Fmt.bf16.value v)).1)
        setTile s g ti (vs.zipIdx.foldl (fun (tl : Tile) p => if tr then tl.put p.2 r.2 p.1 else tl.put r.2 p.2 p.1) (tileOf s g ti))) s, k)
    | 0x05 =>
      let tile := tileOf s g ti
      let bs := (List.range 32).flatMap (fun r => (List.range 32).flatMap (fun c =>
        let v := if tr then tile.get c r else tile.get r c
        natBytes sz (if f32 then v else (Fmt.bf16.convert 0 0 false (Fmt.f32.value v)).1)))
      let a := s.dbg.rplDest.toNat + 4096 * k
      (if isHbm a && physOk a bs.length then memWrite s a bs else s, k + 1)
    | _ => (s, k)
/-- A replay (R304): with every core stopped in mode 2, from the snapshot, once the rows that lie at peers have come.
[DESIGN CHOICE, unsafe: log 76] -/
def replayGo (s : State) : State :=
  if !s.allStopped then s
  else
    let g := bitsOf s.dbg.elogCtl 27 16
    let xs := (s.dbg.log.drop s.dbg.rplFirst.toNat).take s.dbg.rplCount.toNat
    let (s, waits) := replayAsk s g xs
    if waits then { s with dbg := { s.dbg with rplRunning := true } }
    else
    let base := match s.launches.find? (fun l => l.admitted && (l.onCore g).isSome && (s.ctx l.ctx).image.isNone) with
      | some l => (match l.onCore g with | some a => a.tile | none => 0)
      | none => 0
    let s := s.dbg.snapshot.zipIdx.foldl (fun s p => setTile s g (base + p.2) { tileOf s g (base + p.2) with elems := p.1, bad := [] }) s
    let s := (xs.foldl (fun (acc : State × Nat) x => replayOne acc.1 g acc.2 x) (s, 0)).1
    let s := unitForget s (unitTid g 6)
    { s with dbg := { s.dbg with rplRunning := false, rplDone := true, rplEntries := BitVec.ofNat 32 xs.length } }
/-- R304: RPL_GO. -/
def execRplGo (s : State) : Host.Outcome State Fault Refusal := .next (replayGo s)

end Sys2Proof.Machine
end

