-- ==== Sys2Proof/Machine/Signature.lean ====
section
/-! DEFINITION. Machine/Signature.lean: ML-DSA-44 of FIPS 204, which R16 to R20, R97 and R98 name: key generation from a 32-byte seed, signing
and verification of a message with the empty context string. Polynomials of degree below 256 with coefficients modulo q are lists of
256 numbers below q. -/
namespace Sys2Proof.Machine

/-! ## Numbers and polynomials -/

/-- The modulus. -/
def dsaQ : Nat := 8380417
/-- A polynomial: its coefficients, lowest degree first. -/
abbrev Poly := List Nat
/-- The absolute value of a coefficient, taken between -q/2 and q/2. -/
def coefAbs (a : Nat) : Nat := if 2 * a ≤ dsaQ then a else dsaQ - a
/-- a - b. -/
def coefSub (a b : Nat) : Nat := (a + dsaQ - b) % dsaQ
/-- Two polynomials combined coefficient by coefficient. -/
def polyZip (f : Nat → Nat → Nat) (a b : Poly) : Poly := List.zipWith f a b
/-- The sum, the difference, and the product in the transformed domain. -/
def polyAdd (a b : Poly) : Poly := polyZip (fun x y => (x + y) % dsaQ) a b
def polySub (a b : Poly) : Poly := polyZip coefSub a b
def polyMul (a b : Poly) : Poly := polyZip (fun x y => x * y % dsaQ) a b
/-- a to a power modulo q, over n bits of the exponent. -/
def powModQ (n a e : Nat) : Nat :=
  match n with
  | 0 => 1
  | n + 1 => let h := powModQ n (a * a % dsaQ) (e / 2); if e % 2 = 1 then h * a % dsaQ else h
/-- The eight bits of a number in reverse order. -/
def rev8 (i : Nat) : Nat := ((List.range 8).map (fun b => i / 2 ^ b % 2 * 2 ^ (7 - b))).sum
/-- The value of a polynomial at a point. -/
def evalAt (p : Poly) (x : Nat) : Nat := p.foldr (fun c acc => (c + x * acc) % dsaQ) 0
/-- The 256 points of the transform: the odd powers of the root 1753, in bit-reversed order. -/
def transformPoints : List Nat := (List.range 256).map (fun i => powModQ 9 1753 (2 * rev8 i + 1))
/-- The number-theoretic transform: the values at the 256 points. -/
def transform (p : Poly) : Poly := transformPoints.map (evalAt p)
/-- Its inverse: coefficient j is the 256th part of the sum of value i times point i to the power -j; a point's powers have period 512. -/
def transformBack (v : Poly) : Poly :=
  -- the values in the order of their exponents 1, 3, 5 ... are those of a polynomial in the square of the root
  let ordered : Poly := (List.range 256).map (fun e => v.getD (rev8 e) 0)
  (List.range 256).map (fun j =>
    let back := powModQ 9 1753 (512 - j % 512)
    evalAt ordered (back * back % dsaQ) * back % dsaQ * powModQ 23 256 (dsaQ - 2) % dsaQ)

/-! ## Packing -/

/-- Numbers of n bits each, lowest bit first, in bytes. -/
def packBits (n : Nat) (l : List Nat) : List Byte := natBytes (l.length * n / 8) (l.foldr (fun v acc => v + 2 ^ n * acc) 0)
/-- The first k numbers of n bits in bytes. -/
def unpackBits (n k : Nat) (b : List Byte) : List Nat := (List.range k).map (fun i => leNat b / 2 ^ (n * i) % 2 ^ n)
/-- A coefficient that is at most `top` packs as `top` minus it. -/
def packFrom (n top : Nat) (p : Poly) : List Byte := packBits n (p.map (fun c => coefSub top c))
/-- And back. -/
def unpackFrom (n top : Nat) (b : List Byte) : Poly := (unpackBits n 256 b).map (fun v => coefSub top v)

/-! ## Sampling -/

/-- 256 coefficients uniform modulo q: three bytes a candidate, its top bit dropped, those below q taken. -/
def sampleUniform (seed : List Byte) : Poly :=
  let b := shake128 1344 seed
  let cs := ((List.range 448).map (fun i => leNat ((b.drop (3 * i)).take 3) % 2 ^ 23)).filter (fun c => decide (c < dsaQ))
  (cs ++ List.replicate 256 0).take 256
/-- 256 coefficients between -2 and 2: a half byte a candidate, those below 15 taken. -/
def sampleSmall (seed : List Byte) : Poly :=
  let cs := ((shake256 544 seed).flatMap (fun b => [b.toNat % 16, b.toNat / 16])).filter (fun c => decide (c < 15))
  ((cs.map (fun c => coefSub 2 (c % 5))) ++ List.replicate 256 0).take 256
/-- The places i from 256 - n on: each takes the value of a drawn place j that is not beyond it, which becomes 1 or -1 as the next sign
bit says. -/
def ballLoop (n : Nat) (signs : Nat) (draws : List Byte) (c : Poly) : Poly :=
  match n with
  | 0 => c
  | n + 1 =>
    let i := 255 - n
    let rest := draws.dropWhile (fun b => decide (i < b.toNat))
    match rest with
    | [] => c
    | b :: rest => ballLoop n (signs / 2) rest ((c.set i (c.getD b.toNat 0)).set b.toNat (if signs % 2 = 1 then dsaQ - 1 else 1))
/-- The challenge: 39 coefficients 1 or -1. -/
def sampleBall (seed : List Byte) : Poly :=
  let b := shake256 272 seed
  ballLoop 39 (leNat (b.take 8)) (b.drop 8) (List.replicate 256 0)

/-! ## Rounding -/

/-- The low 13 bits taken away, between -2^12 and 2^12: the high part and the low part. -/
def splitPower (r : Nat) : Nat × Nat :=
  let low := r % 8192
  if low ≤ 4096 then (r / 8192, low) else (r / 8192 + 1, dsaQ + low - 8192)
/-- Half the step of the high part. -/
def dsaGamma : Nat := 95232
/-- The nearest multiple of 190,464 taken away: its number (44 of them, cyclic), and the rest. -/
def splitHigh (r : Nat) : Nat × Nat :=
  let low := r % (2 * dsaGamma)
  let (h, l) := if low ≤ dsaGamma then (r / (2 * dsaGamma), low) else (r / (2 * dsaGamma) + 1, dsaQ + low - 2 * dsaGamma)
  if h = 44 then (0, coefSub l 1) else (h, l)
/-- The high part that a hint corrects. -/
def hintedHigh (hint : Bool) (r : Nat) : Nat :=
  let (h, l) := splitHigh r
  if !hint then h else if 0 < l && 2 * l ≤ dsaQ then (h + 1) % 44 else (h + 43) % 44

/-! ## Keys -/

/-- The 4 by 4 matrix of a public seed, in the transformed domain. -/
def dsaMatrix (rho : List Byte) : List (List Poly) :=
  (List.range 4).map (fun r => (List.range 4).map (fun c => sampleUniform (rho ++ natBytes 1 c ++ natBytes 1 r)))
/-- A row of polynomials times a column, in the transformed domain. -/
def dotRow (row col : List Poly) : Poly := (List.zipWith polyMul row col).foldl polyAdd (List.replicate 256 0)
/-- What a 32-byte seed gives: the public seed, the signing key, the secret vectors, and t = A s1 + s2. -/
structure DsaKey where
  rho : List Byte
  key : List Byte
  s1  : List Poly
  s2  : List Poly
  t   : List Poly
/-- Key generation. -/
def dsaKey (seed : List Byte) : DsaKey :=
  let b := shake256 128 (seed ++ natBytes 1 4 ++ natBytes 1 4)
  let small := fun (i : Nat) => sampleSmall ((b.drop 32).take 64 ++ natBytes 2 i)
  let s1 := (List.range 4).map small
  let s2 := (List.range 4).map (fun i => small (4 + i))
  let hat := s1.map transform
  { rho := b.take 32, key := b.drop 96, s1 := s1, s2 := s2
    t := List.zipWith (fun row e => polyAdd (transformBack (dotRow row hat)) e) (dsaMatrix (b.take 32)) s2 }
/-- The public key of a key: 1,312 bytes. -/
def DsaKey.bytes (k : DsaKey) : List Byte := k.rho ++ k.t.flatMap (fun p => packBits 10 (p.map (fun c => (splitPower c).1)))
/-- The public key of a 32-byte seed (R18): 1,312 bytes. [PRESUMED, unsafe: log 112] -/
def mldsaPublic (seed : List Byte) : List Byte := (dsaKey seed).bytes

/-! ## Signing -/

/-- The message representative: a hash of the key's hash and the message, which a zero byte (no pre-hash) and the empty context's length
precede. -/
def dsaMessage (pub msg : List Byte) : List Byte := shake256 64 (shake256 64 pub ++ [0, 0] ++ msg)
/-- The hash of the representative and the high parts: the challenge's 32 bytes. -/
def dsaChallenge (mu : List Byte) (high : List (List Nat)) : List Byte := shake256 32 (mu ++ high.flatMap (packBits 6))
/-- The hints packed: 80 places, then where each polynomial's places end. -/
def packHints (h : List (List Bool)) : List Byte :=
  let at_ := h.map (fun p => (p.zipIdx.filter (fun x => x.1)).map (fun x => x.2))
  let places := at_.flatten
  (places ++ List.replicate (80 - places.length) 0).map (fun n => BitVec.ofNat 8 n) ++
    (List.range 4).map (fun i => BitVec.ofNat 8 (at_.take (i + 1)).flatten.length)
/-- One attempt with a mask counter: the signature, unless it has to be rejected. -/
def dsaAttempt (k : DsaKey) (mat : List (List Poly)) (mu mask : List Byte) (count : Nat) : Option (List Byte) :=
  let y := (List.range 4).map (fun r => unpackFrom 18 131072 (shake256 576 (mask ++ natBytes 2 (count + r))))
  let w := mat.map (fun row => transformBack (dotRow row (y.map transform)))
  let ch := dsaChallenge mu (w.map (fun p => p.map (fun c => (splitHigh c).1)))
  let c := transform (sampleBall ch)
  let times := fun (v : List Poly) => v.map (fun p => transformBack (polyMul c (transform p)))
  let z := List.zipWith polyAdd y (times k.s1)
  let r := List.zipWith polySub w (times k.s2)
  let ct0 := times (k.t.map (fun p => p.map (fun v => (splitPower v).2)))
  let hints := List.zipWith (fun a b => polyZip (fun x y => if (splitHigh ((x + y) % dsaQ)).1 = (splitHigh x).1 then 0 else 1) a b) r ct0
  let beyond := fun (n : Nat) (v : List Poly) => v.any (fun p => p.any (fun x => decide (n ≤ coefAbs x)))
  if beyond (131072 - 78) z || beyond (dsaGamma - 78) (r.map (fun p => p.map (fun x => (splitHigh x).2))) || beyond dsaGamma ct0 ||
      decide (80 < (hints.map List.sum).sum) then none
  else some (ch ++ z.flatMap (packFrom 18 131072) ++ packHints (hints.map (fun p => p.map (fun x => x == 1))))
/-- Attempts until one is good; FIPS 204 lets an implementation give up after 814. -/
def dsaAttempts (n : Nat) (k : DsaKey) (mat : List (List Poly)) (mu mask : List Byte) (count : Nat) : List Byte :=
  match n with
  | 0 => []
  | n + 1 => match dsaAttempt k mat mu mask count with
    | some sig => sig
    | none => dsaAttempts n k mat mu mask (count + 4)
/-- The signature of a message with the key of a seed and 32 random bytes (R18, R19, R98): 2,420 bytes. [PRESUMED, unsafe: log 112] -/
def mldsaSign (seed random msg : List Byte) : List Byte :=
  let k := dsaKey seed
  let mu := dsaMessage k.bytes msg
  dsaAttempts 814 k (dsaMatrix k.rho) mu (shake256 64 (k.key ++ random ++ mu)) 0

/-! ## Verification -/

/-- Whether numbers rise strictly. -/
def risingOnly (l : List Nat) : Bool := (l.zip (l.drop 1)).all (fun p => decide (p.1 < p.2))
/-- The hints of 84 bytes, unless they are not in the one form that packing gives. -/
def unpackHints (b : List Byte) : Option (List (List Bool)) :=
  let ends := (b.drop 80).map (fun x => x.toNat)
  let starts := 0 :: ends
  let parts := (List.range 4).map (fun i => ((b.take (ends.getD i 0)).drop (starts.getD i 0)).map (fun x => x.toNat))
  if (List.range 4).all (fun i => decide (starts.getD i 0 ≤ ends.getD i 0) && decide (ends.getD i 0 ≤ 80)) && parts.all risingOnly &&
      ((b.take 80).drop (ends.getD 3 0)).all (fun x => x == 0) then
    some (parts.map (fun p => (List.range 256).map (fun j => p.contains j)))
  else none
/-- Whether a signature of a message verifies under a public key (R17, R18, R20, R97). [PRESUMED, unsafe: log 112] -/
def mldsaVerify (pub msg sig : List Byte) : Bool :=
  if pub.length != 1312 || sig.length != 2420 then false
  else
    let part := fun (i n : Nat) (b : List Byte) => (b.drop (i * n)).take n
    let z := (List.range 4).map (fun i => unpackFrom 18 131072 (part i 576 (sig.drop 32)))
    match unpackHints (sig.drop 2336) with
    | none => false
    | some hints =>
      let c := transform (sampleBall (sig.take 32))
      let high := (List.range 4).map (fun i =>
        let t := transform ((unpackBits 10 256 (part i 320 (pub.drop 32))).map (fun v => v * 8192 % dsaQ))
        let w := transformBack (polySub (dotRow ((dsaMatrix (pub.take 32)).getD i []) (z.map transform)) (polyMul c t))
        List.zipWith hintedHigh (hints.getD i []) w)
      z.all (fun p => p.all (fun x => decide (coefAbs x < 131072 - 78))) && dsaChallenge (dsaMessage pub msg) high == sig.take 32

end Sys2Proof.Machine
end

