-- ==== Sys2Proof/Machine/HostEv.lean ====
section
/-! DEFINITION. Machine/HostEv.lean: the host interface (R92, R94), contexts (R90, R91, R297), the states of a save and a restore
as events (R293, R295, R297), and Compline (R95 to R98). -/
namespace Sys2Proof.Machine

/-! ## The doorbell and the vectors (R92, R94) -/

/-- A write to DOORBELL of a context. -/
def doorbellWrite (s : State) (c : Nat) (v : Word) : State :=
  let x := s.ctx c
  let t := v.toNat % 0x100000000
  let gap := fun (a : BitVec 32) => (t + 0x100000000 - a.toNat) % 0x100000000
  let bad := bitsOf v 63 32 != 0 || decide (x.lqSize < gap x.lqHead) || decide (x.lqSize < gap x.doorbell)
  if !x.live then s
  else if v = x.doorbell.zeroExtend 64 then s
  else if bad then raiseVector (s.setCtx c { x with dberr := true }) c 0
  else s.setCtx c { x with doorbell := BitVec.ofNat 32 t }
/-- A store to HOST_IRQ of a context. -/
def hostIrqWrite (s : State) (c : Nat) (v : Word) : State := if 2 ≤ v.toNat && v.toNat ≤ 31 then raiseVector s c v.toNat else s
/-- R94: HOST_IRQ: context n, the word stored. -/
def execHostIrq (s : State) : Host.Outcome State Fault Refusal := .next (hostIrqWrite s s.ev.n s.ev.word)

/-! ## Creating and destroying contexts (R90, R91) -/

/-- The status of the last command of a context. -/
def ctxStatus (s : State) (c st : Nat) : State := s.setCtx c { s.ctx c with status := st }
/-- The contexts that are live. -/
def liveCtxs (s : State) : List Nat := (List.range 64).filter (fun c => (s.ctx c).live)
/-- Whether a context's area lies in HBM, apart from the areas of other live contexts, and holds the header (R90, R291). -/
def areaOk (s : State) (c : Nat) : Bool :=
  let x := s.ctx c
  0x10000 ≤ x.alen.toNat && areaBase x + x.alen.toNat ≤ 0xC000000000 &&
  (liveCtxs s).all (fun d => d == c || !overlap (areaBase x) x.alen.toNat (areaBase (s.ctx d)) (s.ctx d).alen.toNat)
/-- A free entry of the job table (R49). -/
def freeJob (s : State) : Option Nat := (List.range 64).find? (fun j => !bitOf (tget s.fabric.jobs j (0 : Word)) 63)
/-- The create command. [DESIGN CHOICE, unsafe: log 44] -/
def ctxCreate (s : State) (c : Nat) : State :=
  let x := s.ctx c
  if s.cpl.state != .idle then { s with cpl := { s.cpl with waiting := s.cpl.waiting ++ [(c, false)] } }
  else if x.live then ctxStatus s c 1
  else if !areaOk s c then ctxStatus s c 2
  else match freeJob s with
    | none => ctxStatus s c 3
    | some j =>
      let s := s.setCtx c {
        live := true, job := x.job, lqlog := x.lqlog, area := x.area, alen := x.alen, ptroot := x.ptroot, lqBase := x.lqBase, apbase := x.apbase }
      let s := { s with
        fabric := { s.fabric with jobs := tset s.fabric.jobs j (BitVec.ofNat 64 (2 ^ 63 + c * 2 ^ 16 + x.job.toNat)) }
        mem := memZero s.mem (areaBase x) 0x10000 }
      headerPut s c 0 1
/-- R90: CTX_CREATE: context n. -/
def execCtxCreate (s : State) : Host.Outcome State Fault Refusal := .next (ctxCreate s s.ev.n)

/-- The barriers of a context freed, their instance numbers advanced. -/
def freeBarriers (c : Nat) (t : Tab Barrier) : Tab Barrier :=
  tmap t (fun _ (b : Barrier) => if b.holder == some c then { holder := none, inst := b.inst + 1 } else b)
/-- Far accesses of a context that is destroyed: loads are given up, what has been sent goes on without an owner. -/
def orphanFars (s : State) (c : Nat) : State :=
  let gone := s.far.filter (fun f => f.ctx == c && f.kind == .load)
  { s with
    far := (s.far.filter (fun f => !(f.ctx == c && f.kind == .load))).map (fun (f : Far) =>
      if f.ctx == c then { f with dest := .none, slot := none, taint := 0, own := false } else f)
    fabric := { s.fabric with requests := s.fabric.requests.map (fun (r : Request) =>
      match r.access with
      | some id => if gone.any (fun f => f.id == id) then { r with access := none } else r
      | none => r) } }
/-- A live context destroyed, in the order of R91. [DEDUCED, unsafe: log 45] -/
def ctxDestroyNow (s : State) (c : Nat) : State :=
  let ts := ctxTids s c
  let s := ts.foldl detachFollowers s
  let s := match s.dbg.stop with | some st => if ts.contains st.tid then releaseStop s else s | none => s
  let saved := (s.ctx c).image.isSome
  let s := if saved then s else { s with threads := tmap s.threads (fun k (t : Thread) => if ts.contains k then { instret := t.instret } else t) }
  let s := { orphanFars s c with coll := s.coll.filter (fun r => r.ctx != c), wakes := if saved then s.wakes else s.wakes.filter (fun t => !ts.contains t) }
  let s := (s.launches.filter (fun l => l.ctx == c)).foldl releaseLaunch s
  let v : Inv := { all := true, ctx := c, vpage := 0, walks := 0, mark := 0 }
  let s := dropEntries { s with
    fabric := { s.fabric with jobs := tmap s.fabric.jobs (fun _ (e : Word) => if bitOf e 63 && bitsOf e 21 16 == c then e &&& ~~~(BitVec.ofNat 64 (2 ^ 63)) else e) }
    devBarriers := freeBarriers c s.devBarriers
    clusters := tmap s.clusters (fun _ (k : Cluster) => { k with barriers := freeBarriers c k.barriers })
    xlt := { s.xlt with walks := s.xlt.walks.filter (fun w => w.ctx != c), failed := s.xlt.failed.filter (fun f => f.2.1 != c)
                        invs := s.xlt.invs.map (fun (i : Inv) => { i with walks := min i.walks (s.xlt.walks.filter (fun w => w.ctx != c)).length }) } } v
  let x := s.ctx c
  s.setCtx c { job := x.job, lqlog := x.lqlog, area := x.area, alen := x.alen, ptroot := x.ptroot, lqBase := x.lqBase, apbase := x.apbase }

/-! ## Compline (R95 to R98) -/

/-- The commands that waited for the end of a run are carried out. -/
def cplRelease (s : State) : State :=
  let w := s.cpl.waiting
  let s := { s with cpl := { s.cpl with waiting := [] } }
  w.foldl (fun s p =>
    if p.2 then (if (s.ctx p.1).live then ctxDestroyNow s p.1 else ctxStatus s p.1 4) else ctxCreate s p.1) s
/-- The run ends: Idle, vector 2 of function 0. -/
def cplIdle (s : State) : State := cplRelease (raiseVector { s with cpl := { s.cpl with state := .idle, held := [] } } 0 2)
/-- Resume: the contexts that the run holds are restored from their areas; the run ends once none is left Restoring. -/
def cplResume (s : State) : State :=
  let s := s.cpl.held.foldl (fun s c => if (s.ctx c).save == .saved then ctxRestored s c else s) { s with cpl := { s.cpl with state := .resume } }
  if s.cpl.held.any (fun c => (s.ctx c).save == .restoring) then s else cplIdle s
/-- A run that has ended with a status resumes, or holds. -/
def cplEnd (s : State) (st : Nat) : State :=
  let s := { s with cpl := { s.cpl with status := st } }
  if s.cpl.hold then { s with cpl := { s.cpl with state := .hold } } else cplResume s

/-- GO. -/
def cplGo (s : State) : State :=
  if s.cpl.state != .idle || (liveCtxs s).any (fun c => (s.ctx c).save == .saveFailed) then { s with cpl := { s.cpl with status := 7 } }
  else
    let run := (liveCtxs s).filter (fun c => (s.ctx c).save == .running)
    run.foldl beginSave { s with cpl := { s.cpl with state := .quiesce, held := run } }
/-- R96: CPL_GO. -/
def execCplGo (s : State) : Host.Outcome State Fault Refusal := .next (cplGo s)

/-- The first bytes of the header (R98). -/
def cplHeader (s : State) : List Byte := fitBytes 0x30 (natBytes 8 1 ++ natBytes 8 (772 * 2 ^ 30) ++ s.pkg.serial)
/-- R96: CPL_QUIESCE_COMPLETE: a context that a restore has meanwhile set running is saved too. -/
def execCplQuiesceComplete (s : State) : Host.Outcome State Fault Refusal :=
  .next (
    if s.cpl.state != .quiesce then s
    else
      let run := (liveCtxs s).filter (fun c => (s.ctx c).save == .running)
      if run.isEmpty then
        (if (liveCtxs s).all (fun c => (s.ctx c).save == .saved) then
          { s with cpl := { s.cpl with state := .copy, header := cplHeader s, body := s.mem, pos := 0 } }
        else s)
      else run.foldl beginSave { s with cpl := { s.cpl with held := s.cpl.held ++ run } })

/-- Where byte o of an image's body lies: stacks H0 to H7, then for each die its SRAM, its scratchpads and its TCMs. The body is taken as
the memories stand when Copy is entered. [DESIGN CHOICE, unsafe: log 59] -/
def bodyKey (s : State) (o : Nat) : Nat :=
  if o < 0xC000000000 then o
  else
    let d := (o - 0xC000000000) / 0x40000000; let x := (o - 0xC000000000) % 0x40000000
    if x < 0x28000000 then sramBase + d * 0x40000000 + x
    else if x < 0x38000000 then spadKey s (64 * d + (x - 0x28000000) / 0x400000) (x % 0x400000)
    else tcmKey (1024 * d) (x - 0x38000000)
/-- n bytes of the body from offset o on, within one memory. -/
def bodyPart (s : State) (o n : Nat) : List Byte := memGets s.cpl.body (bodyKey s o) n
/-- The bytes of the body, piece by piece of 4 KiB. -/
def bodyBytes (s : State) : List Byte := (List.range (772 * 2 ^ 18)).flatMap (fun i => bodyPart s (4096 * i) 4096)
/-- The header sealed (R98); the signature uses random bytes. -/
def sealHeader (s : State) (rnd : List Byte) : List Byte :=
  let h := fitBytes 0x570 (fitBytes 0x30 s.cpl.header ++ sha3 (bodyBytes s) ++ mldsaPublic s.pkg.seed)
  fitBytes 0x1000 (h ++ mldsaSign s.pkg.seed rnd h) ++ fitBytes 0x1000 s.pkg.flash.certificate
/-- The buddy that CPL_DEST names (R48). [DESIGN CHOICE, unsafe: log 59] -/
def cplBuddy (s : State) : Nat := if deviceField s.cpl.dest = 0 then ownId s else deviceField s.cpl.dest - 1
/-- One unit of the image on its way to the buddy: a peer Write under CPJOB (R96). -/
def cplSend (s : State) (o : Nat) (bs : List Byte) : State :=
  let (s, id) := freshId s
  { s with far := s.far ++ [{
      id := id, tid := cplTid, ctx := 0, kernel := true, wid := 0, pc := 0, kind := .store, addr := s.cpl.dest + BitVec.ofNat 64 o,
      pieces := [{ key := addr48 s.cpl.dest + o, pos := 0, len := bs.length }], data := bs, dest := .none, slot := none, taint := 0,
      dev := cplBuddy s + 1, own := true, job := some s.cpl.cpjob }] }
/-- How a copy to the buddy stands: a write failed with a status, writes are still on their way, or none is. -/
def cplFailed (s : State) : Option Nat := (s.far.find? (fun f => f.tid == cplTid && f.fail != 0)).map (fun f => f.fail)
/-- The copy's accesses forgotten. -/
def cplForget (s : State) : State := { s with far := s.far.filter (fun f => f.tid != cplTid) }
/-- Sealing starts. -/
def cplSeal (s : State) : State :=
  let (s, rnd) := freshBytes s
  { s with cpl := { s.cpl with state := .sealing, header := sealHeader s rnd, pos := 0 } }
/-- A copy to the buddy goes on: the header's two units, then the body's, then, once sealed, the header again; `total` units in all, each
acknowledged before the state ends. A write that fails ends the run: status 5 where the buddy did not answer, else 4.
[DESIGN CHOICE, unsafe: log 59] -/
def cplStep (s : State) (total : Nat) (next : State → State) : State :=
  match cplFailed s with
  | some k => cplEnd (cplForget s) (if k = 0x30 then 5 else 4)
  | none =>
    let s := { s with far := s.far.filter (fun f => !(f.tid == cplTid && f.performed)) }
    let n := s.cpl.pos
    if n < total then
      if peerLimitOf s none s.cpl.cpjob (cplBuddy s) (addr48 s.cpl.dest + 4096 * n) true then s
      else cplSend { s with cpl := { s.cpl with pos := n + 1 } } (4096 * n)
        (if n < 2 then ((fitBytes 0x2000 s.cpl.header).drop (4096 * n)).take 4096 else bodyPart s (4096 * (n - 2)) 4096)
    else if s.far.any (fun f => f.tid == cplTid) then s
    else next s
/-- R96: CPL_COPY_COMPLETE: all has been copied, and the header is sealed. To a buddy the device's own event sends the next unit. -/
def execCplCopyComplete (s : State) : Host.Outcome State Fault Refusal :=
  .next (
    if s.cpl.state != .copy then s
    else if s.cpl.tier then cplStep s (2 + 772 * 2 ^ 18) cplSeal
    else if s.ev.own then s
    else cplSeal s)
/-- R96: CPL_COPY_ERROR: a write error, or with the flag an unreachable buddy. -/
def execCplCopyError (s : State) : Host.Outcome State Fault Refusal :=
  .next (if s.cpl.state != .copy then s else cplEnd (cplForget s) (if s.ev.flag then 5 else 4))
/-- R96: CPL_BOUND_EXCEEDED. -/
def execCplBoundExceeded (s : State) : Host.Outcome State Fault Refusal :=
  .next (if s.cpl.state != .copy then s else cplEnd (cplForget s) 6)

/-- What the device keeps of the contexts in an image. [DESIGN CHOICE, unsafe: log 60] -/
def keepCtxs (s : State) : CplKept := {
  header := s.cpl.header
  ctxs := s.ctxs.filter (fun p => p.2.live), launches := s.launches
  deques := s.cores.map (fun p => (p.1, p.2.deques)), waiters := s.cores.map (fun p => (p.1, p.2.waiters))
  streams := s.cores.map (fun p => (p.1, p.2.rxSaved)), barriers := s.clusters.map (fun p => (p.1, p.2.barriers)), devBarriers := s.devBarriers }
/-- The run has written its image: it is put out to the host's memory, or stands at the buddy. -/
def cplDone (s : State) : State :=
  cplEnd { s with
    outputs := if s.cpl.tier then s.outputs else s.outputs ++ [.image s.cpl.dest s.cpl.header s.cpl.body]
    cpl := { s.cpl with images := s.cpl.images + 1, kept := s.cpl.kept ++ [keepCtxs s] } } 0
/-- R96: CPL_SEAL_COMPLETE: the image stands at its destination; the contexts resume, or the run holds. -/
def execCplSealComplete (s : State) : Host.Outcome State Fault Refusal :=
  .next (
    if s.cpl.state != .sealing then s
    else if s.cpl.tier then cplStep s 2 cplDone
    else if s.ev.own then s
    else cplDone s)

/-- RESTORE, from Idle or from Hold. -/
def cplRestore (s : State) : State :=
  let set := fun (st : CplState) (n : Nat) => { s with cpl := { s.cpl with state := st, status := n } }
  match s.cpl.state with
  | .idle => if (liveCtxs s).isEmpty then { s with cpl := { s.cpl with state := .restore } } else set .idle 1
  | .hold => if (liveCtxs s).isEmpty then { s with cpl := { s.cpl with state := .restore } } else set .hold 1
  | _ => s
/-- R97: CPL_RESTORE. -/
def execCplRestore (s : State) : Host.Outcome State Fault Refusal := .next (cplRestore s)

/-- Whether the certificate and the signature of an image header verify (R97 steps 1 and 2). -/
def headerOk (h : List Byte) : Bool :=
  let at_ := fun (o n : Nat) => (h.drop o).take n
  leNat (at_ 0 8) == 1 && mldsaVerify Config.certKey (at_ 0x10 32 ++ at_ 0x50 1312) (at_ 0x1000 2420) &&
  mldsaVerify (at_ 0x50 1312) (at_ 0 0x570) (at_ 0x570 2420)
/-- The memories refilled from the bytes of a body; what lies beyond the end of the list is zero. -/
def refill (s : State) (body : List Byte) : State :=
  let put := fun (m : List Host.Cell) (k off n : Nat) => memPuts (memZero m k n) k ((body.drop off).take n)
  let m := (List.range 8).foldl (fun m h => put m (h * 0x1800000000) (h * 0x1800000000) 0x1800000000) s.mem
  let m := (List.range 4).foldl (fun m d =>
    let o := 0xC000000000 + d * 0x40000000
    let m := put m (sramBase + d * 0x40000000) o 0x28000000
    let m := (List.range 64).foldl (fun m c => put m (spadKey s (64 * d + c) 0) (o + 0x28000000 + c * 0x400000) 0x400000) m
    put m (tcmKey (1024 * d) 0) (o + 0x38000000) 0x8000000) m
  { s with mem := m, poison := [] }
/-- A job-table entry for a context in the first free place (R49). -/
def addJob (t : Tab Word) (c : Nat) (job : BitVec 16) : Tab Word :=
  match (List.range 64).find? (fun j => !bitOf (tget t j (0 : Word)) 63) with
  | some j => tset t j (BitVec.ofNat 64 (2 ^ 63 + c * 2 ^ 16 + job.toNat))
  | none => t
/-- The entries of a table put into another. -/
def tmerge {α : Type} (t u : Tab α) : Tab α := List.foldl (fun (t : Tab α) (p : Nat × α) => tset t p.1 p.2) t u
/-- The contexts of an image created again in the Saved state under their numbers; no later launch takes a number of theirs. What is known
of them comes from this device where it wrote the image, else with the event. [DESIGN CHOICE, unsafe: log 60] -/
def recreate (s : State) (k : CplKept) : State :=
  let k := { k with ctxs := tmap k.ctxs (fun _ (x : Ctx) => { x with live := true, save := .saved, image := some (x.image.getD {}) }) }
  let held := List.map (fun (p : Nat × Ctx) => p.1) k.ctxs
  let seqs := k.launches.map (fun l => l.seq)
  let s := { s with
    ctxs := tmerge s.ctxs k.ctxs, launches := s.launches ++ k.launches, nextSeq := seqs.foldl (fun n x => max n (x + 1)) s.nextSeq, devBarriers := tmerge s.devBarriers k.devBarriers
    fabric := { s.fabric with jobs := List.foldl (fun (t : Tab Word) (p : Nat × Ctx) => addJob t p.1 p.2.job) s.fabric.jobs k.ctxs }
    cpl := { s.cpl with held := held } }
  let s := List.foldl (fun (s : State) (p : Nat × Tab (List Record)) =>
    s.setCore p.1 { s.core p.1 with deques := tmerge (s.core p.1).deques (List.filter (fun (d : Nat × List Record) => seqs.contains d.1) p.2) }) s k.deques
  let s := List.foldl (fun (s : State) (p : Nat × List Waiter) =>
    s.setCore p.1 { s.core p.1 with waiters := (s.core p.1).waiters ++ p.2 }) s k.waiters
  let s := List.foldl (fun (s : State) (p : Nat × Tab RxStream) =>
    s.setCore p.1 { s.core p.1 with rxSaved := tmerge (s.core p.1).rxSaved p.2 }) s k.streams
  List.foldl (fun (s : State) (p : Nat × Tab Barrier) =>
    s.setCluster p.1 { s.cluster p.1 with barriers := tmerge (s.cluster p.1).barriers p.2 }) s k.barriers
/-- R97: CPL_RESTORE_COMPLETE: the bytes are the image, header first; with the flag its reading has failed (k: 0 before the body, else
within it). What the memories hold after a failure within the body is not defined: the event supplies it, in `bytes` or, after a wrong
hash, in `image`. [DESIGN CHOICE, safe: log 122] -/
def execCplRestoreComplete (s : State) : Host.Outcome State Fault Refusal :=
  .next (
    if s.cpl.state != .restore then s
    else
      let back := fun (s : State) (st : Nat) => cplIdle { s with cpl := { s.cpl with status := st } }
      let h := fitBytes 0x2000 s.ev.bytes
      let body := s.ev.bytes.drop 0x2000
      if s.ev.flag && s.ev.k == 0 then back s 9
      else if !headerOk h then back s 8
      else
        let s' := refill s body
        if s.ev.flag then back s' 9
        else if sha3 (bodyBytes { s' with cpl := { s'.cpl with body := s'.mem } }) != (h.drop 0x30).take 32 then back (refill s s.ev.image.bytes) 8
        else
          let s' := recreate s' ((s'.cpl.kept.find? (fun k => k.header == h)).getD s.ev.kept)
          { s' with cpl := { s'.cpl with state := .hold, status := 0 } })

/-- HOLD written 0 in Hold resumes. -/
def cplHoldRelease (s : State) : State :=
  let s := { s with cpl := { s.cpl with hold := false } }
  if s.cpl.state == .hold then cplResume s else s
/-- R96: CPL_HOLD_RELEASE. -/
def execCplHoldRelease (s : State) : Host.Outcome State Fault Refusal := .next (cplHoldRelease s)

/-! ## Destroy, retry and reserved commands (R91, R297) -/

/-- The destroy command: during a run it waits, but for Hold; the destroy of the last live context in Hold ends the run. -/
def ctxDestroy (s : State) (c : Nat) : State :=
  if s.cpl.state != .idle && s.cpl.state != .hold then { s with cpl := { s.cpl with waiting := s.cpl.waiting ++ [(c, true)] } }
  else if !(s.ctx c).live then ctxStatus s c 4
  else
    let s := ctxStatus (ctxDestroyNow s c) c 0
    if s.cpl.state == .hold && (liveCtxs s).isEmpty then cplIdle s else s
/-- R91: CTX_DESTROY: context n. -/
def execCtxDestroy (s : State) : Host.Outcome State Fault Refusal := .next (ctxDestroy s s.ev.n)
/-- Command 3: a failed save starts again, into the area now named. -/
def ctxRetry (s : State) (c : Nat) : State :=
  let x := s.ctx c
  if x.save != .saveFailed then ctxStatus s c 5
  else
    let s := s.setCtx c { x with save := .writing, saveFailed := false, status := 0 }
    (s.launches.filter (fun l => l.ctx == c)).foldl (fun s l => directoryPut s c l.dirSlot l.imageOff l.imageLen) (headerPut s c 0 1)
/-- R297: CTX_RETRY_SAVE: context n. -/
def execCtxRetrySave (s : State) : Host.Outcome State Fault Refusal := .next (ctxRetry s s.ev.n)
/-- R91: CTX_CMD_RESERVED: context n. -/
def execCtxCmdReserved (s : State) : Host.Outcome State Fault Refusal := .next (ctxStatus s s.ev.n 6)
/-- A command written to CTX_CTL. [DEDUCED, unsafe: log 40] -/
def ctxCommand (s : State) (c cmd : Nat) : State :=
  match cmd with
  | 1 => ctxCreate s c
  | 2 => ctxDestroy s c
  | 3 => ctxRetry s c
  | _ => ctxStatus s c 6

/-! ## Saves and restores (R293, R295, R297) -/

/-- R293: CTX_STOPPED: context n; the flag says that 20 µs have passed. -/
def execCtxStopped (s : State) : Host.Outcome State Fault Refusal :=
  .next (if (s.ctx s.ev.n).save == .stopping && ctxAtRest s s.ev.n s.ev.flag then ctxStopped s s.ev.n else s)
/-- R293: CTX_SAVE_WRITTEN: context n. -/
def execCtxSaveWritten (s : State) : Host.Outcome State Fault Refusal :=
  .next (if (s.ctx s.ev.n).save == .writing && (saveError s s.ev.n).isNone then ctxWritten s s.ev.n else s)
/-- R297: CTX_SAVE_FAIL: context n. -/
def execCtxSaveFail (s : State) : Host.Outcome State Fault Refusal :=
  .next (if (s.ctx s.ev.n).save == .writing then
      match saveError s s.ev.n with
      | some off => ctxFailed s s.ev.n off
      | none => s
    else s)
/-- R293: CTX_RESTORE_START: context n. -/
def execCtxRestoreStart (s : State) : Host.Outcome State Fault Refusal :=
  .next (
    let x := s.ctx s.ev.n
    if x.save == .saved && x.restoreWanted && s.cpl.state == .idle && restoreFree s s.ev.n then s.setCtx s.ev.n { x with save := .restoring } else s)
/-- R293: CTX_RESTORE_DONE: context n. -/
def execCtxRestoreDone (s : State) : Host.Outcome State Fault Refusal :=
  .next (if (s.ctx s.ev.n).save == .restoring then
      let t := ctxRestored s s.ev.n
      if t.cpl.state == .resume && !t.cpl.held.any (fun c => (t.ctx c).save == .restoring) then cplIdle t else t
    else s)
/-- R295: QUEUE_WRITEBACK: queue k of core n, once it and its engine hold no entry of any context. -/
def execQueueWriteback (s : State) : Host.Outcome State Fault Refusal :=
  .next (
    let u := queueOf s s.ev.n s.ev.k
    if u.writeback.isEmpty || u.running.isSome || u.paused.isSome || !u.queued.isEmpty || unitBusy s (unitTid s.ev.n s.ev.k) then s
    else installEntries s s.ev.n s.ev.k { u with writeback := [] } u.writeback)

end Sys2Proof.Machine
end

