-- ==== Sys2Proof/Machine/Regs.lean ====
section
/-! DEFINITION. Machine/Regs.lean: the register window (R42): what a read of each register of R42 to R45, R71, R89 to R95, R161, R171,
R287, R299 to R304 and R365 gives and what a write of it does. An offset is counted from 0xFFF2_0000_0000. A write that is
an operation of its own (a command, a doorbell, a gate, an invalidation) calls the operation of its event. -/
namespace Sys2Proof.Machine

/-- Bits [hi:lo] of a word replaced by those of another. -/
def withField (old new : Word) (hi lo : Nat) : Word :=
  let m := BitVec.ofNat 64 ((2 ^ (hi + 1 - lo) - 1) * 2 ^ lo)
  (old &&& ~~~m) ||| (new &&& m)

/-! ## Link ports and the grid (R42 to R45) -/

/-- A read of a port register. -/
def portRead (v : Port) (now p o : Nat) : Word :=
  match o with
  | 0x00 => BitVec.ofNat 64 (v.darklim.toNat * 2 ^ 16 + bitAt v.wakeen 3 + bitAt v.idlepark 2 + bitAt v.en 0)
  | 0x08 => v.stat
  | 0x10 => if isLocalPort p then 0 else BitVec.ofNat 64 (v.keep.toNat * 2 ^ 48 + v.wakedepth.toNat * 2 ^ 40 + v.idle.toNat)
  | 0x18 => v.note
  | 0x20 => match v.peer with
    | some (d, q, n) => BitVec.ofNat 64 (n.toNat * 2 ^ 32 + q.toNat * 2 ^ 16 + d.toNat)
    | none => 0
  | o => if 0x40 ≤ o && o < 0xC0 then (v.counters now).getD ((o - 0x40) / 8) 0 else 0
/-- A write of a port register: LNK_CTL sets its fields, then EN acts, then the command. [DEDUCED, unsafe: log 69] -/
def portWrite (s : State) (p o : Nat) (x : Word) : State :=
  let v := s.port p
  match o with
  | 0x00 =>
    let s := s.setPort p { v with darklim := fieldOf 16 x 16, wakeen := bitOf x 3, idlepark := bitOf x 2 }
    portCommand (setEnable s p (bitOf x 0)) p (bitsOf x 7 4)
  | 0x10 => if isLocalPort p then s else s.setPort p { v with keep := fieldOf 16 x 48, wakedepth := fieldOf 8 x 40, idle := fieldOf 32 x 0 }
  | 0x18 => s.setPort p { v with note := x }
  | _ => s

/-- A read of the link block, offset from 0xFFF2_0010_0000. -/
def linkRead (s : State) (o : Nat) : Word :=
  match o with
  | 0x00 => s.grid.base
  | 0x08 => s.grid.int.zeroExtend 64
  | 0x10 => s.grid.seq
  | o => if 0x1000 ≤ o && isPort ((o - 0x1000) / 0x100) then portRead (s.port ((o - 0x1000) / 0x100)) s.steps ((o - 0x1000) / 0x100) (o % 0x100) else 0
/-- A write to the link block. -/
def linkWrite (s : State) (o : Nat) (x : Word) : State :=
  match o with
  | 0x00 => { s with grid := { s.grid with base := lowClear x 6 } }
  | 0x08 => { s with grid := { s.grid with int := fieldOf 32 x 0 } }
  | o => if 0x1000 ≤ o && isPort ((o - 0x1000) / 0x100) then portWrite s ((o - 0x1000) / 0x100) (o % 0x100) x else s

/-! ## The fabric (R71) -/

/-- A read of the fabric block, offset from 0xFFF2_0020_0000. -/
def fabricRead (s : State) (o : Nat) : Word :=
  let f := s.fabric
  match o with
  | 0x00 => f.id.zeroExtend 64
  | 0x08 => BitVec.ofNat 64 (f.adthr.toNat * 2 ^ 32 + f.dltime.toNat * 2 ^ 16 + f.peertmo.toNat * 2 ^ 8 + bitAt f.adapt 2 + bitAt f.cur 0)
  | 0x10 => f.drainPort.zeroExtend 64
  | 0x18 => BitVec.ofNat 64 f.dstat.toNat
  | 0x20 => BitVec.ofNat 64 (f.dstat.toNat / 2 ^ 64)
  | 0x28 => f.note
  | 0x40 => f.geninj.toList.getD 0 0
  | 0x48 => f.geninj.toList.getD 1 0
  | 0x50 => f.genej.toList.getD 0 0
  | 0x58 => f.genej.toList.getD 1 0
  | 0x60 => f.escmoves
  | 0x68 => f.noroute
  | 0x70 => f.hopdrop
  | 0x78 => f.ordretry
  | 0x80 => f.nonmin
  | o =>
    if 0x10000 ≤ o && o < 0x18000 then (if o % 16 = 0 then (groupEntry s false ((o - 0x10000) / 16)).1 else (groupEntry s false ((o - 0x10000) / 16)).2)
    else if 0x18000 ≤ o && o < 0x18200 then memberEntry s false ((o - 0x18000) / 8)
    else if 0x20000 ≤ o && o < 0x20200 then tget f.jobs ((o - 0x20000) / 8) 0
    else if 0x30000 ≤ o && o < 0x38000 then
      BitVec.ofNat 64 ((List.range 4).foldl (fun n i => n + (tget f.mcast ((o - 0x30000) / 2 + i) 0).toNat * 2 ^ (16 * i)) 0)
    else 0
/-- A write to the fabric block. -/
def fabricWrite (s : State) (o : Nat) (x : Word) : State :=
  let f := s.fabric
  let set := fun (f : Fabric) => { s with fabric := f }
  match o with
  | 0x08 => set { f with adthr := fieldOf 8 x 32, dltime := fieldOf 16 x 16, peertmo := fieldOf 8 x 8, adapt := bitOf x 2, cur := bitOf x 0 }
  | 0x10 =>
    let s := set { f with drainPort := fieldOf 7 x 0 }
    if bitOf x 8 then drainPort s (bitsOf x 6 0) else s
  | 0x28 => set { f with note := x }
  | o =>
    if 0x10000 ≤ o && o < 0x18000 then
      let k := (o - 0x10000) / 16
      let e := groupEntry s false k
      set { f with groups := tset f.groups k (if o % 16 = 0 then (x &&& BitVec.ofNat 64 (2 ^ 63 + 0x7FFFFFFFFFFFFF), e.2) else (e.1, x &&& 0xFFFFFFFF)) }
    else if 0x18000 ≤ o && o < 0x18200 then
      set { f with members := tset f.members ((o - 0x18000) / 8) (x &&& BitVec.ofNat 64 (2 ^ 63 + 0x7FFFFFFFFF)) }
    else if 0x20000 ≤ o && o < 0x20200 then set { f with jobs := tset f.jobs ((o - 0x20000) / 8) (x &&& BitVec.ofNat 64 (2 ^ 63 + 0x3FFFFF)) }
    else if 0x30000 ≤ o && o < 0x38000 then
      set { f with mcast := (List.range 4).foldl (fun (t : Tab (BitVec 16)) i => tset t ((o - 0x30000) / 2 + i) (fieldOf 16 x (16 * i))) f.mcast }
    else s

/-! ## The host block (R89, R95, R287, R365) -/

/-- The code of a Compline state (R89). -/
def CplState.code : CplState → Nat
  | .idle => 0
  | .quiesce => 1
  | .copy => 2
  | .sealing => 3
  | .hold => 4
  | .resume => 5
  | .restore => 6
/-- A read of a context's block. -/
def ctxRegRead (x : Ctx) (o : Nat) : Word :=
  match o with
  | 0x00 => BitVec.ofNat 64 (x.job.toNat * 2 ^ 25 + x.lqlog.toNat * 2 ^ 20)
  | 0x08 => BitVec.ofNat 64 (bitAt x.live 0 + bitAt x.dberr 1 + bitAt x.saveFailed 2 + x.status % 256 * 256)
  | 0x10 => x.area
  | 0x18 => x.alen
  | 0x20 => x.ptroot
  | 0x28 => x.lqBase
  | 0x30 => x.lqHead.zeroExtend 64
  | 0x38 => if x.live then x.doorbell.zeroExtend 64 else 0
  | 0x40 => x.apbase
  | 0x50 => x.frBase
  | 0x58 => x.frCtl
  | 0x60 => x.frProd.zeroExtend 64
  | 0x68 => x.frCons
  | 0x70 => x.frLost
  | 0x78 => x.crTable
  | _ => 0
/-- A write to a context's block: CTX_CTL sets JOB and LQLOG, then its command acts. -/
def ctxRegWrite (s : State) (c o : Nat) (v : Word) : State :=
  let x := s.ctx c
  match o with
  | 0x00 => ctxCommand (s.setCtx c { x with job := fieldOf 16 v 25, lqlog := fieldOf 5 v 20 }) c (bitsOf v 3 0)
  | 0x10 => s.setCtx c { x with area := v &&& 0xFFFFFFFF0000 }
  | 0x18 => s.setCtx c { x with alen := v }
  | 0x20 => s.setCtx c { x with ptroot := v &&& 0x0000FFFFFFE00001 }
  | 0x28 => s.setCtx c { x with lqBase := lowClear v 8 }
  | 0x38 => doorbellWrite s c v
  | 0x40 => s.setCtx c { x with apbase := lowClear v 30 }
  | 0x48 => hostIrqWrite s c v
  | 0x50 => s.setCtx c { x with frBase := lowClear v 5 }
  | 0x58 => s.setCtx c { x with frCtl := v &&& 31 }
  | 0x68 => s.setCtx c { x with frCons := v }
  | 0x78 => s.setCtx c { x with crTable := lowClear v 5 }
  | _ => s
/-- A read of the host block, offset from 0xFFF2_0030_0000. -/
def hostRead (s : State) (o : Nat) : Word :=
  let c := s.cpl
  match o with
  | 0x00 => BitVec.ofNat 64 (c.cpjob.toNat * 2 ^ 16 + bitAt c.hold 3 + bitAt c.tier 2)
  | 0x08 => BitVec.ofNat 64 (c.images.toNat * 2 ^ 32 + c.status % 256 * 256 + c.state.code)
  | 0x10 => c.dest
  | 0x18 => BitVec.ofNat 64 (772 * 2 ^ 30 + 0x2000)
  | o => if 0x10000 ≤ o && o < 0x14000 then ctxRegRead (s.ctx ((o - 0x10000) / 0x100)) (o % 0x100) else 0
/-- A write to CPL_CTL: its fields, then HOLD, GO and RESTORE act (R96). [DEDUCED, unsafe: log 61] -/
def cplWrite (s : State) (x : Word) : State :=
  let s := { s with cpl := { s.cpl with cpjob := fieldOf 16 x 16, tier := bitOf x 2, hold := bitOf x 3 } }
  let s := if !bitOf x 3 && s.cpl.state == .hold then cplHoldRelease s else s
  let s := if bitOf x 0 then cplGo s else s
  if bitOf x 1 then cplRestore s else s
/-- A write to the host block. -/
def hostWrite (s : State) (o : Nat) (x : Word) : State :=
  match o with
  | 0x00 => cplWrite s x
  | 0x10 => { s with cpl := { s.cpl with dest := x } }
  | o => if 0x10000 ≤ o && o < 0x14000 then ctxRegWrite s ((o - 0x10000) / 0x100) (o % 0x100) x else s

/-! ## Memory registers (R171) -/

/-- A read of a cluster's block. -/
def clusterRead (k : Cluster) (o : Nat) : Word :=
  match o with
  | 0x00 =>
    let m := match k.pend with | some m => m | none => (k.m1, k.m2)
    BitVec.ofNat 64 (bitAt k.pend.isSome 32 + m.2.toNat * 2 ^ 8 + m.1.toNat)
  | 0x08 => k.gate
  | 0x10 => k.wake
  | 0x18 => k.xmiss
  | 0x20 => k.xmerge
  | 0x28 => k.full
  | o => if 0x200 ≤ o then tget k.confl ((o - 0x200) / 8) 0 else 0
/-- A read of a die's block. -/
def dieRead (d : Die) (o : Nat) : Word :=
  match o with
  | 0x00 => d.gate.zeroExtend 64
  | 0x08 => d.wake.zeroExtend 64
  | 0x10 => d.walks
  | 0x18 => d.wmerge
  | 0x20 => d.hbmce
  | 0x28 => d.hbmue
  | _ => 0

/-! ## The debug block (R300 to R304) -/

/-- The thread set that DBG_VIEW names. -/
def viewTid (s : State) : Nat := bitsOf s.dbg.view 11 0 * 4 + bitsOf s.dbg.view 13 12
/-- A read of the debug block, offset from 0xFFF2_0080_0000. -/
def debugRead (s : State) (o : Nat) : Word :=
  let d := s.dbg
  match o with
  | 0x000 => BitVec.ofNat 64 (d.mode.toNat * 2 + bitAt d.en 0)
  | 0x008 => BitVec.ofNat 64 (bitAt d.stop.isSome 0 + d.lastCode % 128 * 2 ^ 8 + coreOf d.lastTid % 4096 * 2 ^ 16 + d.lastTid % 4 * 2 ^ 28)
  | 0x010 => d.view.zeroExtend 64
  | 0x020 => d.sampBase
  | 0x028 => d.sampCtl
  | 0x030 => d.trcBase
  | 0x038 => d.trcCtl
  | 0x200 => d.elogBase
  | 0x208 => d.elogCtl
  | 0x210 => BitVec.ofNat 64 (d.rplCount.toNat * 2 ^ 32 + d.rplFirst.toNat * 2)
  | 0x218 => BitVec.ofNat 64 (d.rplEntries.toNat * 2 ^ 32 + bitAt d.rplDone 1 + bitAt d.rplRunning 0)
  | 0x220 => d.rplDest
  | o =>
    if 0x100 ≤ o && o < 0x180 then
      let b := d.bps.toList.getD ((o - 0x100) / 16) (0, 0)
      if o % 16 = 0 then b.1 else b.2
    else if 0x1000 ≤ o && o < 0x2000 then
      let t := s.thread (viewTid s)
      if t.stopHeld then leWord (((threadImage s.far t (viewReason s t)).drop (o - 0x1000)).take 8) else 0
    else 0
/-- A write to the debug block. [DEDUCED, unsafe: log 69; DEDUCED, unsafe: log 70] -/
def debugWrite (s : State) (o : Nat) (x : Word) : State :=
  let d := s.dbg
  let set := fun (d : Debug) => { s with dbg := d }
  match o with
  | 0x000 =>
    let s := set { d with mode := fieldOf 2 x 1, en := if s.feature 2 then bitOf x 0 else d.en }
    if bitOf x 8 then releaseStop s else s
  | 0x010 => set { d with view := fieldOf 14 x 0 }
  | 0x020 => set { d with sampBase := lowClear x 5 }
  | 0x028 => set { d with sampCtl := x &&& 0x0000FFFFFFFFFFFF }
  | 0x030 => set { d with trcBase := lowClear x 5 }
  | 0x038 => set { d with trcCtl := x &&& 0xFFFFFFFF00000000 }
  | 0x200 => set { d with elogBase := x }
  | 0x208 =>
    let s := set { d with elogCtl := x &&& 0xFFFFFFFF0FFF0001 }
    if bitOf x 0 && !bitOf d.elogCtl 0 then elogSnapshot s (bitsOf x 27 16) else s
  | 0x210 =>
    let s := set { d with rplCount := fieldOf 32 x 32, rplFirst := fieldOf 31 x 1 }
    if bitOf x 0 then replayGo s else s
  | 0x220 => set { d with rplDest := x }
  | o =>
    if 0x100 ≤ o && o < 0x180 then
      let i := (o - 0x100) / 16
      let b := d.bps.toList.getD i (0, 0)
      let b := if o % 16 = 0 then (x &&& 0xFF00FFFFFFFFFFFC, b.2) else (b.1, x)
      set { d with bps := d.bps.setIfInBounds i b }
    else if 0x1000 ≤ o && o < 0x2000 then
      let n := viewTid s
      let t := s.thread n
      if t.stopHeld then s.setThread n (viewWrite t (o - 0x1000) x) else s
    else s

/-! ## The window -/

/-- A read of the register at an offset of the register window: 8 aligned bytes. -/
def regRead (s : State) (o : Nat) : Word :=
  if 0x100000 ≤ o && o < 0x200000 then linkRead s (o - 0x100000)
  else if 0x200000 ≤ o && o < 0x300000 then fabricRead s (o - 0x200000)
  else if 0x300000 ≤ o && o < 0x400000 then hostRead s (o - 0x300000)
  else if o = 0x400008 then s.xlt.done.zeroExtend 64
  else if 0x500000 ≤ o && o < 0x540000 then clusterRead (s.cluster ((o - 0x500000) / 0x400)) (o % 0x400)
  else if 0x600000 ≤ o && o < 0x600400 then dieRead (s.die ((o - 0x600000) / 0x100)) (o % 0x100)
  else if 0x700000 ≤ o && o < 0x710000 then
    (if o % 16 = 0 then (s.core ((o - 0x700000) / 16)).regRep else (s.core ((o - 0x700000) / 16)).regUe)
  else if 0x800000 ≤ o && o < 0x900000 then debugRead s (o - 0x800000)
  else 0
/-- Before it is read, a counter of what time decides, or of errors that nothing else shows, has advanced by a free amount: HBMCE, CONFL_b
and REPLAYFULL (R152, R155, R171). [DESIGN CHOICE, unsafe: log 8] -/
def timeCounts (s : State) (o : Nat) : State :=
  let more := (Config.countAt s.steps o &&& 0xFFFFFFFF)
  let c := (o - 0x500000) / 0x400; let d := (o - 0x600000) / 0x100
  if 0x500000 ≤ o && o < 0x540000 && o % 0x400 = 0x28 then s.setCluster c { s.cluster c with full := (s.cluster c).full + more }
  else if 0x500000 ≤ o && o < 0x540000 && 0x200 ≤ o % 0x400 then
    let b := (o % 0x400 - 0x200) / 8
    s.setCluster c { s.cluster c with confl := tset (s.cluster c).confl b (tget (s.cluster c).confl b 0 + more) }
  else if 0x600000 ≤ o && o < 0x600400 && o % 0x100 = 0x20 then s.setDie d { s.die d with hbmce := (s.die d).hbmce + more }
  else s
/-- A register read by an agent. -/
def readReg (s : State) (o : Nat) : State × Word := let s := timeCounts s o; (s, regRead s o)
/-- A write of the register at an offset of the register window: 8 aligned bytes. -/
def regWrite (s : State) (o : Nat) (x : Word) : State :=
  if 0x100000 ≤ o && o < 0x200000 then linkWrite s (o - 0x100000) x
  else if 0x200000 ≤ o && o < 0x300000 then fabricWrite s (o - 0x200000) x
  else if 0x300000 ≤ o && o < 0x400000 then hostWrite s (o - 0x300000) x
  else if o = 0x400000 then xltInvWrite s x
  else if 0x500000 ≤ o && o < 0x540000 then
    let c := (o - 0x500000) / 0x400
    (match o % 0x400 with
    | 0x00 => spadHashWrite s c x
    | 0x08 => spadGateWrite s c x
    | _ => s)
  else if 0x600000 ≤ o && o < 0x600400 then (if o % 0x100 = 0 then dsramGateWrite s ((o - 0x600000) / 0x100) x else s)
  else if 0x800000 ≤ o && o < 0x900000 then debugWrite s (o - 0x800000) x
  else s

/-! ## BAR2 and BAR0 (R87, R88) -/

/-- What a host access through BAR2 meets: a cause, keys, or the registers of function 0 (R147, R149). -/
inductive Bar2 where
  | cause (k : Nat)
  | keys (ks : List (Nat × Nat))
  | reg (o : Nat)
/-- Where n bytes at an address of function c lie. The register window counts as kernel mode for function 0 (R89) and follows R42. -/
def bar2Place (s : State) (c a n right : Nat) : Bar2 :=
  if 2 ^ 48 < a + n then .cause 0x10
  else match decodeAddr s (BitVec.ofNat 64 a) with
    | .translated va => (match hubKeys s c va n [right] with | .ok ks => .keys ks | .error (k, _) => .cause k)
    | .window x =>
      if !(if isTcm x then isTcm (x + n - 1) else isSpad (x + n - 1)) then .cause 0x10
      else if c = 0 || windowAllowed s c x n then .keys (windowKeys s x n) else .cause 0x11
    | .register x => if c = 0 && n = 8 && x % 8 = 0 then .reg (x - regBase) else .cause 0x11
    | .nowhere => .cause 0x10
    | _ => .cause 0x11
/-- A host access through BAR2 of a function: what it leaves, and what of it has to wait: for a waking bank, or for a stream that takes no
more. An access beyond the size of BAR2 (2^m GiB) is not claimed. [DESIGN CHOICE, unsafe: log 46] -/
def bar2Access (s : State) (e : EvIn) : State × Option EvIn :=
  let c := e.n; let off := e.word.toNat; let write := e.flag
  let n := if write then e.bytes.length else e.k
  let x := s.ctx c
  let a := x.apbase.toNat + off
  let answer := fun (s : State) (d : List Byte) => if write then s else { s with outputs := s.outputs ++ [.hostRead d] }
  let ones := List.replicate n (255 : Byte)
  let failed := fun (s : State) (k : Nat) =>
    answer (writeFault s c { dev := ownId s, agent := 8, code := k, addr := BitVec.ofNat 64 a }) ones
  if 2 ^ (30 + min e.m 8) < off + n then (s, none)
  else if !x.live then (answer s ones, none)
  else if tablesWait s c a n then (s, some e)
  else match bar2Place s c a n (if write then rightWR else rightRD) with
    | .cause k => (failed (hubUe s c (BitVec.ofNat 64 a) n k) k, none)
    | .reg o => (if write then regWrite s o (leWord e.bytes) else (let (s, v) := readReg s o; answer s (natBytes 8 v.toNat)), none)
    | .keys ks =>
      match arrive s (.host c) ks with
      | (s, true) => (s, some e)
      | (s, false) =>
        if write then
          match inletAt s c a with
          | some (g, i) =>
            let (s, took) := inletStore s g i (a % 4096) e.bytes
            (s, if took < n then some { e with bytes := e.bytes.drop took } else none)
          | none => (match writeKeys s ks e.bytes with | .ok s => s | .error k => failed (countUe s ks k) k, none)
        else if (inletAt s c a).isSome then (failed s 0x11, none)
        else (match readKeys s ks with | .ok d => answer s d | .error k => failed (countUe s ks k) k, none)

/-- A host access to BAR0 of function f (R87): offset, size, and the word written, none for a read. [DEDUCED, unsafe: log 71] -/
def bar0Access (s : State) (f o n : Nat) (w : Option Word) : State :=
  let answer := fun (s : State) (bs : List Byte) => { s with outputs := s.outputs ++ [.hostRead bs] }
  if s.pkg.power = .waitImage then
    -- R21: the recovery window, which holds what the host writes; nothing else is exposed
    if f != 0 || 0x4000000 < o + n then s
    else match w with
      | some x => { s with pkg := { s.pkg with window := (natBytes n x.toNat).zipIdx.foldl (fun t b => tset t (o + b.2) b.1) s.pkg.window } }
      | none => answer s ((List.range n).map (fun i => tget s.pkg.window (o + i) (0 : Byte)))
  else if f = 0 then
    if 0x10000000 ≤ o then s
    else if n = 8 && o % 8 = 0 then
      match w with
      | some x => regWrite s o x
      | none => let (s, v) := readReg s o; answer s (natBytes 8 v.toNat)
    else
      let s := writeFault s 0 { dev := ownId s, agent := 8, code := 0x11, addr := BitVec.ofNat 64 (regBase + o) }
      match w with
      | some _ => s
      | none => answer s (List.replicate n 255)
  else if 64 ≤ f || 0x10000 ≤ o then s
  else
    match w with
    | some x => if o = 0 then doorbellWrite s f x else s
    | none => answer s (natBytes n (if o = 0 then ctxRegRead (s.ctx f) 0x38 else if o = 8 then ctxRegRead (s.ctx f) 0x08 else 0).toNat)

/-- The function through which a host access comes. -/
def hostFn (p : Instr × EvIn) : Nat := if p.1 == .registerWrite then p.2.k else p.2.n
/-- A host access carried out: what of it has to wait. -/
def hostAccess (s : State) (p : Instr × EvIn) : State × Option (Instr × EvIn) :=
  if p.1 == .bar2Access then (let r := bar2Access s p.2; (r.1, r.2.map (fun e => (p.1, e))))
  else if p.1 == .doorbell then (doorbellWrite s p.2.n p.2.word, none)
  else (bar0Access s p.2.k p.2.n p.2.m (if p.2.flag then none else some p.2.word), none)
/-- A host access arrives: the accesses of one function are performed in the order in which they arrive, so it waits behind those of its
function that wait (R88). -/
def hostArrives (s : State) (p : Instr × EvIn) : State :=
  if s.posted.any (fun q => hostFn q == hostFn p) then { s with posted := s.posted ++ [p] }
  else match hostAccess s p with
    | (s, none) => s
    | (s, some q) => { s with posted := s.posted ++ [q] }
/-- The oldest access of a function that waits is tried again. -/
def hostGoesOn (s : State) (c : Nat) : State :=
  match s.posted.find? (fun q => hostFn q == c) with
  | none => s
  | some p =>
    match hostAccess s p with
    | (s, none) => { s with posted := s.posted.erase p }
    | (s, some q) => { s with posted := s.posted.replace p q }
/-- R87: BAR2_ACCESS: function n, the offset in the word; with the flag a write of the bytes, else a read of k bytes; BAR2 has 2^m GiB. The
device's own event goes on with what waits. -/
def execBar2Access (s : State) : Host.Outcome State Fault Refusal :=
  .next (if s.ev.own then hostGoesOn s s.ev.n else hostArrives s (.bar2Access, s.ev))
/-- R92: DOORBELL: context n, the word written through BAR0 of its function, behind the writes of that function that wait (R88). -/
def execDoorbell (s : State) : Host.Outcome State Fault Refusal := .next (hostArrives s (.doorbell, s.ev))
/-- R42: REGISTER_WRITE: the host writes `word`, `m` bytes long, at offset `n` of BAR0 of function `k`; with the flag it reads.
[DESIGN CHOICE, safe: log 124] -/
def execRegisterWrite (s : State) : Host.Outcome State Fault Refusal := .next (hostArrives s (.registerWrite, s.ev))

end Sys2Proof.Machine
end

