-- ==== Sys2Proof/Machine/CoreEv.lean ====
section
/-! DEFINITION. Machine/CoreEv.lean: what a thread set meets between its instructions: the deferred window's turn (R129, R131), the data
of far loads (R127, R128), far accesses performed at homes of this device (R166, R173, R175, R176), asynchronous traps
(R290), wakes and expiries (R358, R359, R436), barrier arrivals (R361) and wave ticks (R261). -/
namespace Sys2Proof.Machine

/-! ## The deferred window (R129, R131) -/

/-- The entries of a window that may execute, oldest first, each with the older entries that it waits for: none that a trap holds, but in a
trap.ret the first of those that it executes (R131, R433); where one has begun and keeps the thread set, that one alone (R273, R395). -/
def windowOrder (t : Thread) : List (WinEntry × List WinEntry) :=
  let l := match t.begun with
    | some e => [e]
    | none => if t.drain then (t.window.filter t.drains).take 1 else t.window.filter (fun e => e.held == 0)
  l.map (fun e => (e, t.olderOf e))
/-- Entries tried in order until one executes: an entry whose own access has to wait leaves the turn to the next, but for one that keeps
the thread set from being ready, or that waits for a translation (R159). [DEDUCED, unsafe: log 115] -/
def tryEntries (l : List (WinEntry × List WinEntry)) (s : State) : Host.Outcome State Fault Refusal × Bool :=
  match l with
  | [] => (.next s, false)
  | p :: r =>
    if blockedBy s p.2 p.1.use then tryEntries r s
    else match runEntryAt p.1 s with
      | .next s' =>
        if s'.th.window.contains p.1 && !p.1.begun && s'.th.defTrap == s.th.defTrap && s'.th.run == s.th.run && s'.th.drain == s.th.drain &&
           !xltWaits s' s'.cur then tryEntries r s'
        else (.next s', true)
      | o => (o, true)
/-- The window's part in an issue turn of the thread set `cur`: whether it has taken the turn. -/
def windowTurn (s : State) : Host.Outcome State Fault Refusal × Bool :=
  match s.th.defTrap with
  | some d => if s.th.window.all (fun e => e.held != 0) then (.next (takeDeferred s d), true) else tryEntries (windowOrder s.th) s
  | none =>
    if s.th.drain && !s.th.window.any s.th.drains then (.next (endReturn s), true)
    else tryEntries (windowOrder s.th) s

/-- Whether a thread set waits for a translation (R159) or for an inlet that withholds a store of it (R262, R413). -/
def waitsOutside (s : State) (tid : Nat) : Bool := xltWaits s tid || s.far.any (fun f => f.tid == tid && f.withheld && !f.over)
/-- Whether a thread set may take an issue turn (R121): it runs, no stop or freeze holds it, no translation or withheld store keeps it, and
its context is Running, or what it executes is the instruction that a pre-emption lets finish (R293, R451). -/
def mayTurn (s : State) (tid : Nat) : Bool :=
  let t := s.thread tid
  t.run == .running && !t.stopHeld && !coreFrozen s (coreOf tid) && !waitsOutside s tid &&
  ((s.ctx (ctxOf s tid)).save == .running || ((s.ctx (ctxOf s tid)).save == .stopping && (finishing s tid).isSome))
/-- The address of the only instruction that a thread set may execute, where its context stops. -/
def onlyAt (s : State) (tid : Nat) : Option Word := if (s.ctx (ctxOf s tid)).save == .stopping then finishing s tid else none

/-- R129: DEFERRED_EXECUTE: the window of thread set n takes an issue turn. -/
def execDeferredExecute (s : State) : Host.Outcome State Fault Refusal :=
  let s1 := { s with cur := s.ev.n }
  if !mayTurn s s.ev.n then .next s
  else match onlyAt s s.ev.n with
    | some a => (tryEntries ((windowOrder s1.th).filter (fun p => p.1.pc == a)) s1).1
    | none => (windowTurn s1).1

/-! ## Far accesses on this device (R166, R173 to R176) -/

/-- R127: FAR_LOAD_DATA: the data of the far access n, which has been performed, is written to its destination. -/
def execFarLoadData (s : State) : Host.Outcome State Fault Refusal :=
  .next (match s.far.find? (fun f => f.id == s.ev.n) with
    | none => s
    | some f => if f.performed && f.gives && !f.own then deliverData s f f.data else s)

/-- A piece's key: through a window it is that of the bank hash in effect (R153). [DEDUCED, unsafe: log 64] -/
def pieceKey (s : State) (f : Far) (p : Piece) : Nat :=
  match decodeAddr s (f.pieceAddr p) with
  | .window x => windowKey s x
  | _ => p.key
/-- The port whose registers a key lies in (R42). [DEDUCED, unsafe: log 72] -/
def portOfKey (k : Nat) : Option Nat := if regBase + 0x101000 ≤ k && k < regBase + 0x106000 then some ((k - regBase - 0x101000) / 0x100) else none
/-- Whether an earlier access of the same sender to the piece's words, or to the registers of its port, is still to be performed
(R176, R42): loads that a save has abandoned are. -/
def pieceHeld (s : State) (f : Far) (p : Piece) : Bool :=
  s.far.any (fun e => e.id < f.id && e.tid == f.tid && e.dev == 0 && !e.over && e.pieces.any (fun q => !q.done &&
    (sameWords q.key q.len p.key p.len || ((portOfKey p.key).isSome && portOfKey q.key == portOfKey p.key)))) ||
  (abandonedLoads s f.ctx).any (fun e => e.id < f.id && e.realTid == f.realTid && e.dev == 0 &&
    e.pieces.any (fun q => sameWords q.key q.len p.key p.len))
/-- An access with a piece replaced; when every piece is done, it has been performed, or it has failed with the first cause.
[DEDUCED, unsafe: log 22] -/
def pieceDone (s : State) (f : Far) (j : Nat) (q : Piece) : State :=
  let f := { f with pieces := f.pieces.set j q }
  if f.pieces.all (fun p => p.done) then
    match f.pieces.find? (fun p => p.fail != 0) with
    | some p => failFar (setFar s f) f p.fail
    | none => if f.gives || f.own then setFar s { f with performed := true } else dropFar s f.id
  else setFar s f
/-- A piece that fails at its home. -/
def pieceFail (s : State) (f : Far) (j : Nat) (p : Piece) (k code : Nat) : State :=
  pieceDone (countUe s [(k, p.len)] code) f j { p with done := true, fail := code }

/-- A piece of a load, store or atomic arrives at its home on this device: it waits, is performed there, or fails (R166, R173). -/
def accessPiece (s : State) (f : Far) (j : Nat) (p : Piece) : State :=
  let k := pieceKey s f p
  if p.done || f.over || f.dev != 0 || farTainted s f || pieceHeld s f p then s
  else
    let done := fun (s : State) (f : Far) => pieceDone s f j { p with done := true }
    let bytes := (f.data.drop p.pos).take p.len
    match decodeAddr s (f.pieceAddr p) with
    | .register x =>
      (match f.kind with
       | .load => let (s, v) := readReg s (x - regBase); done s { f with data := natBytes 8 v.toNat }
       | .store => done (regWrite s (x - regBase) (leWord bytes)) f
       | _ => pieceFail s f j p k 0x11)
    | a =>
      let inlet := match a with | .translated va => inletAt s f.ctx va | _ => none
      match inlet, f.kind with
      | some (g, i), .store =>
        let (s, took) := inletStore s g i (addr48 (f.pieceAddr p) % 4096) bytes
        if p.len ≤ took then done s { f with withheld := false }
        else setFar s { f with withheld := true, pieces := f.pieces.set j { p with pos := p.pos + took, len := p.len - took } }
      | some _, _ => pieceFail s f j p k 0x11
      | none, kind =>
        let barred := match a with | .window x => !f.kernel && !windowAllowed s f.ctx x p.len | _ => false
        if barred then pieceFail s f j p k 0x11
        else match arrive s (.piece f.id j) [(k, p.len)] with
        | (s, true) => s
        | (s, false) =>
          match kind with
          | .load =>
            (match homeFails s k p.len true with
             | some c => pieceFail s f j p k c
             | none => done s { f with data := spliceBytes f.length p.pos f.data (memRead s k p.len) })
          | .store =>
            (match homeFails s k p.len false with
             | some c => pieceFail s f j p k c
             | none => done (memWrite (undoDirect s f.tid (f.pieceAddr p) p.len) k bytes) f)
          | .atomic op x c _ =>
            (match homeFails s k p.len true with
             | some e => pieceFail s f j p k e
             | none =>
               let old := leNat (memRead s k p.len)
               let new := natBytes p.len (op.apply p.len old x.toNat c.toNat)
               let f := { f with data := natBytes p.len old }
               let s := atomicDone s f op x c p.len old
               if op == .cas && old != c.toNat % 2 ^ (8 * p.len) then done s f
               else done (memWrite (undoDirect s f.tid f.addr p.len) k new) f)
          | _ => s
/-- A piece of a far access by its number. -/
def accessAt (s : State) (id j : Nat) : State :=
  match s.far.find? (fun f => f.id == id) with
  | none => s
  | some f => match f.pieces[j]? with
    | none => s
    | some p => accessPiece s f j p
/-- R173: ACCESS_PERFORMED_AT_HOME: piece k of the far access n. -/
def execAccessPerformedAtHome (s : State) : Host.Outcome State Fault Refusal := .next (accessAt s s.ev.n s.ev.k)

/-- Whether a far access is a store into a registered inlet of this device (R248). -/
def toInlet (s : State) (f : Far) : Bool :=
  f.kind == .store && f.pieces.any (fun p => !p.done && (match decodeAddr s (f.pieceAddr p) with | .translated va => (inletAt s f.ctx va).isSome | _ => false))
/-- R248: INLET_STORE: piece k of the far access n, a store into an inlet, reaches its stream. [DEDUCED, unsafe: log 23] -/
def execInletStore (s : State) : Host.Outcome State Fault Refusal :=
  .next (if s.far.any (fun f => f.id == s.ev.n && toInlet s f) then accessAt s s.ev.n s.ev.k else s)

/-! ## Asynchronous traps (R290) -/

/-- Whether a thread set sleeps in an instruction that an asynchronous trap takes (R358, R359, R436). -/
def asleep (t : Thread) : Bool :=
  match t.run with
  | .sleepWait _ | .sleepAny _ _ | .sleepCount => true
  | _ => false
/-- Whether a thread set stands at an instruction boundary in task mode with a handler, or sleeps there. [DEDUCED, unsafe: log 18] -/
def takesAsync (s : State) (tid : Nat) : Bool :=
  let t := s.thread tid
  (mayTurn s tid || (asleep t && !coreFrozen s (coreOf tid) && !t.stopHeld)) && (s.ctx (ctxOf s tid)).save == .running &&
  !t.kernel && t.tvec != 0 && t.defTrap.isNone && !t.noMatch && t.begun.isNone && !s.far.any (fun f => f.tid == tid && f.own)
/-- The thread sets of a context in ascending order. -/
def sortedTids (s : State) (c : Nat) : List Nat := sortBy (fun a b => decide (a ≤ b)) (ctxTids s c)
/-- R290: ASYNC_TRAP_DELIVERY: context n: the oldest record that waits is delivered to the first thread set that can take it. -/
def execAsyncTrapDelivery (s : State) : Host.Outcome State Fault Refusal :=
  .next (match (s.ctx s.ev.n).faults, (sortedTids s s.ev.n).find? (fun t => takesAsync s t) with
    | f :: r, some tid =>
      let s := s.setCtx s.ev.n { s.ctx s.ev.n with faults := r }
      takeTrapAs { s with cur := tid } true false f.code f.addr (s.thread tid).pc 0
    | _, _ => s)

/-! ## Wakes and expiries (R358, R359, R436) -/

/-- R358: WAIT_WAKE: thread set n, whose watched unit has been written, reads the word again. -/
def execWaitWake (s : State) : Host.Outcome State Fault Refusal :=
  .next (
    let t := s.thread s.ev.n
    let s' := { s with wakes := s.wakes.filter (fun w => w != s.ev.n) }
    if !s.wakes.contains s.ev.n then s
    else match t.run with
      | .sleepWait _ => s'.setThread s.ev.n { t with run := .running }
      | .sleepAny _ _ => s'.setThread s.ev.n { t with run := .running }
      | _ => s')
/-- R359: WAIT_ANY_TIMEOUT: thread set n. -/
def execWaitAnyTimeout (s : State) : Host.Outcome State Fault Refusal :=
  .next (
    let t := s.thread s.ev.n
    match t.run with
    | .sleepAny _ true => s.setThread s.ev.n { t with run := .running, anyOver := true }
    | _ => s)
/-- R436: SLEEP_EXPIRY: thread set n. -/
def execSleepExpiry (s : State) : Host.Outcome State Fault Refusal :=
  .next (
    let t := s.thread s.ev.n
    if t.run == .sleepCount then s.setThread s.ev.n { t with run := .running } else s)

/-! ## Barriers and ticks (R361, R261) -/

/-- R361: BARRIER_ARRIVAL: the n-th arrival on its way reaches its unit. -/
def execBarrierArrival (s : State) : Host.Outcome State Fault Refusal :=
  .next (match s.barSent[s.ev.n]? with
    | none => s
    | some a => barrierArrive { s with barSent := s.barSent.eraseIdx s.ev.n } a)

/-- A tick of a spiking stream: its oldest wave, where it is complete, may close; later than the wave's own tick it is stretched.
[DEDUCED, unsafe: log 95] -/
def tickStream (r : RxStream) : RxStream :=
  let r := { r with ticks := r.ticks + 1 }
  if (r.wave r.closed).complete && !r.due then
    { r with due := true, stretch := if r.closed + 1 < r.ticks then r.stretch + 1 else r.stretch }
  else r
/-- R261: WAVE_TICK: the hub announces a tick of period n. -/
def execWaveTick (s : State) : Host.Outcome State Fault Refusal :=
  let hit := s.cores.flatMap (fun p =>
    ((List.range 8) ++ List.map (fun (x : Nat × RxStream) => x.1) p.2.rxSaved).filterMap (fun i =>
      match rxOf s p.1 i with
      | some r => if r.spike && r.period == s.ev.n then some (p.1, i) else none
      | none => none))
  .next (hit.foldl (fun s p =>
    match rxOf s p.1 p.2 with
    | some r => let s := setRx s p.1 p.2 (some (tickStream r)); rxSettle (rxFuel s p.1 p.2) s p.1 p.2
    | none => s) s)

end Sys2Proof.Machine
end

