-- ==== Sys2Proof/Machine/EngineEv.lean ====
section
/-! DEFINITION. Machine/EngineEv.lean: the events of the engines (R190, R295, R324, R391, R398 to R407): an event's n is the core, its k the
queue, 0 the matrix queue and 1 the copy queue. -/
namespace Sys2Proof.Machine

/-- Whether the engine of a queue may do its next piece of work for an entry: no stop holds it, its core is not frozen, and the entry's
context runs, or stops while a unit of work is open (R295, R297, R301). -/
def engineMay (s : State) (g q : Nat) (e : Entry) : Bool :=
  !s.allStopped && !coreFrozen s g &&
  (match s.launch e.launch with
   | some l => ctxRuns s l.ctx || ((s.ctx l.ctx).save == .stopping && unitOpen s g q)
   | none => true)
/-- The entry that starts next. -/
def nextEntry (s : State) (g q : Nat) : Option Entry :=
  let u := queueOf s g q
  match u.running, u.paused, u.queued with
  | none, some p, _ => some p
  | none, none, e :: _ => some e
  | _, _, _ => none
/-- R398: ENTRY_START. -/
def execEntryStart (s : State) : Host.Outcome State Fault Refusal :=
  .next (match nextEntry s s.ev.n s.ev.k with
    | some e => if engineMay s s.ev.n s.ev.k e then startEntry s s.ev.n s.ev.k else s
    | none => s)
/-- R398: ENTRY_OVERTAKE: on the matrix queue. -/
def execEntryOvertake (s : State) : Host.Outcome State Fault Refusal :=
  .next (match (queueOf s s.ev.n 0).running with
    | some e => if engineMay s s.ev.n 0 e then overtake s s.ev.n else s
    | none => s)
/-- R324: ENTRY_AGE: the entry numbered m, queued or paused, rises by one, up to 3. -/
def execEntryAge (s : State) : Host.Outcome State Fault Refusal :=
  let u := queueOf s s.ev.n s.ev.k
  let up := fun (e : Entry) => if e.id == s.ev.m then { e with eprio := min 3 (e.eprio + 1) } else e
  .next (setQueue s s.ev.n s.ev.k { u with queued := u.queued.map up, paused := u.paused.map up })
/-- R391: QUEUE_FENCE. -/
def execQueueFence (s : State) : Host.Outcome State Fault Refusal :=
  .next (match nextEntry s s.ev.n s.ev.k with
    | some e => if engineMay s s.ev.n s.ev.k e then endFence s s.ev.n s.ev.k else s
    | none => s)

/-- The next piece of the running entry of a queue, where its opcode is one of some. -/
def runOp (ops : List Nat) (s : State) : State :=
  match (queueOf s s.ev.n s.ev.k).running with
  | some e => if ops.contains (tcwOp e.tcw) && engineMay s s.ev.n s.ev.k e then runEntry s s.ev.n s.ev.k else s
  | none => s
/-- R399: MMA. -/
def execMma (s : State) : Host.Outcome State Fault Refusal := .next (runOp [0x01] s)
/-- R399: MMAZ. -/
def execMmaz (s : State) : Host.Outcome State Fault Refusal := .next (runOp [0x02] s)
/-- R400: AZERO. -/
def execAzero (s : State) : Host.Outcome State Fault Refusal := .next (runOp [0x03] s)
/-- R401: ALOAD. -/
def execAload (s : State) : Host.Outcome State Fault Refusal := .next (runOp [0x04] s)
/-- R401: ASTORE. -/
def execAstore (s : State) : Host.Outcome State Fault Refusal := .next (runOp [0x05] s)
/-- R402: COPY. -/
def execCopy (s : State) : Host.Outcome State Fault Refusal := .next (runOp [0x10] s)
/-- R404: DECOMP. -/
def execDecomp (s : State) : Host.Outcome State Fault Refusal := .next (runOp [0x11] s)
/-- R404: COMPR. -/
def execCompr (s : State) : Host.Outcome State Fault Refusal := .next (runOp [0x12] s)
/-- R169: GATHER. -/
def execGather (s : State) : Host.Outcome State Fault Refusal := .next (runOp [0x13] s)
/-- R405: SCATTER. -/
def execScatter (s : State) : Host.Outcome State Fault Refusal := .next (runOp [0x14] s)
/-- R403: FILL. -/
def execFill (s : State) : Host.Outcome State Fault Refusal := .next (runOp [0x15] s)
/-- R406: NZSCAN. -/
def execNzscan (s : State) : Host.Outcome State Fault Refusal := .next (runOp [0x16] s)
/-- R407: SIGNAL. -/
def execSignal (s : State) : Host.Outcome State Fault Refusal := .next (runOp [0x17] s)

end Sys2Proof.Machine
end

