-- ==== Sys2Proof/Machine/PackageEv.lean ====
section
/-! DEFINITION. Machine/PackageEv.lean: the package as a whole: Matins (R16 to R24), firmware recovery (R20, R21), attestation (R19), power
and thermal management (R12 to R15), the side-band's freeze, read-out and dump (R305, R306), the removal of power (R18). -/
namespace Sys2Proof.Machine

/-! ## The configuration record and the firmware image (R16 to R20) -/

/-- A field of the configuration record (R16). [DESIGN CHOICE, unsafe: log 104] -/
def recordField (b : List Byte) (o n : Nat) : List Byte := (b.drop o).take n
/-- SECVER, MINFW, PWRLIM and FEATURES. -/
def recordWord (b : List Byte) (i : Nat) : Nat := leNat (recordField b (4 * i) 4)
/-- The seed of the identity key (R18). -/
def seedOf (b : BootInput) : List Byte := sha3 b.secret
/-- The check of the configuration record against the monotonic counter and the secret of the PUF (R17).
[DESIGN CHOICE, unsafe: log 104] -/
def recordOk (c : List Byte) (counter : Nat) (b : BootInput) : Bool :=
  c.length == 2504 && mldsaVerify Config.configKey (recordField c 0 84) (recordField c 84 2420) &&
  decide (counter ≤ recordWord c 1) && decide (1000 ≤ recordWord c 3) && decide (recordWord c 3 ≤ 3000) &&
  recordWord c 4 / 8 == 0 && recordField c 52 32 == sha3 (mldsaPublic (seedOf b))
/-- The check of a firmware image against a configuration record (R20). [DESIGN CHOICE, unsafe: log 104] -/
def imageOk (c : List Byte) (i : FirmwareImage) : Bool :=
  mldsaVerify Config.firmwareKey (natBytes 4 i.secver.toNat ++ i.bytes) i.sig && decide (recordWord c 2 ≤ i.secver.toNat)

/-! ## Matins (R22, R24) -/

/-- The device with all its state lost: what stays is what the outside holds (the FMC's flash and counter, Compline images) and the model's
own numbering. [DEDUCED, unsafe: log 107] -/
def lostState (s : State) (p : Package) : State := {
  pkg := { p with flash := s.pkg.flash, counter := s.pkg.counter }, cpl := { kept := s.cpl.kept }, outputs := s.outputs, nextId := s.nextId, freeCount := s.freeCount, steps := s.steps, turn := s.turn, pending := s.pending }
/-- A run that ends at a step: the failure is reported, with the stacks (step 4) or dies (step 6) that failed as a mask, and the device
stands there, or waits for an image (step 3). -/
def bootStop (s : State) (b : BootInput) (step which : Nat) : State :=
  let p : Package := { power := if step = 3 then .waitImage else .stopped step, boot := b }
  { lostState s p with outputs := s.outputs ++ [.bootFailure step which] }
/-- What the FMC's flash holds when a run begins: what the FMC has written to it since the last one, or what it held. -/
def flashOf (s : State) (b : BootInput) : Flash := b.flash.getD s.pkg.flash
/-- A port after link training (R22 step 5): Up with the largest mask of the members that trained, or Down. [DEDUCED, unsafe: log 105] -/
def bootPort (id : BitVec 15) (l : List (Nat × BitVec 16)) (p : Nat) : Port :=
  let v : Port := {}
  match l.find? (fun x => x.1 == p) with
  | some x =>
    let ok := x.2 &&& membersOf p
    if ok = 0 then { v with state := .down }
    else { v.fresh with failed := membersOf p &&& ~~~ok, active := lowestPower ok }.say (.identity (id.zeroExtend 16) p (portSlots p))
  | none => { v with state := .down }
/-- Matins, all steps in order. [DEDUCED, unsafe: log 120] -/
def matins (s : State) (b : BootInput) : State :=
  let f := flashOf s b
  let c := f.configRecord
  let s := { s with pkg := { s.pkg with flash := f } }
  if !b.romOk then bootStop s b 1 0
  else if !recordOk c s.pkg.counter b then bootStop s b 2 0
  else if !imageOk c f.firmware then bootStop s b 3 0
  else if b.stackOk != 0xFF then bootStop s b 4 (0xFF - b.stackOk.toNat)
  else if b.dieOk != 0xF then bootStop s b 6 (0xF - b.dieOk.toNat)
  else if !b.counterOk then bootStop s b 7 0
  else
    let p : Package := {
      power := .ready, boot := b, pwrlim := recordWord c 3, features := BitVec.ofNat 32 (recordWord c 4), serial := recordField c 20 32
      seed := seedOf b
      slots := #v[sha3 b.rom, sha3 (natBytes 4 f.firmware.secver.toNat ++ f.firmware.bytes ++ f.firmware.sig), sha3 c, sha3 f.helper] }
    let counter := max s.pkg.counter (recordWord c 1)
    let advance := if s.pkg.counter < counter then [Output.counterWrite counter] else []
    let s' := lostState { s with pkg := { s.pkg with counter := counter } } p
    { s' with
      ports := (List.range 80).filterMap (fun n => if isPort n then some (n, bootPort b.deviceId b.trainedPorts n) else none)
      fabric := { s'.fabric with id := b.deviceId, lfsr := 0x1D872B41 ^^^ (b.deviceId.zeroExtend 32 <<< 16) }
      outputs := s.outputs ++ advance ++ [.ready] }
/-- R22: MATINS: what the run finds is the event's `boot`. -/
def execMatins (s : State) : Host.Outcome State Fault Refusal := .next (matins s s.ev.boot)

/-- The image that the host has put into the recovery window, `n` bytes of it: the security version in 4 bytes, the signature in 2,420, the
image. [DESIGN CHOICE, unsafe: log 104] -/
def windowImage (s : State) (n : Nat) : FirmwareImage :=
  let b := (List.range n).map (fun o => tget s.pkg.window o (0 : Byte))
  { sideband := false, secver := BitVec.ofNat 32 (leNat (b.take 4)), sig := (b.drop 4).take 2420, bytes := b.drop 2424 }
/-- R21: FIRMWARE_RECOVERY_IMAGE: an image arrives complete, over the side-band or as the first k bytes of the recovery window; the flag
says that the other path delivers at once. The run that starts again takes the configuration record that the flash held when the ROM began
to wait. An image that fails is discarded; what the other path has delivered so far stays. [DESIGN CHOICE, unsafe: log 130] -/
def execFirmwareRecoveryImage (s : State) : Host.Outcome State Fault Refusal :=
  .next (
    let i := if s.ev.image.sideband then s.ev.image else windowImage s s.ev.k
    if s.pkg.power != .waitImage then s
    else if s.ev.flag && !i.sideband then { s with outputs := s.outputs ++ [.busy] }
    else
      let s := if s.ev.flag then { s with outputs := s.outputs ++ [.busy] } else s
      if imageOk s.pkg.flash.configRecord i then
        matins { s with pkg := { s.pkg with flash := { s.pkg.flash with firmware := i } }, outputs := s.outputs ++ [.flashWrite i] } { s.pkg.boot with flash := none }
      else if i.sideband then s else { s with pkg := { s.pkg with window := [] } })

/-! ## Attestation (R19) -/

/-- The report for a nonce: the measurements, the nonce, the counter in 8 bytes, the serial number. [DESIGN CHOICE, unsafe: log 126] -/
def attestReport (p : Package) (nonce : BitVec 256) : List Byte :=
  p.slots.toList.flatten ++ natBytes 32 nonce.toNat ++ natBytes 8 p.counter ++ p.serial
/-- A request is answered: its signature, with random bytes of its own, is being made. [DESIGN CHOICE, safe: log 14] -/
def attest (s : State) (nonce : BitVec 256) : State :=
  let r := attestReport s.pkg nonce
  let (s, rnd) := freshBytes s
  { s with pkg := { s.pkg with signing := some nonce }, outputs := s.outputs ++ [.attestation r (mldsaSign s.pkg.seed rnd r)] }
/-- R19: ATTESTATION_REQUEST: the nonce is the event's first 32 bytes. [DESIGN CHOICE, unsafe: log 126] -/
def execAttestationRequest (s : State) : Host.Outcome State Fault Refusal :=
  .next (
    let nonce := BitVec.ofNat 256 (leNat (s.ev.bytes.take 32))
    if s.pkg.power != .ready then s
    else match s.pkg.signing with
      | some _ => { s with pkg := { s.pkg with queue := s.pkg.queue ++ [nonce] } }
      | none => attest s nonce)
/-- R19: ATTESTATION_QUEUED_SERVE: the signature ends, and the oldest request that waits is served. -/
def execAttestationQueuedServe (s : State) : Host.Outcome State Fault Refusal :=
  .next (
    if s.pkg.signing.isNone then s
    else match s.pkg.queue with
      | [] => { s with pkg := { s.pkg with signing := none } }
      | n :: r => attest { s with pkg := { s.pkg with queue := r } } n)

/-! ## Power and monitors (R12 to R15) -/

/-- A sample of the power estimate in watts (R12): a die loses a sixteenth above the limit and gains one at 5 % or more below it; in Hot
every die stays at eight sixteenths. `cycles` are the cycles that a throttled die has lost since the last sample (R13).
[DESIGN CHOICE, unsafe: log 106] -/
def powerSample (s : State) (watts : Nat) (cycles : Word) : State :=
  (List.range 4).foldl (fun s d =>
    let k := s.die d
    let k := if k.fraction < 16 then { k with thrcyc := k.thrcyc + cycles } else k
    let n :=
      if s.pkg.thermal = .hot then 8
      else if s.pkg.pwrlim < watts then max 8 (k.fraction - 1)
      else if watts * 20 ≤ s.pkg.pwrlim * 19 then min 16 (k.fraction + 1)
      else k.fraction
    s.setDie d { k with fraction := n }) s
/-- R12: POWER_SAMPLE: the estimate k in watts; the throttled cycles in `word`. -/
def execPowerSample (s : State) : Host.Outcome State Fault Refusal := .next (powerSample s s.ev.k s.ev.word)

/-- Every die at eight sixteenths. -/
def throttleAll (s : State) : State := (List.range 4).foldl (fun s d => s.setDie d { s.die d with fraction := 8 }) s
/-- The thermal state machine at a refresh (R15): the first row that applies; temperatures count in steps of 0.125 degrees. -/
def thermalStep (s : State) (temps : List Int) : State :=
  let any := fun (t : Int) => temps.any (fun x => decide (t ≤ x))
  let set := fun (s : State) (t : Thermal) => { s with pkg := { s.pkg with thermal := t } }
  let say := fun (s : State) (o : Output) => { s with outputs := s.outputs ++ [o] }
  if any 880 then say (lostState s { power := .off, thermal := s.pkg.thermal, boot := { s.pkg.boot with secret := [] } }) .trip
  else match s.pkg.thermal with
    | .normal =>
      if any 800 then set (throttleAll (say s (.warning true))) .hot
      else if any 760 then set (say s (.warning true)) .warm
      else s
    | .warm =>
      if any 800 then set (throttleAll s) .hot
      else if !any 736 then set (say s (.warning false)) .normal
      else s
    | .hot => if !any 776 then set s .warm else s
/-- The readings taken into the monitors (R14): a droop only where it is deeper than the one kept. [DESIGN CHOICE, unsafe: log 106] -/
def takeReadings (s : State) (r : MonitorInput) : State :=
  let temp := fun (i : Nat) => BitVec.ofInt 16 (r.temps.getD i 0)
  let s := (List.range 256).foldl (fun s c =>
    s.setCluster c { s.cluster c with temp := temp c, droop := max (s.cluster c).droop (r.droops.getD c 0) }) s
  { s with pkg := { s.pkg with temps := r.temps, hubTemp := temp 256, hubDroop := max s.pkg.hubDroop (r.droops.getD 256 0) } }
/-- R15: MONITOR_REFRESH: the readings of the event. -/
def execMonitorRefresh (s : State) : Host.Outcome State Fault Refusal :=
  .next (thermalStep (takeReadings s s.ev.readings) s.ev.readings.temps)
/-- The droop monitor of a cluster, or of the hub (256), read over the side-band: the deepest since the last read, cleared. -/
def droopRead (s : State) (n : Nat) : State :=
  if n < 256 then
    let k := s.cluster n
    { s.setCluster n { k with droop := 0 } with outputs := s.outputs ++ [.readout (natBytes 8 k.droop)] }
  else { s with pkg := { s.pkg with hubDroop := 0 }, outputs := s.outputs ++ [.readout (natBytes 8 s.pkg.hubDroop)] }
/-- Where the boot stands, as the FMC reads it: 0 without power, the step at which it stopped, 3 waiting for an image, 8 ready, 9 frozen. -/
def Power.code (p : Power) : Nat :=
  match p with
  | .off => 0
  | .stopped n => n
  | .waitImage => 3
  | .ready => 8
  | .frozen => 9
/-- What the FMC reads of the other monitors and of the status (R13, R14, R99): m = 1 the temperature n (clusters, hub, base dies), 2 the
process count of die n (0 to 3 the compute dies, 4 the hub die, 5 to 12 the base dies), 3 the throttled cycles of die n, 4 the thermal
state, else the Matins status. [DESIGN CHOICE, unsafe: log 126] -/
def monitorBytes (s : State) (m n : Nat) : List Byte :=
  match m with
  | 1 => natBytes 2 (BitVec.ofInt 16 (s.pkg.temps.getD n 0)).toNat
  | 2 => natBytes 8 (Config.processCount n).toNat
  | 3 => natBytes 8 (s.die n).thrcyc.toNat
  | 4 => natBytes 1 s.pkg.thermal.code
  | _ => natBytes 1 s.pkg.power.code
/-- R14, R99: MDROOP_READ: the FMC's read of monitor m, number n: m = 0 is a droop monitor, whose reading clears it.
[DESIGN CHOICE, unsafe: log 126] -/
def execMdroopRead (s : State) : Host.Outcome State Fault Refusal :=
  .next (if s.ev.m = 0 then droopRead s s.ev.n else { s with outputs := s.outputs ++ [.readout (monitorBytes s s.ev.m s.ev.n)] })

/-! ## Twilight and the side-band dump (R305, R306) -/

/-- R305: TWILIGHT_FREEZE: refused unless FEATURES bit 1 is set. -/
def execTwilightFreeze (s : State) : Host.Outcome State Fault Refusal :=
  .next (if s.pkg.power == .ready && s.feature 1 then { s with pkg := { s.pkg with power := .frozen } } else s)
/-- Whether the FMC may read device state: in a freeze, or where a dump has met a failed save. [DEDUCED, unsafe: log 108] -/
def mayReadOut (s : State) : Bool :=
  s.pkg.power == .frozen || (s.pkg.power == .ready && s.feature 0 && s.ctxs.any (fun p => p.2.save == .saveFailed))
/-- What the FMC reads (R305): m = 0 the k bytes from the key n, 1 the registers of thread set n, 2 the tile k of core n, 3 the register at
offset n of the window, 4 the CSR k of thread set n, 5 the descent unit of core n, 6 its shape slot k, 7 its decode table, 8 the token of
its tile k, 9 its receive stream k, 10 its stream unit k, 11 the image of its queue k. [DEDUCED, unsafe: log 108] -/
def readOut (s : State) (m n k : Nat) : List Byte :=
  let c := s.core n
  match m with
  | 0 => memRead s n k
  | 1 => threadImage s.far (s.thread n) (viewReason s (s.thread n))
  | 2 => tileBytes (tileOf s n k)
  | 3 => natBytes 8 (regRead s n).toNat
  | 4 => natBytes 8 (csrRead { s with cur := n } k).2.toNat
  | 5 => treeBytes c.tree
  | 6 => (match c.shapes.toList.getD k none with | some d => natBytes 32 d.desc.toNat | none => natBytes 32 0)
  | 7 => (match c.table with | some t => t.bytes | none => natBytes 1024 0)
  | 8 => tokenBytes (tileOf s n k)
  | 9 => (match c.rx.toList.getD k none with | some r => streamImage r k | none => natBytes 0x2000 0)
  | 10 => (match c.streams.toList.getD k none with | some u => streamUnitBytes u | none => natBytes 0x80 0)
  | _ => queueImage k 0 (queueOf s n k).all
/-- R305: TWILIGHT_READ. -/
def execTwilightRead (s : State) : Host.Outcome State Fault Refusal :=
  .next (if mayReadOut s then
      let s := if s.ev.m = 3 then timeCounts s s.ev.n else s
      { s with outputs := s.outputs ++ [.readout (readOut s s.ev.m s.ev.n s.ev.k)] }
    else s)

/-- A dump of a live context (R306): the command starts a save; once the context is Saved its area goes out, and it is restored unless
it is to stay Saved; a failed save stops the dump. [DEDUCED, unsafe: log 108] -/
def dumpStep (s : State) (c : Nat) (keep : Bool) : State :=
  let x := s.ctx c
  let go := fun (s : State) (keep : Bool) =>
    let x := s.ctx c
    let area := memGets s.mem (areaBase x) x.alen.toNat
    { s.setCtx c { x with dump := none, restoreWanted := x.restoreWanted || !keep, restoreErr := if keep then x.restoreErr else false } with
      outputs := s.outputs ++ [.dump c, .readout area] }
  match x.dump with
  | some keep =>
    (match x.save with
     | .saved => go s keep
     | .saveFailed => s.setCtx c { x with dump := none }
     | .running => beginSave s c
     | _ => s)
  | none =>
    if !(s.pkg.power == .ready && s.feature 0 && x.live) then s
    else match x.save with
      | .saved => go s keep
      | .saveFailed => s
      | .running => beginSave (s.setCtx c { x with dump := some keep }) c
      | _ => s.setCtx c { x with dump := some keep }
/-- R306: SIDEBAND_DUMP: context n; with the flag it is to stay Saved. -/
def execSidebandDump (s : State) : Host.Outcome State Fault Refusal := .next (dumpStep s s.ev.n s.ev.flag)

/-! ## The removal of power (R18) -/

/-- R18: POWER_REMOVAL: the identity key is cleared and all device state is lost. -/
def execPowerRemoval (s : State) : Host.Outcome State Fault Refusal := .next (lostState s { power := .off, boot := { s.pkg.boot with secret := [] } })

end Sys2Proof.Machine
end

