-- ==== Sys2Proof/Machine/Dispatch.lean ====
section
/-! DEFINITION. Machine/Dispatch.lean: the meaning of each row of the instruction and event table. -/
namespace Sys2Proof.Machine

/-- The execution of an instruction, or the taking of an event. -/
def exec (i : Instr) (s : State) : Host.Outcome State Fault Refusal :=
  match i with
  | .lui d im => Sys2Proof.Machine.execLui d im s
  | .auipc d im => Sys2Proof.Machine.execAuipc d im s
  | .jal d im => Sys2Proof.Machine.execJal d im s
  | .jalr d a im => Sys2Proof.Machine.execJalr d a im s
  | .beq a b im => Sys2Proof.Machine.execBeq a b im s
  | .bne a b im => Sys2Proof.Machine.execBne a b im s
  | .blt a b im => Sys2Proof.Machine.execBlt a b im s
  | .bge a b im => Sys2Proof.Machine.execBge a b im s
  | .bltu a b im => Sys2Proof.Machine.execBltu a b im s
  | .bgeu a b im => Sys2Proof.Machine.execBgeu a b im s
  | .lb d a im => Sys2Proof.Machine.execLb d a im s
  | .lh d a im => Sys2Proof.Machine.execLh d a im s
  | .lw d a im => Sys2Proof.Machine.execLw d a im s
  | .ld d a im => Sys2Proof.Machine.execLd d a im s
  | .lbu d a im => Sys2Proof.Machine.execLbu d a im s
  | .lhu d a im => Sys2Proof.Machine.execLhu d a im s
  | .lwu d a im => Sys2Proof.Machine.execLwu d a im s
  | .sb b a im => Sys2Proof.Machine.execSb b a im s
  | .sh b a im => Sys2Proof.Machine.execSh b a im s
  | .sw b a im => Sys2Proof.Machine.execSw b a im s
  | .sd b a im => Sys2Proof.Machine.execSd b a im s
  | .fence d a m p sl => Sys2Proof.Machine.execFence d a m p sl s
  | .fenceTso d a => Sys2Proof.Machine.execFenceTso d a s
  | .addi d a im => Sys2Proof.Machine.execAddi d a im s
  | .slti d a im => Sys2Proof.Machine.execSlti d a im s
  | .sltiu d a im => Sys2Proof.Machine.execSltiu d a im s
  | .xori d a im => Sys2Proof.Machine.execXori d a im s
  | .ori d a im => Sys2Proof.Machine.execOri d a im s
  | .andi d a im => Sys2Proof.Machine.execAndi d a im s
  | .slli d a sl => Sys2Proof.Machine.execSlli d a sl s
  | .srli d a sl => Sys2Proof.Machine.execSrli d a sl s
  | .srai d a sl => Sys2Proof.Machine.execSrai d a sl s
  | .clz d a => Sys2Proof.Machine.execClz d a s
  | .ctz d a => Sys2Proof.Machine.execCtz d a s
  | .cpop d a => Sys2Proof.Machine.execCpop d a s
  | .sextB d a => Sys2Proof.Machine.execSextB d a s
  | .sextH d a => Sys2Proof.Machine.execSextH d a s
  | .rori d a sl => Sys2Proof.Machine.execRori d a sl s
  | .orcB d a => Sys2Proof.Machine.execOrcB d a s
  | .rev8 d a => Sys2Proof.Machine.execRev8 d a s
  | .addiw d a im => Sys2Proof.Machine.execAddiw d a im s
  | .slliw d a sl => Sys2Proof.Machine.execSlliw d a sl s
  | .slliUw d a sl => Sys2Proof.Machine.execSlliUw d a sl s
  | .srliw d a sl => Sys2Proof.Machine.execSrliw d a sl s
  | .sraiw d a sl => Sys2Proof.Machine.execSraiw d a sl s
  | .roriw d a sl => Sys2Proof.Machine.execRoriw d a sl s
  | .clzw d a => Sys2Proof.Machine.execClzw d a s
  | .ctzw d a => Sys2Proof.Machine.execCtzw d a s
  | .cpopw d a => Sys2Proof.Machine.execCpopw d a s
  | .add d a b => Sys2Proof.Machine.execAdd d a b s
  | .sll d a b => Sys2Proof.Machine.execSll d a b s
  | .slt d a b => Sys2Proof.Machine.execSlt d a b s
  | .sltu d a b => Sys2Proof.Machine.execSltu d a b s
  | .xor d a b => Sys2Proof.Machine.execXor d a b s
  | .srl d a b => Sys2Proof.Machine.execSrl d a b s
  | .or d a b => Sys2Proof.Machine.execOr d a b s
  | .and d a b => Sys2Proof.Machine.execAnd d a b s
  | .sub d a b => Sys2Proof.Machine.execSub d a b s
  | .sra d a b => Sys2Proof.Machine.execSra d a b s
  | .andn d a b => Sys2Proof.Machine.execAndn d a b s
  | .orn d a b => Sys2Proof.Machine.execOrn d a b s
  | .xnor d a b => Sys2Proof.Machine.execXnor d a b s
  | .mul d a b => Sys2Proof.Machine.execMul d a b s
  | .mulh d a b => Sys2Proof.Machine.execMulh d a b s
  | .mulhsu d a b => Sys2Proof.Machine.execMulhsu d a b s
  | .mulhu d a b => Sys2Proof.Machine.execMulhu d a b s
  | .div d a b => Sys2Proof.Machine.execDiv d a b s
  | .divu d a b => Sys2Proof.Machine.execDivu d a b s
  | .rem d a b => Sys2Proof.Machine.execRem d a b s
  | .remu d a b => Sys2Proof.Machine.execRemu d a b s
  | .sh1add d a b => Sys2Proof.Machine.execSh1add d a b s
  | .sh2add d a b => Sys2Proof.Machine.execSh2add d a b s
  | .sh3add d a b => Sys2Proof.Machine.execSh3add d a b s
  | .min d a b => Sys2Proof.Machine.execMin d a b s
  | .minu d a b => Sys2Proof.Machine.execMinu d a b s
  | .max d a b => Sys2Proof.Machine.execMax d a b s
  | .maxu d a b => Sys2Proof.Machine.execMaxu d a b s
  | .rol d a b => Sys2Proof.Machine.execRol d a b s
  | .ror d a b => Sys2Proof.Machine.execRor d a b s
  | .addw d a b => Sys2Proof.Machine.execAddw d a b s
  | .sllw d a b => Sys2Proof.Machine.execSllw d a b s
  | .srlw d a b => Sys2Proof.Machine.execSrlw d a b s
  | .subw d a b => Sys2Proof.Machine.execSubw d a b s
  | .sraw d a b => Sys2Proof.Machine.execSraw d a b s
  | .mulw d a b => Sys2Proof.Machine.execMulw d a b s
  | .divw d a b => Sys2Proof.Machine.execDivw d a b s
  | .divuw d a b => Sys2Proof.Machine.execDivuw d a b s
  | .remw d a b => Sys2Proof.Machine.execRemw d a b s
  | .remuw d a b => Sys2Proof.Machine.execRemuw d a b s
  | .addUw d a b => Sys2Proof.Machine.execAddUw d a b s
  | .zextH d a => Sys2Proof.Machine.execZextH d a s
  | .sh1addUw d a b => Sys2Proof.Machine.execSh1addUw d a b s
  | .sh2addUw d a b => Sys2Proof.Machine.execSh2addUw d a b s
  | .sh3addUw d a b => Sys2Proof.Machine.execSh3addUw d a b s
  | .rolw d a b => Sys2Proof.Machine.execRolw d a b s
  | .rorw d a b => Sys2Proof.Machine.execRorw d a b s
  | .amoaddW d a b q l => Sys2Proof.Machine.execAmoaddW d a b q l s
  | .amoaddD d a b q l => Sys2Proof.Machine.execAmoaddD d a b q l s
  | .amoswapW d a b q l => Sys2Proof.Machine.execAmoswapW d a b q l s
  | .amoswapD d a b q l => Sys2Proof.Machine.execAmoswapD d a b q l s
  | .amoxorW d a b q l => Sys2Proof.Machine.execAmoxorW d a b q l s
  | .amoxorD d a b q l => Sys2Proof.Machine.execAmoxorD d a b q l s
  | .amoorW d a b q l => Sys2Proof.Machine.execAmoorW d a b q l s
  | .amoorD d a b q l => Sys2Proof.Machine.execAmoorD d a b q l s
  | .amoandW d a b q l => Sys2Proof.Machine.execAmoandW d a b q l s
  | .amoandD d a b q l => Sys2Proof.Machine.execAmoandD d a b q l s
  | .amominW d a b q l => Sys2Proof.Machine.execAmominW d a b q l s
  | .amominD d a b q l => Sys2Proof.Machine.execAmominD d a b q l s
  | .amomaxW d a b q l => Sys2Proof.Machine.execAmomaxW d a b q l s
  | .amomaxD d a b q l => Sys2Proof.Machine.execAmomaxD d a b q l s
  | .amominuW d a b q l => Sys2Proof.Machine.execAmominuW d a b q l s
  | .amominuD d a b q l => Sys2Proof.Machine.execAmominuD d a b q l s
  | .amomaxuW d a b q l => Sys2Proof.Machine.execAmomaxuW d a b q l s
  | .amomaxuD d a b q l => Sys2Proof.Machine.execAmomaxuD d a b q l s
  | .csrrw d a c => Sys2Proof.Machine.execCsrrw d a c s
  | .csrrs d a c => Sys2Proof.Machine.execCsrrs d a c s
  | .csrrc d a c => Sys2Proof.Machine.execCsrrc d a c s
  | .csrrwi d c u => Sys2Proof.Machine.execCsrrwi d c u s
  | .csrrsi d c u => Sys2Proof.Machine.execCsrrsi d c u s
  | .csrrci d c u => Sys2Proof.Machine.execCsrrci d c u s
  | .vl d a im => Sys2Proof.Machine.execVl d a im s
  | .vlTr d a z sl => Sys2Proof.Machine.execVlTr d a z sl s
  | .vs b a im => Sys2Proof.Machine.execVs b a im s
  | .vadd d a b t => Sys2Proof.Machine.execVadd d a b t s
  | .vsub d a b t => Sys2Proof.Machine.execVsub d a b t s
  | .vmul d a b t => Sys2Proof.Machine.execVmul d a b t s
  | .vmulh d a b u t => Sys2Proof.Machine.execVmulh d a b u t s
  | .vmac d a b u t => Sys2Proof.Machine.execVmac d a b u t s
  | .vmin d a b u t => Sys2Proof.Machine.execVmin d a b u t s
  | .vmax d a b u t => Sys2Proof.Machine.execVmax d a b u t s
  | .vabs d a t => Sys2Proof.Machine.execVabs d a t s
  | .vand d a b => Sys2Proof.Machine.execVand d a b s
  | .vor d a b => Sys2Proof.Machine.execVor d a b s
  | .vxor d a b => Sys2Proof.Machine.execVxor d a b s
  | .vsll d a b t => Sys2Proof.Machine.execVsll d a b t s
  | .vsrl d a b t => Sys2Proof.Machine.execVsrl d a b t s
  | .vsra d a b t => Sys2Proof.Machine.execVsra d a b t s
  | .vcmpEq d a b t => Sys2Proof.Machine.execVcmpEq d a b t s
  | .vcmpNe d a b t => Sys2Proof.Machine.execVcmpNe d a b t s
  | .vcmpLt d a b u t => Sys2Proof.Machine.execVcmpLt d a b u t s
  | .vcmpLe d a b u t => Sys2Proof.Machine.execVcmpLe d a b u t s
  | .vfadd d a b t => Sys2Proof.Machine.execVfadd d a b t s
  | .vfsub d a b t => Sys2Proof.Machine.execVfsub d a b t s
  | .vfmul d a b t => Sys2Proof.Machine.execVfmul d a b t s
  | .vfma d a b t => Sys2Proof.Machine.execVfma d a b t s
  | .vfmin d a b t => Sys2Proof.Machine.execVfmin d a b t s
  | .vfmax d a b t => Sys2Proof.Machine.execVfmax d a b t s
  | .vdot d a b u t => Sys2Proof.Machine.execVdot d a b u t s
  | .vredsum d a u t => Sys2Proof.Machine.execVredsum d a u t s
  | .vredmax d a u t => Sys2Proof.Machine.execVredmax d a u t s
  | .vredmin d a u t => Sys2Proof.Machine.execVredmin d a u t s
  | .vrcp d a t => Sys2Proof.Machine.execVrcp d a t s
  | .vrsqrt d a t => Sys2Proof.Machine.execVrsqrt d a t s
  | .vexp2 d a t => Sys2Proof.Machine.execVexp2 d a t s
  | .vlog2 d a t => Sys2Proof.Machine.execVlog2 d a t s
  | .vtanh d a t => Sys2Proof.Machine.execVtanh d a t s
  | .verf d a t => Sys2Proof.Machine.execVerf d a t s
  | .vperm d a b t => Sys2Proof.Machine.execVperm d a b t s
  | .vzip d a b t => Sys2Proof.Machine.execVzip d a b t s
  | .vunzip d a b t => Sys2Proof.Machine.execVunzip d a b t s
  | .vbcast d a t => Sys2Proof.Machine.execVbcast d a t s
  | .vext d a im t => Sys2Proof.Machine.execVext d a im t s
  | .vins d a im t => Sys2Proof.Machine.execVins d a im t s
  | .vmv d a => Sys2Proof.Machine.execVmv d a s
  | .vmxEnc d a sl e t => Sys2Proof.Machine.execVmxEnc d a sl e t s
  | .vmxDec d a e t => Sys2Proof.Machine.execVmxDec d a e t s
  | .vsel d a b c t => Sys2Proof.Machine.execVsel d a b c t s
  | .vcvt d a t sl u m => Sys2Proof.Machine.execVcvt d a t sl u m s
  | .vtabEnc d a sl u => Sys2Proof.Machine.execVtabEnc d a sl u s
  | .vtabDec d a t => Sys2Proof.Machine.execVtabDec d a t s
  | .ldAcq d a => Sys2Proof.Machine.execLdAcq d a s
  | .sdRel a b => Sys2Proof.Machine.execSdRel a b s
  | .amoScSwap d a b w => Sys2Proof.Machine.execAmoScSwap d a b w s
  | .amoScAdd d a b w => Sys2Proof.Machine.execAmoScAdd d a b w s
  | .amoScMin d a b u w => Sys2Proof.Machine.execAmoScMin d a b u w s
  | .amoScMax d a b u w => Sys2Proof.Machine.execAmoScMax d a b u w s
  | .amoScCas d a b w => Sys2Proof.Machine.execAmoScCas d a b w s
  | .fenceS d sl k => Sys2Proof.Machine.execFenceS d sl k s
  | .depJoin d a v w => Sys2Proof.Machine.execDepJoin d a v w s
  | .depClr d a v => Sys2Proof.Machine.execDepClr d a v s
  | .depWait a w => Sys2Proof.Machine.execDepWait a w s
  | .waitAddr d a b o => Sys2Proof.Machine.execWaitAddr d a b o s
  | .barInit a b => Sys2Proof.Machine.execBarInit a b s
  | .barArrive a => Sys2Proof.Machine.execBarArrive a s
  | .barWait a => Sys2Proof.Machine.execBarWait a s
  | .waitAny d a b => Sys2Proof.Machine.execWaitAny d a b s
  | .rdFwd d a b => Sys2Proof.Machine.execRdFwd d a b s
  | .rdCast d a b => Sys2Proof.Machine.execRdCast d a b s
  | .peerErr d a => Sys2Proof.Machine.execPeerErr d a s
  | .peerId d a => Sys2Proof.Machine.execPeerId d a s
  | .peerClr a => Sys2Proof.Machine.execPeerClr a s
  | .tsGet d => Sys2Proof.Machine.execTsGet d s
  | .widGet d => Sys2Proof.Machine.execWidGet d s
  | .nodeCh d a b => Sys2Proof.Machine.execNodeCh d a b s
  | .callAt a b => Sys2Proof.Machine.execCallAt a b s
  | .msgWait a b => Sys2Proof.Machine.execMsgWait a b s
  | .taskPush a => Sys2Proof.Machine.execTaskPush a s
  | .taskPop d => Sys2Proof.Machine.execTaskPop d s
  | .taskSplit d a => Sys2Proof.Machine.execTaskSplit d a s
  | .taskSteal d a => Sys2Proof.Machine.execTaskSteal d a s
  | .taskCnt d => Sys2Proof.Machine.execTaskCnt d s
  | .follow a => Sys2Proof.Machine.execFollow a s
  | .engPush a => Sys2Proof.Machine.execEngPush a s
  | .engQfence im => Sys2Proof.Machine.execEngQfence im s
  | .engWait im => Sys2Proof.Machine.execEngWait im s
  | .engStat d im => Sys2Proof.Machine.execEngStat d im s
  | .engSave a => Sys2Proof.Machine.execEngSave a s
  | .engResume a => Sys2Proof.Machine.execEngResume a s
  | .accTake im => Sys2Proof.Machine.execAccTake im s
  | .accGive im => Sys2Proof.Machine.execAccGive im s
  | .shpLd a im => Sys2Proof.Machine.execShpLd a im s
  | .shpSt a im => Sys2Proof.Machine.execShpSt a im s
  | .shpEvict im => Sys2Proof.Machine.execShpEvict im s
  | .tblLd a => Sys2Proof.Machine.execTblLd a s
  | .vaccLd d a => Sys2Proof.Machine.execVaccLd d a s
  | .vaccSt a b => Sys2Proof.Machine.execVaccSt a b s
  | .rkCfg a => Sys2Proof.Machine.execRkCfg a s
  | .rkSend a b => Sys2Proof.Machine.execRkSend a b s
  | .rkFold sl => Sys2Proof.Machine.execRkFold sl s
  | .rkStat d sl => Sys2Proof.Machine.execRkStat d sl s
  | .rkDrain sl => Sys2Proof.Machine.execRkDrain sl s
  | .rkGrad a b sl => Sys2Proof.Machine.execRkGrad a b sl s
  | .rkWgrad a b sl => Sys2Proof.Machine.execRkWgrad a b sl s
  | .waveCfg a sl => Sys2Proof.Machine.execWaveCfg a sl s
  | .waveCloseInstr sl => Sys2Proof.Machine.execWaveCloseInstr sl s
  | .waveWait sl => Sys2Proof.Machine.execWaveWait sl s
  | .trCfg a => Sys2Proof.Machine.execTrCfg a s
  | .trDesc a => Sys2Proof.Machine.execTrDesc a s
  | .trPath d a => Sys2Proof.Machine.execTrPath d a s
  | .trBwd d a b => Sys2Proof.Machine.execTrBwd d a b s
  | .collGo a => Sys2Proof.Machine.execCollGo a s
  | .collWait a => Sys2Proof.Machine.execCollWait a s
  | .collStat d a => Sys2Proof.Machine.execCollStat d a s
  | .strmCfg a u => Sys2Proof.Machine.execStrmCfg a u s
  | .frep a l m n => Sys2Proof.Machine.execFrep a l m n s
  | .strmBind u => Sys2Proof.Machine.execStrmBind u s
  | .strmEnd u => Sys2Proof.Machine.execStrmEnd u s
  | .ctxSave a => Sys2Proof.Machine.execCtxSave a s
  | .ctxLoad d a => Sys2Proof.Machine.execCtxLoad d a s
  | .sleep a => Sys2Proof.Machine.execSleep a s
  | .dbgMark a => Sys2Proof.Machine.execDbgMark a s
  | .compressedInstruction p => Sys2Proof.Machine.execCompressedInstruction p s
  | .ecall => Sys2Proof.Machine.execEcall s
  | .ebreak => Sys2Proof.Machine.execEbreak s
  | .suspend => Sys2Proof.Machine.execSuspend s
  | .yield => Sys2Proof.Machine.execYield s
  | .exit => Sys2Proof.Machine.execExit s
  | .followEnd => Sys2Proof.Machine.execFollowEnd s
  | .rkEnc => Sys2Proof.Machine.execRkEnc s
  | .trapRet => Sys2Proof.Machine.execTrapRet s
  | .icacheInv => Sys2Proof.Machine.execIcacheInv s
  | .dbgStop => Sys2Proof.Machine.execDbgStop s
  | .matins => Sys2Proof.Machine.execMatins s
  | .firmwareRecoveryImage => Sys2Proof.Machine.execFirmwareRecoveryImage s
  | .attestationRequest => Sys2Proof.Machine.execAttestationRequest s
  | .attestationQueuedServe => Sys2Proof.Machine.execAttestationQueuedServe s
  | .powerSample => Sys2Proof.Machine.execPowerSample s
  | .monitorRefresh => Sys2Proof.Machine.execMonitorRefresh s
  | .mdroopRead => Sys2Proof.Machine.execMdroopRead s
  | .registerWrite => Sys2Proof.Machine.execRegisterWrite s
  | .flitBoundary => Sys2Proof.Machine.execFlitBoundary s
  | .packetReceive => Sys2Proof.Machine.execPacketReceive s
  | .flitCrcError => Sys2Proof.Machine.execFlitCrcError s
  | .allowanceReturn => Sys2Proof.Machine.execAllowanceReturn s
  | .allowanceReturnSend => Sys2Proof.Machine.execAllowanceReturnSend s
  | .allowanceReturnTimeout => Sys2Proof.Machine.execAllowanceReturnTimeout s
  | .stripeChange => Sys2Proof.Machine.execStripeChange s
  | .replayRequest => Sys2Proof.Machine.execReplayRequest s
  | .acknowledge => Sys2Proof.Machine.execAcknowledge s
  | .modeChange => Sys2Proof.Machine.execModeChange s
  | .identity => Sys2Proof.Machine.execIdentity s
  | .unknownControlFlit => Sys2Proof.Machine.execUnknownControlFlit s
  | .laneMarginFailure => Sys2Proof.Machine.execLaneMarginFailure s
  | .trainingComplete => Sys2Proof.Machine.execTrainingComplete s
  | .trainingFail => Sys2Proof.Machine.execTrainingFail s
  | .retrainComplete => Sys2Proof.Machine.execRetrainComplete s
  | .retrainFail => Sys2Proof.Machine.execRetrainFail s
  | .signalLost => Sys2Proof.Machine.execSignalLost s
  | .announceDarkEnter => Sys2Proof.Machine.execAnnounceDarkEnter s
  | .signalReturn => Sys2Proof.Machine.execSignalReturn s
  | .darkTimerExpiry => Sys2Proof.Machine.execDarkTimerExpiry s
  | .relockComplete => Sys2Proof.Machine.execRelockComplete s
  | .relockFail => Sys2Proof.Machine.execRelockFail s
  | .lnkCmdPark => Sys2Proof.Machine.execLnkCmdPark s
  | .lnkCmdWake => Sys2Proof.Machine.execLnkCmdWake s
  | .lnkCmdRetrainPam4 => Sys2Proof.Machine.execLnkCmdRetrainPam4 s
  | .lnkCmdForceNrz => Sys2Proof.Machine.execLnkCmdForceNrz s
  | .lnkCmdAnnounceDark => Sys2Proof.Machine.execLnkCmdAnnounceDark s
  | .lnkCmdReserved => Sys2Proof.Machine.execLnkCmdReserved s
  | .lnkEnSet => Sys2Proof.Machine.execLnkEnSet s
  | .lnkEnClear => Sys2Proof.Machine.execLnkEnClear s
  | .idleParkExpiry => Sys2Proof.Machine.execIdleParkExpiry s
  | .wakeDepthTrigger => Sys2Proof.Machine.execWakeDepthTrigger s
  | .wakeStripeChange => Sys2Proof.Machine.execWakeStripeChange s
  | .gridCapture => Sys2Proof.Machine.execGridCapture s
  | .packetInject => Sys2Proof.Machine.execPacketInject s
  | .routePacket => Sys2Proof.Machine.execRoutePacket s
  | .deadlockEscape => Sys2Proof.Machine.execDeadlockEscape s
  | .sequencedPacketArrival => Sys2Proof.Machine.execSequencedPacketArrival s
  | .retryResend => Sys2Proof.Machine.execRetryResend s
  | .read => Sys2Proof.Machine.execRead s
  | .write => Sys2Proof.Machine.execWrite s
  | .atomic => Sys2Proof.Machine.execAtomic s
  | .readData => Sys2Proof.Machine.execReadData s
  | .writeAcknowledge => Sys2Proof.Machine.execWriteAcknowledge s
  | .atomicResult => Sys2Proof.Machine.execAtomicResult s
  | .peerTimeout => Sys2Proof.Machine.execPeerTimeout s
  | .forwardRequest => Sys2Proof.Machine.execForwardRequest s
  | .forwardData => Sys2Proof.Machine.execForwardData s
  | .forwardStatus => Sys2Proof.Machine.execForwardStatus s
  | .drainMarker => Sys2Proof.Machine.execDrainMarker s
  | .fabricDrain => Sys2Proof.Machine.execFabricDrain s
  | .taskRecord => Sys2Proof.Machine.execTaskRecord s
  | .returnMessage => Sys2Proof.Machine.execReturnMessage s
  | .parkedRecordPlace => Sys2Proof.Machine.execParkedRecordPlace s
  | .collective => Sys2Proof.Machine.execCollective s
  | .lwmAnnounce => Sys2Proof.Machine.execLwmAnnounce s
  | .commit => Sys2Proof.Machine.execCommit s
  | .replayCheck => Sys2Proof.Machine.execReplayCheck s
  | .bar2Access => Sys2Proof.Machine.execBar2Access s
  | .ctxCreate => Sys2Proof.Machine.execCtxCreate s
  | .ctxDestroy => Sys2Proof.Machine.execCtxDestroy s
  | .ctxRetrySave => Sys2Proof.Machine.execCtxRetrySave s
  | .ctxCmdReserved => Sys2Proof.Machine.execCtxCmdReserved s
  | .doorbell => Sys2Proof.Machine.execDoorbell s
  | .launchAccept => Sys2Proof.Machine.execLaunchAccept s
  | .hostIrq => Sys2Proof.Machine.execHostIrq s
  | .cplGo => Sys2Proof.Machine.execCplGo s
  | .cplQuiesceComplete => Sys2Proof.Machine.execCplQuiesceComplete s
  | .cplCopyComplete => Sys2Proof.Machine.execCplCopyComplete s
  | .cplCopyError => Sys2Proof.Machine.execCplCopyError s
  | .cplBoundExceeded => Sys2Proof.Machine.execCplBoundExceeded s
  | .cplSealComplete => Sys2Proof.Machine.execCplSealComplete s
  | .cplRestore => Sys2Proof.Machine.execCplRestore s
  | .cplRestoreComplete => Sys2Proof.Machine.execCplRestoreComplete s
  | .cplHoldRelease => Sys2Proof.Machine.execCplHoldRelease s
  | .twilightFreeze => Sys2Proof.Machine.execTwilightFreeze s
  | .twilightRead => Sys2Proof.Machine.execTwilightRead s
  | .sidebandDump => Sys2Proof.Machine.execSidebandDump s
  | .xltInv => Sys2Proof.Machine.execXltInv s
  | .xltInvComplete => Sys2Proof.Machine.execXltInvComplete s
  | .tlbWalkComplete => Sys2Proof.Machine.execTlbWalkComplete s
  | .spadHash => Sys2Proof.Machine.execSpadHash s
  | .spadGate => Sys2Proof.Machine.execSpadGate s
  | .dsramGate => Sys2Proof.Machine.execDsramGate s
  | .bankWakeComplete => Sys2Proof.Machine.execBankWakeComplete s
  | .launchAdmit => Sys2Proof.Machine.execLaunchAdmit s
  | .poolTopup => Sys2Proof.Machine.execPoolTopup s
  | .dispatchPlace => Sys2Proof.Machine.execDispatchPlace s
  | .recordPickup => Sys2Proof.Machine.execRecordPickup s
  | .balance => Sys2Proof.Machine.execBalance s
  | .launchComplete => Sys2Proof.Machine.execLaunchComplete s
  | .farLoadData => Sys2Proof.Machine.execFarLoadData s
  | .deferredExecute => Sys2Proof.Machine.execDeferredExecute s
  | .asyncTrapDelivery => Sys2Proof.Machine.execAsyncTrapDelivery s
  | .ctxStopped => Sys2Proof.Machine.execCtxStopped s
  | .ctxSaveWritten => Sys2Proof.Machine.execCtxSaveWritten s
  | .ctxSaveFail => Sys2Proof.Machine.execCtxSaveFail s
  | .ctxRestoreStart => Sys2Proof.Machine.execCtxRestoreStart s
  | .ctxRestoreDone => Sys2Proof.Machine.execCtxRestoreDone s
  | .queueWriteback => Sys2Proof.Machine.execQueueWriteback s
  | .entryStart => Sys2Proof.Machine.execEntryStart s
  | .entryOvertake => Sys2Proof.Machine.execEntryOvertake s
  | .entryAge => Sys2Proof.Machine.execEntryAge s
  | .mma => Sys2Proof.Machine.execMma s
  | .mmaz => Sys2Proof.Machine.execMmaz s
  | .azero => Sys2Proof.Machine.execAzero s
  | .aload => Sys2Proof.Machine.execAload s
  | .astore => Sys2Proof.Machine.execAstore s
  | .queueFence => Sys2Proof.Machine.execQueueFence s
  | .copy => Sys2Proof.Machine.execCopy s
  | .decomp => Sys2Proof.Machine.execDecomp s
  | .compr => Sys2Proof.Machine.execCompr s
  | .gather => Sys2Proof.Machine.execGather s
  | .scatter => Sys2Proof.Machine.execScatter s
  | .fill => Sys2Proof.Machine.execFill s
  | .nzscan => Sys2Proof.Machine.execNzscan s
  | .signal => Sys2Proof.Machine.execSignal s
  | .inletStore => Sys2Proof.Machine.execInletStore s
  | .waveTick => Sys2Proof.Machine.execWaveTick s
  | .barrierArrival => Sys2Proof.Machine.execBarrierArrival s
  | .waitWake => Sys2Proof.Machine.execWaitWake s
  | .waitAnyTimeout => Sys2Proof.Machine.execWaitAnyTimeout s
  | .sleepExpiry => Sys2Proof.Machine.execSleepExpiry s
  | .breakpointMatch => Sys2Proof.Machine.execBreakpointMatch s
  | .debugResume => Sys2Proof.Machine.execDebugResume s
  | .sampleTick => Sys2Proof.Machine.execSampleTick s
  | .rplGo => Sys2Proof.Machine.execRplGo s
  | .accessPerformedAtHome => Sys2Proof.Machine.execAccessPerformedAtHome s
  | .powerRemoval => Sys2Proof.Machine.execPowerRemoval s

end Sys2Proof.Machine
end

