-- ==== Sys2Proof/Machine/Auto.lean ====
section
/-! DEFINITION. Machine/Auto.lean: the events that the device's own units may take next. Which of them comes first the spec leaves open: the
step chooses by a free value. What comes from outside (the host, the FMC, the far end of a link) and timers whose end is a
failure wait in `pending` instead. An event of this list whose condition does not hold after all changes nothing. -/
namespace Sys2Proof.Machine

/-- An event with its numbers. -/
def event (i : Instr) (n : Nat := 0) (k : Nat := 0) (flag : Bool := false) (m : Nat := 0) : Instr × EvIn := (i, { n := n, k := k, flag := flag, m := m })

/-- An event by which the device goes on with what an event from outside has begun. -/
def ownEvent (i : Instr) (n : Nat) : Instr × EvIn := (i, { n := n, own := true })

/-- Far accesses (R127, R173, R248, R53, R67). -/
def farEvents (s : State) : List (Instr × EvIn) :=
  s.far.flatMap (fun f =>
    if f.performed then (if f.gives && !f.own then [event .farLoadData f.id] else [])
    else if f.over then []
    else match f.kind with
      | .forward _ => if f.dev = 0 then [event .forwardRequest f.id 1] else [event .packetInject f.id]
      | _ =>
        if f.dev != 0 then (if f.sent then [] else [event .packetInject f.id])
        else (List.range f.pieces.length).map (fun j => event (if toInlet s f then .inletStore else .accessPerformedAtHome) f.id j))
/-- The router, the ports and what has arrived for this device (R32, R33, R39, R52, R57, R63 to R69). -/
def fabricEvents (s : State) : List (Instr × EvIn) :=
  let f := s.fabric
  (if f.inject.isEmpty then [] else [event .packetInject 0 0 true]) ++
  (if f.router.isEmpty then [] else [event .routePacket]) ++
  s.ports.flatMap (fun p =>
    let v : Port := p.2
    (List.range 4).flatMap (fun c => match (v.chan c).ingress with
      | [] => []
      | pk :: _ => if pk.kind = 0x0B then [event .drainMarker p.1 c] else [event .routePacket (p.1 + 1) c]) ++
    (if v.state = .up && (!v.control.isEmpty || !v.resend.isEmpty || (List.range 4).any v.ready) then
      [event .flitBoundary p.1 0 false (Config.eventAt s.steps)] else []) ++
    (if 64 ≤ v.freedSlots then [event .allowanceReturnSend p.1] else if v.freedSlots = 0 then [] else [event .allowanceReturnTimeout p.1]) ++
    (if v.announce then [event .announceDarkEnter p.1] else []) ++
    (if v.wakeen && max 1 v.wakedepth.toNat ≤ v.depth then [event .wakeDepthTrigger p.1] else [])) ++
  f.deliver.flatMap (fun pk => match pk.kind.toNat with
    | 0x02 => [event .readData]
    | 0x04 => [event .writeAcknowledge]
    | 0x06 => [event .atomicResult]
    | 0x08 => [event .forwardData]
    | 0x09 => [event .forwardStatus]
    | 0x0C => [event .collective 0 0 true]
    | _ => [event .sequencedPacketArrival]) ++
  (List.range f.serve.length).flatMap (fun i => [event .read i, event .write i, event .atomic i, event .forwardRequest i, event .taskRecord i, event .returnMessage i]) ++
  ((List.range f.deliveries.length).filter (fun i => f.deliveries[i]?.any (fun d => decide (d.done < d.bytes)))).map (fun i => event .forwardRequest i 0 true) ++
  (f.requests.filter (fun r => r.retry && (r.again || r.oldest s))).map (fun r => event .retryResend (pTag r.pkt)) ++
  s.coll.map (fun c => event .collective c.id)
/-- Translation, banks and segments (R159, R161, R162). -/
def memoryEvents (s : State) : List (Instr × EvIn) :=
  (List.range s.xlt.walks.length).map (fun i => event .tlbWalkComplete i) ++
  (if s.xlt.invs.isEmpty then [] else [event .xltInvComplete]) ++
  s.clusters.flatMap (fun p => (setBitsOf 64 (p.2.wake ||| (p.2.gate &&& ~~~p.2.off)).toNat).map (fun b => event .bankWakeComplete p.1 b)) ++
  s.dies.flatMap (fun p => (setBitsOf 10 (p.2.wake ||| (p.2.gate &&& ~~~p.2.off)).toNat).map (fun g => event .bankWakeComplete p.1 g true))
/-- Launches and their records (R93, R103 to R120, R196, R197, R85). -/
def launchEvents (s : State) : List (Instr × EvIn) :=
  s.ctxs.flatMap (fun p => if p.2.live && p.2.lqHead != p.2.doorbell then [event .launchAccept p.1] else []) ++
  (if s.launches.any (fun l => !l.admitted) then [event .launchAdmit] else []) ++
  (s.launches.filter (fun l => l.admitted)).flatMap (fun l =>
    l.clusters.flatMap (fun a =>
      (if l.undealt a.cluster then [event .poolTopup l.seq a.cluster] else []) ++
      (if (tget l.pools a.cluster []).isEmpty && (tget l.poolRecords a.cluster []).isEmpty then [] else [event .dispatchPlace l.seq a.cluster])) ++
    l.tids.flatMap (fun t =>
      (if isIdle (s.thread t) && (!(dequeOf s (coreOf t) l.seq).isEmpty || !l.replayRecords.isEmpty) then [event .recordPickup t] else []) ++
      (match (s.thread t).run with
       | .committing _ => [event .commit t l.seq]
       | _ => match (s.thread t).act with
         | some a => if a.want || a.commitDone || (a.irrevocable && a.wsig != 0) then [event .commit t l.seq] else []
         | none => [])) ++
    (if l.ordered then [event .lwmAnnounce l.seq] else []) ++
    (if l.phaseOpen then [event .commit 0x4000 l.seq] else []) ++
    (if l.phaseState = .replayCheck then [event .replayCheck l.seq] else []) ++
    (if 2 ≤ l.cores.length then [event .balance l.seq] else []) ++
    (if launchOver s l then [event .launchComplete l.seq] else []))
/-- Saves, restores, traps from fault records, Compline, dumps (R290, R293 to R297, R96, R306). -/
def contextEvents (s : State) : List (Instr × EvIn) :=
  s.ctxs.flatMap (fun p =>
    let x : Ctx := p.2
    (if x.faults.isEmpty then [] else [event .asyncTrapDelivery p.1]) ++
    (match x.save with
     | .stopping => [event .ctxStopped p.1, event .ctxStopped p.1 0 true]
     | .writing => [event .ctxSaveWritten p.1, event .ctxSaveFail p.1]
     | .saved => if x.restoreWanted then [event .ctxRestoreStart p.1] else []
     | .restoring => [event .ctxRestoreDone p.1]
     | _ => []) ++
    (if x.dump.isSome then [event .sidebandDump p.1] else [])) ++
  (match s.cpl.state with
   | .quiesce => [event .cplQuiesceComplete]
   | .copy => if s.cpl.tier then [ownEvent .cplCopyComplete 0] else []
   | .sealing => if s.cpl.tier then [ownEvent .cplSealComplete 0] else []
   | _ => []) ++
  ((s.posted.map hostFn).eraseDups).map (ownEvent .bar2Access) ++
  (if s.pkg.signing.isSome then [event .attestationQueuedServe] else [])
/-- The event of a running entry's opcode (R386). -/
def opEvent (op : Nat) : Option Instr :=
  match op with
  | 0x01 => some .mma
  | 0x02 => some .mmaz
  | 0x03 => some .azero
  | 0x04 => some .aload
  | 0x05 => some .astore
  | 0x10 => some .copy
  | 0x11 => some .decomp
  | 0x12 => some .compr
  | 0x13 => some .gather
  | 0x14 => some .scatter
  | 0x15 => some .fill
  | 0x16 => some .nzscan
  | 0x17 => some .signal
  | _ => none
/-- Engines, waiters and ticks of a core (R111, R117, R261, R295, R324, R391, R398). -/
def coreEvents (s : State) : List (Instr × EvIn) :=
  s.cores.flatMap (fun p =>
    let c : Core := p.2
    [0, 1].flatMap (fun q =>
      let u := queueOf s p.1 q
      (match u.running with
       | some e => (match opEvent (tcwOp e.tcw) with | some i => [event i p.1 q] | none => [])
       | none => match nextEntry s p.1 q with
         | some e => if e.fence.isSome then [event .queueFence p.1 q] else [event .entryStart p.1 q]
         | none => []) ++
      (if q = 0 && u.running.isSome && !u.queued.isEmpty then [event .entryOvertake p.1 q] else []) ++
      (u.queued ++ u.paused.toList).map (fun e => event .entryAge p.1 q false e.id) ++
      (if u.writeback.isEmpty then [] else [event .queueWriteback p.1 q])) ++
    (List.range c.waiters.length).flatMap (fun i => [event .returnMessage p.1 i true, event .parkedRecordPlace p.1 i]) ++
    (c.rx.toList.filterMap (fun r => r.bind (fun (x : RxStream) => if x.spike then some (event .waveTick x.period) else none))) ++
    (c.rxSaved.filterMap (fun (r : Nat × RxStream) => if r.2.spike then some (event .waveTick r.2.period) else none)))
/-- Sleepers, barrier arrivals, samples, the grid (R45, R302, R358, R359, R361, R436). -/
def waitEvents (s : State) : List (Instr × EvIn) :=
  s.wakes.map (fun t => event .waitWake t) ++ (List.range s.barSent.length).map (fun i => event .barrierArrival i) ++
  s.threads.flatMap (fun p => match p.2.run with
    | .sleepCount => [event .sleepExpiry p.1]
    | .sleepAny _ true => [event .waitAnyTimeout p.1]
    | _ => []) ++
  (if bitsOf s.dbg.sampCtl 31 0 = 0 || s.dbg.sampBase = 0 then [] else [event .sampleTick]) ++
  (if s.grid.int = 0 then [] else [event .gridCapture]) ++ (if s.dbg.rplRunning then [event .rplGo] else [])

/-- Every event that the device may take of its own. [DEDUCED, safe: log 6] -/
def autoEvents (s : State) : List (Instr × EvIn) :=
  farEvents s ++ fabricEvents s ++ memoryEvents s ++ launchEvents s ++ contextEvents s ++ coreEvents s ++ waitEvents s

end Sys2Proof.Machine
end

