-- ==== Sys2Proof/Machine/Run.lean ====
section
/-! DEFINITION. Machine/Run.lean: what a step does: the turn of a thread set (R121), with its window, its followers' queue (R122, R123) and its
repetition buffer (R140), or an event, of the device or from outside; and how a program is put where the next step fetches. -/
namespace Sys2Proof.Machine

/-! ## An instruction of the executing thread set -/

/-- The body instruction at a repetition's position kept in its buffer (R140). -/
def keepBody (s : State) (i : Instr) (len : Nat) : State :=
  match s.th.rep with
  | some r => if r.depth = 0 then s.setTh { s.th with rep := some { r with buf := tset r.buf r.pos (s.th.pc, len, i) } } else s
  | none => s
/-- An instruction executed at the PC: in a repetition body with its staggered names, after the range check of its first execution (R140,
R141). -/
def runAt (s : State) (i : Instr) (len : Nat) : Host.Outcome State Fault Refusal :=
  let s := { s with ilen := len, winRun := none }
  match s.th.rep with
  | some r =>
    if r.depth != 0 then exec i s
    else if r.pass = 0 && !staggerOk r i then .next (if s.th.entries.isEmpty then repTrap s else s)
    else exec (stagger r i) s
  | none => exec i s
/-- The instruction fetched at the PC (R307 to R309); a trap of the fetch waits for an empty window. [DEDUCED, unsafe: log 16] -/
def fetchAndRun (s : State) : Host.Outcome State Fault Refusal :=
  match fetchInstr s s.th.pc with
  | .wait s => .next s
  | .trap s c a => .next (if s.th.entries.isEmpty then takeTrap s c a else s)
  | .ok s d len =>
    match decodeCause s d, d with
    | none, .ok i => runAt (keepBody s i len) i len
    | some c, _ => .next (illegal s c)
    | none, _ => .next (illegal s 0x01)
/-- The next instruction of the thread set's own stream: from the repetition buffer on later passes, else fetched. -/
def ownNext (s : State) : Host.Outcome State Fault Refusal :=
  match s.th.rep with
  | some r =>
    (match (if r.depth = 0 && r.pass != 0 then tfind r.buf r.pos else none) with
     | some (_, len, i) => runAt s i len
     | none => fetchAndRun s)
  | none => fetchAndRun s
/-- The next instruction of a follower (R122, R123): the oldest broadcast one, if it stands at the follower's PC; the follower detaches
where it does not, where it cannot accept it now, and where its PC does not go on as the leader's did. [DEDUCED, unsafe: log 97] -/
def followNext (s : State) (f : Following) : Host.Outcome State Fault Refusal :=
  let alone := fun (s : State) => s.setTh { s.th with fol := none }
  match f.queue with
  | [] => ownNext (alone s)
  | b :: rest =>
    if b.pc != s.th.pc then ownNext (alone s)
    else
      let s1 := s.setTh { s.th with fol := some { f with queue := rest } }
      match runAt (keepBody s1 b.instr b.len) b.instr b.len with
      | .next s2 => .next (if s2.th.pc == s.th.pc || s2.th.pc != b.next || (rest.isEmpty && f.detach) then alone s2 else s2)
      | o => o
/-- A new instruction issues, unless a deferred trap or the held entries of a return come first (R131), the window is full, which a follower
cannot wait for (R129, R123), or a breakpoint matches (R301). -/
def issueNew (s : State) : Host.Outcome State Fault Refusal :=
  if s.th.defTrap.isSome || s.th.drain || s.th.begun.isSome || xltWaits s s.cur then .next s
  else if 16 ≤ s.th.entries.length then .next (if s.th.fol.isSome then s.setTh { s.th with fol := none } else s)
  else if breakpointHit s then exec .breakpointMatch s
  else match s.th.fol with
    | some f => followNext s f
    | none => ownNext s
/-- The turn of the executing thread set: the instruction that keeps it, else an entry of its window, else a new instruction (R129, R273).
Where its context stops it executes only what a pre-emption lets finish (R293, R451). -/
def runThread (s : State) : Host.Outcome State Fault Refusal :=
  match onlyAt s s.cur with
  | some a =>
    (match tryEntries ((windowOrder s.th).filter (fun p => p.1.pc == a)) s with
     | (.next s1, false) => if s1.th.pc == a then issueNew s1 else .next s1
     | (o, _) => o)
  | none =>
    if s.th.hold && s.th.defTrap.isNone then issueNew s
    else match windowTurn s with
    | (.next s1, false) => issueNew s1
    | (o, _) => o

/-! ## Turns -/

/-- Whether a thread set is ready (R121): a follower only with a broadcast instruction, or when it is to go on alone. -/
def ready (s : State) (tid : Nat) : Bool :=
  mayTurn s tid && (match (s.thread tid).fol with | some f => !f.queue.isEmpty || f.detach | none => true)
/-- The first ready thread set of a core after the one that issued last (R121), but for those that have had a turn since and could not
issue: they are not ready. [DESIGN CHOICE, unsafe: log 3] -/
def readyOn (s : State) (g : Nat) : Option Nat :=
  (([1, 2, 3, 4].map (fun i => ((s.core g).lastIssued + i) % 4)).find? (fun t => ready s (4 * g + t) && !(s.core g).tried.contains t)).map
    (fun t => 4 * g + t)
/-- A ready thread set of some core, the first by its number. -/
def anyReady (s : State) : Option Nat :=
  (s.threads.find? (fun p => ready s p.1 && !(s.core (coreOf p.1)).tried.contains (p.1 % 4))).bind (fun p => readyOn s (coreOf p.1))
/-- Every thread set may have a turn again: something has happened. -/
def untried (s : State) : State :=
  if s.cores.all (fun p => p.2.tried.isEmpty) then s else { s with cores := tmap s.cores (fun _ (c : Core) => { c with tried := [] }) }
/-- The state in which a thread set's turn runs: it is the core's last to issue, and its core's bound read streams prefetch. -/
def turnState (s : State) (tid : Nat) : State :=
  prefetchOn ({ s with cur := tid }.setCore (coreOf tid) { s.core (coreOf tid) with lastIssued := tid % 4, tried := [] }) (coreOf tid)
/-- Whether a thread set's turn has issued or executed something. -/
def progressed (t u : Thread) : Bool :=
  t.instret != u.instret || t.pc != u.pc || t.window != u.window || t.run != u.run || t.kernel != u.kernel || t.defTrap != u.defTrap ||
  t.stopHeld != u.stopHeld || t.drain != u.drain
/-- After a turn from a state: where nothing was issued the thread set was not ready, and the turn of its core stands where it stood (R121).
[DEDUCED, unsafe: log 9] -/
def afterTurn (s : State) (tid : Nat) (o : Host.Outcome State Fault Refusal) : Host.Outcome State Fault Refusal :=
  match o with
  | .next u =>
    let c := s.core (coreOf tid)
    .next (if progressed (s.thread tid) (u.thread tid) then untried u
      else u.setCore (coreOf tid) { u.core (coreOf tid) with lastIssued := c.lastIssued, tried := c.tried ++ [tid % 4] })
  | x => x
/-- A thread set's turn. -/
def giveTurn (s : State) (tid : Nat) : Host.Outcome State Fault Refusal := afterTurn s tid (runThread (turnState s tid))

/-- Whether an event can reach the device as it stands: without power only Matins and the removal of power; in the recovery state an image
and accesses to its window, in a freeze the FMC's reads (R21, R305); with power always the monitors, their refresh and the status (R14, R15,
R99). [DESIGN CHOICE, unsafe: log 126] -/
def reaches (p : Power) (i : Instr) : Bool :=
  i == .matins || i == .powerRemoval ||
  match p with
  | .ready => true
  | .frozen => i == .twilightRead || i == .mdroopRead || i == .monitorRefresh
  | .waitImage => i == .firmwareRecoveryImage || i == .registerWrite || i == .mdroopRead || i == .monitorRefresh
  | .stopped _ => i == .mdroopRead || i == .monitorRefresh
  | .off => false
/-- The state in which an event runs: accesses that have been given up have left their queues. -/
def eventState (s : State) (e : Instr × EvIn) : State := { settleReplay (untried s) with ev := e.2 }
/-- An event taken. [DESIGN CHOICE, safe: log 117] -/
def takeEvent (s : State) (e : Instr × EvIn) : Host.Outcome State Fault Refusal :=
  if reaches s.pkg.power e.1 then exec e.1 (eventState s e) else .next s
/-- The event of a step: one of the device's own, or the oldest that waits outside, as the free choice falls. -/
def eventTurn (s : State) (pick : Nat) : Option (Host.Outcome State Fault Refusal) :=
  let own := if s.pkg.power == .ready then autoEvents s else []
  match s.pending, own with
  | [], [] => none
  | [], [e] => some (takeEvent s e)
  | p :: r, [] => some (takeEvent { s with pending := r } p)
  | [], l => (l[pick % l.length]?).map (fun e => takeEvent s e)
  | p :: r, l => if pick % (l.length + 1) = l.length then some (takeEvent { s with pending := r } p) else (l[pick % (l.length + 1)]?).map (fun e => takeEvent s e)
/-- One step: a turn of the core that is to have it, if one of its thread sets is ready; else an event; else any ready thread set. Whose
turn the next step is, is a free choice. [DESIGN CHOICE, unsafe: log 2] -/
def runStep (s : State) : Host.Outcome State Fault Refusal :=
  let s1 := { s with steps := s.steps + 1, turn := Config.turnAt s.steps }
  let on := s.pkg.power == .ready
  match (match s.turn with | some g => (if on then readyOn s g else none) | none => none) with
  | some tid => giveTurn s1 tid
  | none =>
    match eventTurn s1 (Config.eventAt s.steps) with
    | some o => o
    | none =>
      match (if on then anyReady s else none) with
      | some tid => giveTurn s1 tid
      | none => .next (if on then untried s1 else s1)

/-! ## A program put in place -/

/-- Where a placed program stands: a page of HBM at its own address. -/
def placedAt : Nat := 0x10000
/-- The launch that a placed program runs in: one core, one thread set, all tiles, the core's whole TCM, four units of the scratchpad. -/
def placedLaunch (n : Nat) : Launch := {
  seq := n, ctx := 0, seed := 0,
  packet := [0, 1, 0, BitVec.ofNat 64 (8 * 2 ^ 25 + 2 ^ 22 + 2 ^ 17 + 2 ^ 8), BitVec.ofNat 64 (4 * 2 ^ 6 + 32)] ++ List.replicate 27 0
  kernel := true, admitted := true
  cores := [{ core := 0, tcm := 0, tile := 0, ts := [0] }], clusters := [{ cluster := 0, spad := 0 }], live := 1, lwm := none }
/-- Thread set 0 of core 0 running in kernel mode, its registers kept. -/
def placedThread (t : Thread) (n : Nat) : Thread := {
  t with
  pc := BitVec.ofNat 64 placedAt, kernel := true, window := [], defTrap := none, drain := false, tdepth := 0, hold := false, rep := none, fol := none, mark := none
  act := some { launch := n, record := {} }, run := .running, stopHeld := false, noMatch := false, anyList := none, anyOver := false }
/-- A state with the bytes of an instruction at the address that its next step fetches from. [DESIGN CHOICE, safe: log 1] -/
def placeProgram (s : State) (bs : List Byte) : State :=
  let n := s.nextSeq
  let t := placedThread (s.thread 0) n
  let s := { s with
    pending := [], turn := some 0, cur := 0, winRun := none, nextSeq := n + 1
    launches := placedLaunch n :: s.launches.filter (fun l => (l.onCore 0).isNone)
    mem := memPuts s.mem placedAt bs, poison := s.poison.filter (fun u => !(placedAt < u + 64 && u < placedAt + 64))
    pkg := { s.pkg with power := .ready }, dbg := { s.dbg with en := false }
    xlt := { s.xlt with micro := tset s.xlt.micro 0 [{ ctx := 0, vpage := placedAt / 0x10000, pages := 1, phys := placedAt, rights := 0xFF }] } }
  let s := s.setCtx 0 { s.ctx 0 with live := true, save := .running }
  let s := s.setCluster 0 { s.cluster 0 with icache := [] }
  let s := s.setCore 0 { s.core 0 with lastIssued := 3, tried := [] }
  s.setThread 0 t

end Sys2Proof.Machine
end

