-- ==== Sys2Proof/Machine/Step.lean ====
section
/-! DEFINITION. Machine/Step.lean: the step, and a state whose next step executes a given instruction. -/
namespace Sys2Proof.Machine

/-- One step of the device. -/
def step (s : State) : Host.Outcome State Fault Refusal := runStep s

/-- `s` with an instruction whose bits are `w` where the next step fetches: four bytes, the bits above `nbits` zero. A program comes to
run by launches (R93 to R109); this stands for one that is resident. -/
def State.withFetchWord (s : State) (nbits w : Nat) : State := placeProgram s (natBytes 4 (w % 2 ^ nbits))

end Sys2Proof.Machine
end

