-- ==== Sys2Proof/Safety.lean ====
section
/-! DEFINITION. Safety.lean: the terms in which claims are stated: when a thread set has nothing outstanding, and the state right after an
instruction that writes one register, moves the PC or traps, with everything else as it was. -/
namespace Sys2Proof.Machine

/-- The thread set that is to execute has nothing outstanding: no window entry, no far access, no repetition, no follower, no bound
stream, no register with an error and no result with a mismatch; the instruction executes in its own turn. -/
def quiet (s : State) : Bool :=
  s.winRun.isNone && s.th.window.isEmpty && s.th.rep.isNone && s.th.fol.isNone &&
  s.far.all (fun f => f.tid != s.cur) &&
  s.threads.all (fun p => match p.2.fol with | some f => f.leader != s.cur | none => true) &&
  (List.range 4).all (fun i => (boundUnit s i).isNone) && s.th.bad == 0 && s.th.misres == 0

/-- A thread set that has gone on to another PC: one more instruction is counted (INSTRET). -/
def Thread.wentTo (t : Thread) (pc : Word) : Thread := { t with pc := pc, instret := t.instret + 1, noMatch := false, hold := false }
/-- A thread set past the instruction at its PC, of a length in bytes. -/
def Thread.past (t : Thread) (len : Nat) : Thread := t.wentTo (t.pc + BitVec.ofNat 64 len)

/-- After an instruction that writes an x register and nothing else: its masks are `m`, and x0 discards the write (R125). -/
def afterX (s : State) (d : Reg) (m : Mask) (v : Word) : State := s.setTh ((s.th.putX d v m).past s.ilen)
/-- After an instruction that writes a v register and nothing else. -/
def afterV (s : State) (d : Reg) (m : Mask) (v : VWord) : State := s.setTh ((s.th.putV d v m).past s.ilen)
/-- After an instruction that changes nothing but the PC. -/
def afterNone (s : State) : State := s.setTh (s.th.past s.ilen)
/-- After a jump to an address. -/
def afterJump (s : State) (pc : Word) : State := s.setTh (s.th.wentTo pc)
/-- The masks of one and of two x registers together (R127). -/
def maskOf (s : State) (a : Reg) : Mask := s.th.maskX a
def masksOf (s : State) (a b : Reg) : Mask := (s.th.maskX a).or (s.th.maskX b)

/-- A local access at a key under masks `m` need not wait. -/
def localFree (s : State) (m : Mask) (k n : Nat) : Bool :=
  (m.taint &&& s.th.outstanding) == 0 && !farTouches s s.cur k n && s.replay.isEmpty && !homeWaits s k n
/-- n bytes at `a` lie at the key `k` in an own window of the executing thread set (R147, R104), and an access under masks `m` is
performed there at once: no slot of its taint is outstanding, no earlier far access touches its words, no access waits in a replay queue,
its banks are on and awake and its check words good (R146, R152, R163, R176, R178, R185). -/
def nearAt (s : State) (m : Mask) (a : Word) (n k : Nat) (reads : Bool) : Bool :=
  (match localKey s s.cur a n with | .ok k' => k' == k | .error _ => false) && localFree s m k n && (homeFails s k n reads).isNone
/-- After a local store of bytes at a key (R185). -/
def afterStore (s : State) (k : Nat) (bs : List Byte) : State := (memWrite s k bs).setTh (s.th.past s.ilen)
/-- Stores of parts that follow each other from a key on, each for itself (R146). -/
def storesAt (s : State) (k : Nat) (parts : List (List Byte)) : State :=
  (parts.foldl (fun (acc : State × Nat) p => (memWrite acc.1 acc.2 p, acc.2 + p.length)) (s, k)).1
/-- After an instruction of such local stores (R395). -/
def afterStores (s : State) (k : Nat) (parts : List (List Byte)) : State := (storesAt s k parts).setTh (s.th.past s.ilen)
/-- After a local atomic: the bytes at a key, and the old value in an x register (R333). -/
def afterAmo (s : State) (d : Reg) (m : Mask) (k : Nat) (bs : List Byte) (old : Word) : State :=
  (memWrite s k bs).setTh ((s.th.putX d old m).past s.ilen)
/-- The number in n bytes at a key (R7). -/
def numAt (s : State) (k n : Nat) : Nat := leNat (memGets s.mem k n)

/-- The state at the start of a step. -/
def begun (s : State) : State := { s with steps := s.steps + 1, turn := Config.turnAt s.steps }
/-- The state at the start of a thread set's turn: it is the last of its core to issue (R121). -/
def turnOf (s : State) (tid : Nat) : State := turnState (begun s) tid
/-- The executing thread set is to execute the instruction at its PC: no walk that it waits for, window entry, deferred trap, repetition
or leader comes first, no breakpoint matches and no stop of its context limits what it executes (R121 to R131, R140, R293, R301). -/
def atPlainPc (s : State) : Bool :=
  (onlyAt s s.cur).isNone && !xltWaits s s.cur && s.th.window.isEmpty && s.th.defTrap.isNone && !s.th.drain && s.th.rep.isNone && s.th.fol.isNone &&
  !breakpointHit s

/-- n bytes at a key lie outside the backing tiers of a launch's deque on a core (R104, R110). -/
def offTiers (s : State) (l : Launch) (g k n : Nat) : Prop := ∀ q key, tierKey s l g q = some key → k + n ≤ key ∨ key + 64 ≤ k
/-- n bytes at a key hold no entry of the page tables that place the die-SRAM tier of a launch's deque on a core (R100, R110). -/
def tablesOff (s : State) (l : Launch) (g k n : Nat) : Prop :=
  ∀ q, q < l.dqsram → ∀ a ∈ walkPath s l.ctx (l.dqbase + 64 * (l.dqsram * g + q)), a + 8 ≤ k ∨ k + n ≤ a
/-- No backing tier of a launch's deques lies on the page tables that place the tiers (R100, R110). -/
def tablesApart (s : State) (l : Launch) : Prop := ∀ g h q key, tierKey s l g q = some key → tablesOff s l h key 64
/-- The memory of two states agrees outside the backing tiers of a launch's deque on a core. -/
def sameOffTiers (s t : State) (l : Launch) (g : Nat) : Prop := ∀ j, offTiers s l g j 1 → memGet t.mem j = memGet s.mem j

/-! ## Lanes -/

/-- The masks of one, two and three v registers together (R181). -/
def maskV (s : State) (a : Reg) : Mask := s.th.maskV a
def masksV (s : State) (a b : Reg) : Mask := (s.th.maskV a).or (s.th.maskV b)
def masksVV (s : State) (a b c : Reg) : Mask := ((s.th.maskV a).or (s.th.maskV b)).or (s.th.maskV c)
/-- Draws taken in a mode, where an instruction rounds n lanes in it (R230): n in SR, none in another. -/
def drawsIn (mode n : Nat) : Nat := if mode = 5 then n else 0
/-- The draw of the j-th lane in a mode (R230); 0 where the mode takes none. -/
def drawIn (s : State) (mode j : Nat) : Nat :=
  if mode = 5 then drawOf s.lseed.toNat (srSel s.th.srctr) s.th.wid.toNat ((srCnt s.th.srctr + j) % 2 ^ 32) else 0
/-- SRCTR after n draws (R230). -/
def srctrPast (c : Word) (n : Nat) : Word := BitVec.ofNat 64 (srSel c * 2 ^ 32 + (srCnt c + n) % 2 ^ 32)
/-- After an instruction that writes a v register, ORs flags into FFLAGS and takes n draws, and nothing else (R228, R230). -/
def afterFp (s : State) (d : Reg) (m : Mask) (v : VWord) (fl : FFlags) (n : Nat) : State :=
  s.setTh (({ s.th with fflags := s.th.fflags ||| fl, srctr := srctrPast s.th.srctr n }.putV d v m).past s.ilen)
/-- The instruction is refused with cause 0x23; which of its addresses FADDR then holds, the spec does not say. -/
def Rejects (i : Instr) (s : State) : Prop := ∃ f, exec i s = .next (takeTrap s 0x23 f)
/-- An instruction completes with lane j of vd the value `f j`, for every lane of width w, and changes nothing else (afterV). -/
def GivesLanes (i : Instr) (s : State) (d : Reg) (m : Mask) (w : Nat) (f : Nat → Nat) : Prop :=
  ∃ v, exec i s = .next (afterV s d m v) ∧ ∀ j, j < 128 / w → lane w v j = f j
/-- An instruction completes with the first k lanes of width w of vd the values `f`, the bits above them zero, the flags of all of them
in FFLAGS, n draws taken, and nothing else changed (afterFp). -/
def GivesFp (i : Instr) (s : State) (d : Reg) (m : Mask) (w k n : Nat) (f : Nat → Nat × FFlags) : Prop :=
  ∃ v : VWord, exec i s = .next (afterFp s d m v ((List.range k).foldl (fun g j => g ||| (f j).2) 0) n) ∧
    (∀ j, j < k → lane w v j = (f j).1 % 2 ^ w) ∧ v.toNat < 2 ^ (w * k)

/-! ## Engines -/

/-- The event's queue runs an entry of an opcode for a unit that may work and has no access on its way; the entry is none of those that a
commit has handed on, has not failed, notes no read, stands at the start of a step and is not to be overtaken (R295, R398, R199). -/
def engineAt (s : State) (op : Nat) (e : Entry) (u : UnitFor) : Prop :=
  (queueOf s s.ev.n s.ev.k).running = some e ∧ tcwOp e.tcw = op ∧ engineMay s s.ev.n s.ev.k e = true ∧ entryUnit s s.ev.n s.ev.k e = some u ∧
  (∀ f ∈ s.far, f.tid ≠ u.tid) ∧ e.fold = false ∧ e.failing = none ∧ (e.retired = true ∨ inOrdered s e.tid = false) ∧
  e.part = 0 ∧ (s.ev.k = 0 → overtakes s s.ev.n = none)
/-- n bytes at `a` lie at the key `k` in an own window of a unit's launch and can be reached now (R389, R163, R146). -/
def unitNear (s : State) (u : UnitFor) (a : Word) (n k : Nat) (reads : Bool) : Bool :=
  (match launchKey s u.launch u.core a n with | .ok k' => k' == k | .error _ => false) && s.replay.isEmpty && !homeWaits s k n && (homeFails s k n reads).isNone
/-- After one step of the running entry of the event's queue (R397). -/
def stepped (s : State) (e : Entry) : State := setRunning s s.ev.n s.ev.k { e with progress := e.progress + 1 }
/-- The first physical tile of a unit's launch on its core (R132). -/
def tileBase (s : State) (u : UnitFor) : Nat := match u.launch.onCore s.ev.n with | some a => a.tile | none => 0

end Sys2Proof.Machine
end

