-- ==== Sys2Proof/Certificates/Slice0/Obligations.lean ====
section
/-! DEFINITION. Certificates/Slice0/Obligations.lean: what is claimed of the model, each statement with the rules of spec/ that it says. -/
open Sys2Proof Sys2Proof.Machine

/-- R24: after Matins every SRAM byte, register, taint mask and accumulator element is zero, and no context exists: the records of every
thread set, core, cluster and die. -/
def Obligations.ResetIsBlank : Prop :=
  (∀ tid : Nat, State.reset.thread tid = {}) ∧
  (∀ tid : Nat, ∀ r : Reg, (State.reset.thread tid).getX r = 0 ∧ (State.reset.thread tid).getV r = 0 ∧
    (State.reset.thread tid).maskX r = {} ∧ (State.reset.thread tid).maskV r = {} ∧
    (State.reset.thread tid).pc = 0 ∧ (State.reset.thread tid).tvec = 0 ∧ (State.reset.thread tid).epc = 0 ∧
    (State.reset.thread tid).cause = 0 ∧ (State.reset.thread tid).fflags = 0) ∧
  (∀ g : Nat, ∀ i : Fin 8, ∀ k : Nat, tget ((State.reset.core g).tiles.get i).elems k 0 = 0) ∧
  (∀ g : Nat, ∀ i : Fin 8, ((State.reset.core g).tiles.get i).bad = [] ∧ ((State.reset.core g).tiles.get i).holder = none ∧
    (State.reset.core g).rx.get i = none) ∧
  (∀ g : Nat, ∀ i : Fin 32, (State.reset.core g).shapes.get i = none) ∧ (∀ g : Nat, ∀ i : Fin 4, (State.reset.core g).streams.get i = none) ∧
  (∀ g : Nat, (State.reset.core g).table = none ∧ (State.reset.core g).mq.all = [] ∧ (State.reset.core g).cq.all = [] ∧
    (State.reset.core g).tree.state = .free ∧ (State.reset.core g).tree.err = 0 ∧ (State.reset.core g).tree.block = [] ∧
    (State.reset.core g).rxSaved = [] ∧ (State.reset.core g).deques = [] ∧ (State.reset.core g).waiters = [] ∧
    (State.reset.core g).regRep = 0 ∧ (State.reset.core g).regUe = 0) ∧
  (∀ c : Nat, (State.reset.cluster c).m1 = 0 ∧ (State.reset.cluster c).m2 = 0 ∧ (State.reset.cluster c).pend = none ∧
    (State.reset.cluster c).gate = 0 ∧ (State.reset.cluster c).off = 0 ∧ (State.reset.cluster c).wake = 0 ∧
    (State.reset.cluster c).xmiss = 0 ∧ (State.reset.cluster c).xmerge = 0 ∧ (State.reset.cluster c).full = 0 ∧
    (∀ b : Nat, tget (State.reset.cluster c).confl b 0 = 0) ∧
    (∀ id : Nat, (tget (State.reset.cluster c).barriers id {}).holder = none)) ∧
  (∀ d : Nat, (State.reset.die d).gate = 0 ∧ (State.reset.die d).off = 0 ∧ (State.reset.die d).wake = 0 ∧
    (State.reset.die d).walks = 0 ∧ (State.reset.die d).wmerge = 0 ∧ (State.reset.die d).hbmce = 0 ∧
    (State.reset.die d).hbmue = 0 ∧ (State.reset.die d).thrcyc = 0) ∧
  (∀ k : Nat, (isSram k || isTcm k) = true → memGet State.reset.mem k = 0) ∧
  (∀ k : Nat, spadBase ≤ k → k < spadBase + 0x40000000 → memGet State.reset.mem k = 0) ∧
  (∀ c : Nat, (State.reset.ctx c).live = false) ∧ State.reset.launches = []

/-- R24, R146: the memory after reset is in the canonical form of the model. -/
def Obligations.ResetMemoryCanonical : Prop := Memory.wf State.reset.mem

/-- R146: a byte of memory has one value and one place; every step keeps the list of cells in its canonical form. -/
def Obligations.StepKeepsMemoryCanonical : Prop :=
  ∀ s t : State, Memory.wf s.mem → step s = .next t → Memory.wf t.mem

/-- R329 (its three worked words) and R307, R312 to R320: words written out bit by bit. -/
def Obligations.SampleWordsDecode : Prop :=
  decodeTableWord 32 0x60131E13 = some (.ctz 28 6) ∧ decodeTableWord 32 0x080343BB = some (.zextH 7 6) ∧
  decodeTableWord 32 0x0059302F = some (.amoaddD 0 18 5 0 0) ∧
  decodeTableWord 32 0b00000000001000001000000110110011 = some (.add 3 1 2) ∧
  decodeTableWord 32 0b11111111111100010000000010010011 = some (.addi 1 2 0xFFF) ∧
  decodeTableWord 32 0b00000000000000000000000001110011 = some .ecall ∧
  decodeTableWord 32 0b00000001000000010100000010000111 = some (.vl 1 2 0x010) ∧
  decodeTableWord 32 0b00000000001100010010000010001011 = some (.vadd 1 2 3 2) ∧
  decodeTableWord 32 0b11001000001100010010000010001011 = some (.vsel 1 2 3 4 2) ∧
  decodeTableWord 32 0b01000100101000010101000010101011 = some (.vcvt 1 2 8 1 10 5) ∧
  decodeTableWord 32 0b00000010001100010001000011011011 = some (.amoScSwap 1 2 3 1) ∧
  decodeTableWord 32 0b00000010001100010000000001011011 = some (.sdRel 2 3) ∧
  decodeTableWord 32 0b00000000000010011010000011011011 = some (.fenceS 1 4 3) ∧
  decodeTableWord 32 0b00000000000000000000001011111011 = some (.widGet 5) ∧
  decodeTableWord 32 0b00001110000000010000000001111011 = some (.taskPush 2) ∧
  decodeTableWord 32 0b00110101001000010101000011111011 = some (.frep 2 3 5 2) ∧
  decodeBytes [0, 0] = some (.illegal, 2, []) ∧ decodeBytes [0x1F, 0] = some (.illegal, 2, [])

/-- R307 to R321, R328, R329, R387, R409, R428: the decoder and the encoder agree on every well-formed instruction. -/
def Obligations.DecodeOfEncode : Prop :=
  ∀ (i : Instr) (w : Nat), i.wf = true → encode32 i = some w →
    decode32 w = .ok i ∧ (∀ rest : List Byte, decodeBytes (encode i ++ rest) = some (.ok i, 4, rest))

/-- R312: a 16-bit instruction is its expansion; the floating-point forms and the all-zero parcel raise 0x01. -/
def Obligations.CompressedExpands : Prop :=
  (∀ (p : BitVec 16) (i : Instr) (s : State), expandCompressed p = some i →
    exec (.compressedInstruction p) s = exec i { s with ilen := 2 }) ∧
  (∀ p : BitVec 16, decode16 p = if (expandCompressed p).isSome then .ok (.compressedInstruction p) else .illegal) ∧
  (∀ (p : BitVec 16) (s : State) (d a : Reg) (i : BitVec 12), expandCompressed p = some (.addi d a i) → quiet s = true →
    exec (.compressedInstruction p) s = .next (afterX { s with ilen := 2 } d (maskOf s a) (rdX s a + i.signExtend 64))) ∧
  (∀ (p : BitVec 16) (s : State), expandCompressed p = none → s.th.entries = [] →
    exec (.compressedInstruction p) s = .next (takeTrap s 0x01)) ∧
  (∀ p : BitVec 16, (p.toNat % 4 = 0 ∨ p.toNat % 4 = 2) → (p.toNat / 8192 = 1 ∨ p.toNat / 8192 = 5) → expandCompressed p = none) ∧
  expandCompressed 0 = none

/-- R121, R307 to R309: the step of a core's turn is exec of the instruction that the bytes at the PC decode to. How the round goes on after
a turn without an issue is the model's choice (log 9). -/
def Obligations.StepRunsDecoded : Prop :=
  ∀ (s s2 : State) (g tid : Nat) (d : Decoded) (len : Nat),
    s.turn = some g → s.pkg.power = .ready → readyOn s g = some tid → atPlainPc (turnOf s tid) = true →
    fetchInstr (turnOf s tid) (turnOf s tid).th.pc = .ok s2 d len →
    (∀ i, d = .ok i → step s = afterTurn (begun s) tid (exec i { s2 with ilen := len, winRun := none })) ∧
    (d = .illegal → step s = afterTurn (begun s) tid (.next (takeTrap s2 0x01))) ∧
    (∀ k, d = .reserved k → step s = afterTurn (begun s) tid (.next (takeTrap s2 (if k && !(turnOf s tid).th.kernel then 0x01 else 0x02)))) ∧
    (∀ u, progressed ((begun s).thread tid) (u.thread tid) = true → afterTurn (begun s) tid (.next u) = .next (untried u)) ∧
    (∀ u, progressed ((begun s).thread tid) (u.thread tid) = false → afterTurn (begun s) tid (.next u) =
      .next (u.setCore (coreOf tid) { u.core (coreOf tid) with lastIssued := (s.core (coreOf tid)).lastIssued, tried := (s.core (coreOf tid)).tried ++ [tid % 4] }))

/-- R21, R305 and spec/95: an event from outside is taken by the step whose turn it is; what cannot reach the device is lost. Which
events reach a device that is not ready is the model's choice (log 126), their order too (log 2). -/
def Obligations.StepTakesEvent : Prop :=
  (∀ (s : State) (e : Instr × EvIn) (rest : List (Instr × EvIn)),
    (s.turn = none ∨ s.pkg.power ≠ .ready) → s.pending = e :: rest → (s.pkg.power = .ready → autoEvents (begun s) = []) →
    (reaches s.pkg.power e.1 = true → step s = exec e.1 (eventState { begun s with pending := rest } e)) ∧
    (reaches s.pkg.power e.1 = false → step s = .next { begun s with pending := rest })) ∧
  (∀ s : State, s.pkg.power ≠ .ready → s.pending = [] → step s = .next (begun s)) ∧
  (∀ (p : Power) (i : Instr), reaches p i = true → p ≠ .ready →
    i = .matins ∨ i = .powerRemoval ∨ (p = .waitImage ∧ (i = .firmwareRecoveryImage ∨ i = .registerWrite ∨ i = .mdroopRead ∨ i = .monitorRefresh)) ∨
    (p = .frozen ∧ (i = .twilightRead ∨ i = .mdroopRead ∨ i = .monitorRefresh)) ∨ ((∃ n, p = .stopped n) ∧ (i = .mdroopRead ∨ i = .monitorRefresh)))

/-- R330, R127: the register forms of RV64I, Zba and Zbb on 64 bits. `afterX` is the whole next state: the frame is exact. -/
def Obligations.IntegerRegisterForms : Prop :=
  ∀ (s : State) (d a b : Reg), quiet s = true →
    exec (.add d a b) s = .next (afterX s d (masksOf s a b) (rdX s a + rdX s b)) ∧
    exec (.sub d a b) s = .next (afterX s d (masksOf s a b) (rdX s a - rdX s b)) ∧
    exec (.and d a b) s = .next (afterX s d (masksOf s a b) (rdX s a &&& rdX s b)) ∧
    exec (.or d a b) s = .next (afterX s d (masksOf s a b) (rdX s a ||| rdX s b)) ∧
    exec (.xor d a b) s = .next (afterX s d (masksOf s a b) (rdX s a ^^^ rdX s b)) ∧
    exec (.andn d a b) s = .next (afterX s d (masksOf s a b) (rdX s a &&& ~~~rdX s b)) ∧
    exec (.orn d a b) s = .next (afterX s d (masksOf s a b) (rdX s a ||| ~~~rdX s b)) ∧
    exec (.xnor d a b) s = .next (afterX s d (masksOf s a b) (~~~(rdX s a ^^^ rdX s b))) ∧
    exec (.sll d a b) s = .next (afterX s d (masksOf s a b) (rdX s a <<< ((rdX s b).toNat % 64))) ∧
    exec (.srl d a b) s = .next (afterX s d (masksOf s a b) (rdX s a >>> ((rdX s b).toNat % 64))) ∧
    exec (.sra d a b) s = .next (afterX s d (masksOf s a b) ((rdX s a).sshiftRight ((rdX s b).toNat % 64))) ∧
    exec (.slt d a b) s = .next (afterX s d (masksOf s a b) (if (rdX s a).toInt < (rdX s b).toInt then 1 else 0)) ∧
    exec (.sltu d a b) s = .next (afterX s d (masksOf s a b) (if (rdX s a).toNat < (rdX s b).toNat then 1 else 0)) ∧
    exec (.sh1add d a b) s = .next (afterX s d (masksOf s a b) (2 * rdX s a + rdX s b)) ∧
    exec (.sh2add d a b) s = .next (afterX s d (masksOf s a b) (4 * rdX s a + rdX s b)) ∧
    exec (.sh3add d a b) s = .next (afterX s d (masksOf s a b) (8 * rdX s a + rdX s b)) ∧
    exec (.min d a b) s = .next (afterX s d (masksOf s a b) (if (rdX s a).toInt < (rdX s b).toInt then rdX s a else rdX s b)) ∧
    exec (.minu d a b) s = .next (afterX s d (masksOf s a b) (if (rdX s a).toNat < (rdX s b).toNat then rdX s a else rdX s b)) ∧
    exec (.max d a b) s = .next (afterX s d (masksOf s a b) (if (rdX s a).toInt < (rdX s b).toInt then rdX s b else rdX s a)) ∧
    exec (.maxu d a b) s = .next (afterX s d (masksOf s a b) (if (rdX s a).toNat < (rdX s b).toNat then rdX s b else rdX s a)) ∧
    exec (.rol d a b) s = .next (afterX s d (masksOf s a b) ((rdX s a).rotateLeft ((rdX s b).toNat % 64))) ∧
    exec (.ror d a b) s = .next (afterX s d (masksOf s a b) ((rdX s a).rotateRight ((rdX s b).toNat % 64)))

/-- R330: the M extension. Division by zero and overflow give results and never trap. -/
def Obligations.MultiplyDivide : Prop :=
  (∀ (s : State) (d a b : Reg), quiet s = true →
    exec (.mul d a b) s = .next (afterX s d (masksOf s a b) (rdX s a * rdX s b)) ∧
    exec (.mulh d a b) s = .next (afterX s d (masksOf s a b) (BitVec.ofInt 64 ((rdX s a).toInt * (rdX s b).toInt / 2 ^ 64))) ∧
    exec (.mulhsu d a b) s = .next (afterX s d (masksOf s a b) (BitVec.ofInt 64 ((rdX s a).toInt * ((rdX s b).toNat : Int) / 2 ^ 64))) ∧
    exec (.mulhu d a b) s = .next (afterX s d (masksOf s a b) (BitVec.ofNat 64 ((rdX s a).toNat * (rdX s b).toNat / 2 ^ 64))) ∧
    exec (.mulw d a b) s = .next (afterX s d (masksOf s a b) (sextW (rdX s a * rdX s b))) ∧
    exec (.div d a b) s = .next (afterX s d (masksOf s a b) (divS (rdX s a) (rdX s b))) ∧
    exec (.divu d a b) s = .next (afterX s d (masksOf s a b) (divU (rdX s a) (rdX s b))) ∧
    exec (.rem d a b) s = .next (afterX s d (masksOf s a b) (remS (rdX s a) (rdX s b))) ∧
    exec (.remu d a b) s = .next (afterX s d (masksOf s a b) (remU (rdX s a) (rdX s b))) ∧
    exec (.divw d a b) s = .next (afterX s d (masksOf s a b) ((divS (lo32 (rdX s a)) (lo32 (rdX s b))).signExtend 64)) ∧
    exec (.divuw d a b) s = .next (afterX s d (masksOf s a b) ((divU (lo32 (rdX s a)) (lo32 (rdX s b))).signExtend 64)) ∧
    exec (.remw d a b) s = .next (afterX s d (masksOf s a b) ((remS (lo32 (rdX s a)) (lo32 (rdX s b))).signExtend 64)) ∧
    exec (.remuw d a b) s = .next (afterX s d (masksOf s a b) ((remU (lo32 (rdX s a)) (lo32 (rdX s b))).signExtend 64))) ∧
  (∀ x y : Word,
    (y = 0 → divS x y = BitVec.allOnes 64 ∧ divU x y = BitVec.allOnes 64 ∧ remS x y = x ∧ remU x y = x) ∧
    (x = BitVec.intMin 64 → y = BitVec.allOnes 64 → divS x y = x ∧ remS x y = 0) ∧
    (y ≠ 0 → ¬(x = BitVec.intMin 64 ∧ y = BitVec.allOnes 64) →
      (divS x y).toInt = x.toInt.tdiv y.toInt ∧ (remS x y).toInt = x.toInt.tmod y.toInt) ∧
    (y ≠ 0 → (divU x y).toNat = x.toNat / y.toNat ∧ (remU x y).toNat = x.toNat % y.toNat))

/-- R330, R328, R127: the immediate and one-source forms on 64 bits. -/
def Obligations.IntegerImmediateForms : Prop :=
  (∀ (s : State) (d a : Reg) (i : BitVec 12), quiet s = true →
    exec (.addi d a i) s = .next (afterX s d (maskOf s a) (rdX s a + i.signExtend 64)) ∧
    exec (.slti d a i) s = .next (afterX s d (maskOf s a) (if (rdX s a).toInt < (i.signExtend 64).toInt then 1 else 0)) ∧
    exec (.sltiu d a i) s = .next (afterX s d (maskOf s a) (if (rdX s a).toNat < (i.signExtend 64).toNat then 1 else 0)) ∧
    exec (.xori d a i) s = .next (afterX s d (maskOf s a) (rdX s a ^^^ i.signExtend 64)) ∧
    exec (.ori d a i) s = .next (afterX s d (maskOf s a) (rdX s a ||| i.signExtend 64)) ∧
    exec (.andi d a i) s = .next (afterX s d (maskOf s a) (rdX s a &&& i.signExtend 64))) ∧
  (∀ (s : State) (d a : Reg) (k : BitVec 6), quiet s = true →
    exec (.slli d a k) s = .next (afterX s d (maskOf s a) (rdX s a <<< k.toNat)) ∧
    exec (.srli d a k) s = .next (afterX s d (maskOf s a) (rdX s a >>> k.toNat)) ∧
    exec (.srai d a k) s = .next (afterX s d (maskOf s a) ((rdX s a).sshiftRight k.toNat)) ∧
    exec (.rori d a k) s = .next (afterX s d (maskOf s a) ((rdX s a).rotateRight k.toNat))) ∧
  (∀ (s : State) (d a : Reg), quiet s = true →
    exec (.clz d a) s = .next (afterX s d (maskOf s a) (BitVec.ofNat 64 (clzN 64 (rdX s a).toNat))) ∧
    exec (.ctz d a) s = .next (afterX s d (maskOf s a) (BitVec.ofNat 64 (ctzN 64 (rdX s a).toNat))) ∧
    exec (.cpop d a) s = .next (afterX s d (maskOf s a) (BitVec.ofNat 64 (popN 64 (rdX s a).toNat))) ∧
    exec (.sextB d a) s = .next (afterX s d (maskOf s a) (((rdX s a).truncate 8).signExtend 64)) ∧
    exec (.sextH d a) s = .next (afterX s d (maskOf s a) (((rdX s a).truncate 16).signExtend 64)) ∧
    exec (.orcB d a) s = .next (afterX s d (maskOf s a) (orcBytes (rdX s a))) ∧
    exec (.rev8 d a) s = .next (afterX s d (maskOf s a) (revBytes (rdX s a))) ∧
    exec (.zextH d a) s = .next (afterX s d (maskOf s a) (((rdX s a).truncate 16).zeroExtend 64))) ∧
  (∀ (s : State) (d : Reg) (i : BitVec 20), quiet s = true →
    exec (.lui d i) s = .next (afterX s d {} ((i ++ (0 : BitVec 12)).signExtend 64)) ∧
    exec (.auipc d i) s = .next (afterX s d {} (s.th.pc + (i ++ (0 : BitVec 12)).signExtend 64)))

/-- R330, R127: the W and UW forms. -/
def Obligations.IntegerWordForms : Prop :=
  (∀ (s : State) (d a b : Reg), quiet s = true →
    exec (.addw d a b) s = .next (afterX s d (masksOf s a b) (((rdX s a + rdX s b).truncate 32).signExtend 64)) ∧
    exec (.subw d a b) s = .next (afterX s d (masksOf s a b) (((rdX s a - rdX s b).truncate 32).signExtend 64)) ∧
    exec (.sllw d a b) s = .next (afterX s d (masksOf s a b) (((lo32 (rdX s a)) <<< ((rdX s b).toNat % 32)).signExtend 64)) ∧
    exec (.srlw d a b) s = .next (afterX s d (masksOf s a b) ((lo32 (rdX s a) >>> ((rdX s b).toNat % 32)).signExtend 64)) ∧
    exec (.sraw d a b) s = .next (afterX s d (masksOf s a b) (((lo32 (rdX s a)).sshiftRight ((rdX s b).toNat % 32)).signExtend 64)) ∧
    exec (.rolw d a b) s = .next (afterX s d (masksOf s a b) (((lo32 (rdX s a)).rotateLeft ((rdX s b).toNat % 32)).signExtend 64)) ∧
    exec (.rorw d a b) s = .next (afterX s d (masksOf s a b) (((lo32 (rdX s a)).rotateRight ((rdX s b).toNat % 32)).signExtend 64)) ∧
    exec (.addUw d a b) s = .next (afterX s d (masksOf s a b) ((lo32 (rdX s a)).zeroExtend 64 + rdX s b)) ∧
    exec (.sh1addUw d a b) s = .next (afterX s d (masksOf s a b) (2 * (lo32 (rdX s a)).zeroExtend 64 + rdX s b)) ∧
    exec (.sh2addUw d a b) s = .next (afterX s d (masksOf s a b) (4 * (lo32 (rdX s a)).zeroExtend 64 + rdX s b)) ∧
    exec (.sh3addUw d a b) s = .next (afterX s d (masksOf s a b) (8 * (lo32 (rdX s a)).zeroExtend 64 + rdX s b))) ∧
  (∀ (s : State) (d a : Reg) (i : BitVec 12), quiet s = true →
    exec (.addiw d a i) s = .next (afterX s d (maskOf s a) (((rdX s a + i.signExtend 64).truncate 32).signExtend 64))) ∧
  (∀ (s : State) (d a : Reg) (k : BitVec 5), quiet s = true →
    exec (.slliw d a k) s = .next (afterX s d (maskOf s a) (((lo32 (rdX s a)) <<< k.toNat).signExtend 64)) ∧
    exec (.srliw d a k) s = .next (afterX s d (maskOf s a) (((lo32 (rdX s a)) >>> k.toNat).signExtend 64)) ∧
    exec (.sraiw d a k) s = .next (afterX s d (maskOf s a) (((lo32 (rdX s a)).sshiftRight k.toNat).signExtend 64)) ∧
    exec (.roriw d a k) s = .next (afterX s d (maskOf s a) (((lo32 (rdX s a)).rotateRight k.toNat).signExtend 64))) ∧
  (∀ (s : State) (d a : Reg) (k : BitVec 6), quiet s = true →
    exec (.slliUw d a k) s = .next (afterX s d (maskOf s a) ((lo32 (rdX s a)).zeroExtend 64 <<< k.toNat))) ∧
  (∀ (s : State) (d a : Reg), quiet s = true →
    exec (.clzw d a) s = .next (afterX s d (maskOf s a) (BitVec.ofNat 64 (clzN 32 (lo32 (rdX s a)).toNat))) ∧
    exec (.ctzw d a) s = .next (afterX s d (maskOf s a) (BitVec.ofNat 64 (ctzN 32 (lo32 (rdX s a)).toNat))) ∧
    exec (.cpopw d a) s = .next (afterX s d (maskOf s a) (BitVec.ofNat 64 (popN 32 (lo32 (rdX s a)).toNat))))

/-- R331: branches and jumps. The 2 or 4 of the link is the length of the instruction's form. -/
def Obligations.BranchesAndJumps : Prop :=
  (∀ (s : State) (a b : Reg) (i : BitVec 12), quiet s = true →
    exec (.beq a b i) s = .next (if rdX s a = rdX s b then afterJump s (s.th.pc + (i ++ (0 : BitVec 1)).signExtend 64) else afterNone s) ∧
    exec (.bne a b i) s = .next (if rdX s a = rdX s b then afterNone s else afterJump s (s.th.pc + (i ++ (0 : BitVec 1)).signExtend 64)) ∧
    exec (.blt a b i) s = .next (if (rdX s a).toInt < (rdX s b).toInt then afterJump s (s.th.pc + (i ++ (0 : BitVec 1)).signExtend 64) else afterNone s) ∧
    exec (.bge a b i) s = .next (if (rdX s b).toInt ≤ (rdX s a).toInt then afterJump s (s.th.pc + (i ++ (0 : BitVec 1)).signExtend 64) else afterNone s) ∧
    exec (.bltu a b i) s = .next (if (rdX s a).toNat < (rdX s b).toNat then afterJump s (s.th.pc + (i ++ (0 : BitVec 1)).signExtend 64) else afterNone s) ∧
    exec (.bgeu a b i) s = .next (if (rdX s b).toNat ≤ (rdX s a).toNat then afterJump s (s.th.pc + (i ++ (0 : BitVec 1)).signExtend 64) else afterNone s)) ∧
  (∀ (s : State) (d : Reg) (i : BitVec 20), quiet s = true →
    exec (.jal d i) s = .next (s.setTh ((s.th.putX d (s.th.pc + BitVec.ofNat 64 s.ilen) {}).wentTo (s.th.pc + (i ++ (0 : BitVec 1)).signExtend 64)))) ∧
  (∀ (s : State) (d a : Reg) (i : BitVec 12), quiet s = true →
    exec (.jalr d a i) s = .next (s.setTh ((s.th.putX d (s.th.pc + BitVec.ofNat 64 s.ilen) (maskOf s a)).wentTo
      ((rdX s a + i.signExtend 64) &&& ~~~(1 : Word)))))

/-- R125, R127: what the next states of the register instructions keep. -/
def Obligations.FrameOfRegisterResults : Prop :=
  (∀ (s : State) (m : Mask) (v : Word),
    rdX s 0 = 0 ∧ s.th.maskX 0 = {} ∧ (wrX s m 0 v).th = s.th ∧
    (∀ r : Reg, r ≠ 0 → rdX (wrX s m r v) r = v ∧ (wrX s m r v).th.maskX r = m ∧
      ∀ q : Reg, q ≠ r → rdX (wrX s m r v) q = rdX s q ∧ (wrX s m r v).th.maskX q = s.th.maskX q)) ∧
  (∀ (s : State) (d : Reg) (m : Mask) (v : Word) (w : VWord) (pc : Word) (t : State),
    (t = afterX s d m v ∨ t = afterV s d m w ∨ t = afterNone s ∨ t = afterJump s pc) →
    (∀ k, memGet t.mem k = memGet s.mem k) ∧
    (∀ r : Reg, r ≠ d → rdX t r = rdX s r ∧ t.th.maskX r = s.th.maskX r ∧ rdV t r = rdV s r ∧ t.th.maskV r = s.th.maskV r) ∧
    (t ≠ afterX s d m v → ∀ r : Reg, rdX t r = rdX s r ∧ t.th.maskX r = s.th.maskX r) ∧
    (t ≠ afterV s d m w → ∀ r : Reg, rdV t r = rdV s r ∧ t.th.maskV r = s.th.maskV r) ∧
    (t = afterX s d m v → d ≠ 0 → rdX t d = v ∧ t.th.maskX d = m) ∧ (t = afterX s 0 m v → rdX t 0 = 0) ∧
    (t = afterV s d m w → rdV t d = w ∧ t.th.maskV d = m) ∧
    t.th.fflags = s.th.fflags ∧ t.th.frm = s.th.frm ∧ t.th.srctr = s.th.srctr ∧ t.th.instret = s.th.instret + 1 ∧
    t.th.kernel = s.th.kernel ∧ t.th.pmode = s.th.pmode ∧ t.th.epc = s.th.epc ∧ t.th.depc = s.th.depc ∧ t.th.cause = s.th.cause ∧
    t.th.faddr = s.th.faddr ∧ t.th.tvec = s.th.tvec ∧ t.th.kscratch = s.th.kscratch ∧ t.th.wid = s.th.wid ∧
    t.th.slots = s.th.slots ∧ t.th.window = s.th.window ∧ t.th.enc = s.th.enc ∧ t.th.rk = s.th.rk ∧ t.th.act = s.th.act ∧
    (t ≠ afterJump s pc → t.th.pc = s.th.pc + BitVec.ofNat 64 s.ilen) ∧ (t = afterJump s pc → t.th.pc = pc) ∧
    (∀ k, k ≠ s.cur → t.thread k = s.thread k) ∧
    t = { s with threads := t.threads }) ∧
  (∀ (s : State) (d : Reg) (m : Mask) (v : VWord) (fl : FFlags) (n : Nat), let t := afterFp s d m v fl n
    t = { s with threads := t.threads } ∧ t.th.x = s.th.x ∧ t.th.xm = s.th.xm ∧ rdV t d = v ∧ t.th.maskV d = m ∧
    (∀ r : Reg, r ≠ d → rdV t r = rdV s r ∧ t.th.maskV r = s.th.maskV r) ∧ t.th.fflags = s.th.fflags ||| fl ∧ t.th.frm = s.th.frm ∧
    (n = 0 → t.th.srctr = s.th.srctr) ∧ t.th.pc = s.th.pc + BitVec.ofNat 64 s.ilen ∧ t.th.slots = s.th.slots ∧ t.th.kernel = s.th.kernel ∧
    (∀ k, k ≠ s.cur → t.thread k = s.thread k))

/-- R348, R350, R351, R185: loads of the local class. -/
def Obligations.LocalLoads : Prop :=
  (∀ (s : State) (d a : Reg) (i : BitVec 12) (k : Nat), quiet s = true →
    (nearAt s (maskOf s a) (rdX s a + i.signExtend 64) 1 k true = true →
      exec (.lb d a i) s = .next (afterX s d (maskOf s a) ((BitVec.ofNat 8 (numAt s k 1)).signExtend 64))) ∧
    (nearAt s (maskOf s a) (rdX s a + i.signExtend 64) 2 k true = true →
      exec (.lh d a i) s = .next (afterX s d (maskOf s a) ((BitVec.ofNat 16 (numAt s k 2)).signExtend 64))) ∧
    (nearAt s (maskOf s a) (rdX s a + i.signExtend 64) 4 k true = true →
      exec (.lw d a i) s = .next (afterX s d (maskOf s a) ((BitVec.ofNat 32 (numAt s k 4)).signExtend 64))) ∧
    (nearAt s (maskOf s a) (rdX s a + i.signExtend 64) 8 k true = true →
      exec (.ld d a i) s = .next (afterX s d (maskOf s a) ((BitVec.ofNat 64 (numAt s k 8)).signExtend 64))) ∧
    (nearAt s (maskOf s a) (rdX s a + i.signExtend 64) 1 k true = true →
      exec (.lbu d a i) s = .next (afterX s d (maskOf s a) ((BitVec.ofNat 8 (numAt s k 1)).zeroExtend 64))) ∧
    (nearAt s (maskOf s a) (rdX s a + i.signExtend 64) 2 k true = true →
      exec (.lhu d a i) s = .next (afterX s d (maskOf s a) ((BitVec.ofNat 16 (numAt s k 2)).zeroExtend 64))) ∧
    (nearAt s (maskOf s a) (rdX s a + i.signExtend 64) 4 k true = true →
      exec (.lwu d a i) s = .next (afterX s d (maskOf s a) ((BitVec.ofNat 32 (numAt s k 4)).zeroExtend 64))) ∧
    (nearAt s (maskOf s a) (rdX s a + i.signExtend 64) 16 k true = true →
      exec (.vl d a i) s = .next (afterV s d (maskOf s a) (BitVec.ofNat 128 (numAt s k 16))))) ∧
  (∀ (s : State) (d a : Reg) (z : BitVec 2) (stride : BitVec 10) (ks : List Nat), quiet s = true → ks.length = 16 / 2 ^ z.toNat →
    (∀ j (h : j < ks.length), nearAt s (maskOf s a) (rdX s a + BitVec.ofNat 64 (j * stride.toNat)) (2 ^ z.toNat) ks[j] true = true ∧
      rowOf s (rdX s a + BitVec.ofNat 64 (j * stride.toNat)) = rowOf s (rdX s a)) →
    exec (.vlTr d a z stride) s =
      .next (afterV s d (maskOf s a) (BitVec.ofNat 128 (leNat (ks.flatMap (fun k => memGets s.mem k (2 ^ z.toNat)))))))

/-- R348, R350, R185: stores of the local class, with what they leave alone. -/
def Obligations.LocalStores : Prop :=
  (∀ (s : State) (a b : Reg) (i : BitVec 12) (k : Nat), quiet s = true →
    (nearAt s (masksOf s a b) (rdX s a + i.signExtend 64) 1 k false = true →
      exec (.sb b a i) s = .next (afterStore s k (natBytes 1 (rdX s b).toNat))) ∧
    (nearAt s (masksOf s a b) (rdX s a + i.signExtend 64) 2 k false = true →
      exec (.sh b a i) s = .next (afterStore s k (natBytes 2 (rdX s b).toNat))) ∧
    (nearAt s (masksOf s a b) (rdX s a + i.signExtend 64) 4 k false = true →
      exec (.sw b a i) s = .next (afterStore s k (natBytes 4 (rdX s b).toNat))) ∧
    (nearAt s (masksOf s a b) (rdX s a + i.signExtend 64) 8 k false = true →
      exec (.sd b a i) s = .next (afterStore s k (natBytes 8 (rdX s b).toNat))) ∧
    (nearAt s ((maskOf s a).or (s.th.maskV b)) (rdX s a + i.signExtend 64) 16 k false = true →
      exec (.vs b a i) s = .next (afterStore s k (natBytes 16 (rdV s b).toNat)))) ∧
  (∀ (s : State) (k n v : Nat), n ≤ 16 →
    (∀ j, (j < k ∨ k + n ≤ j) → memGet (afterStore s k (natBytes n v)).mem j = memGet s.mem j) ∧
    (Memory.wf s.mem → numAt (afterStore s k (natBytes n v)) k n = v % 2 ^ (8 * n)) ∧
    (afterStore s k (natBytes n v)).th = s.th.past s.ilen ∧
    (∀ q, q ≠ s.cur → (afterStore s k (natBytes n v)).thread q = s.thread q) ∧
    afterStore s k (natBytes n v) = { s with
      threads := (afterStore s k (natBytes n v)).threads, mem := (afterStore s k (natBytes n v)).mem,
      poison := (afterStore s k (natBytes n v)).poison, wakes := (afterStore s k (natBytes n v)).wakes })

/-- R104, R147, R148, R163, R146: the precise failures of local accesses, and of addresses that lead nowhere. -/
def Obligations.LocalAccessTraps : Prop :=
  ∀ (s : State) (d a b : Reg) (im : BitVec 12) (x : Word), quiet s = true → x = rdX s a + im.signExtend 64 →
    (∀ (i : Instr) (n : Nat) (reads : Bool) (m : Mask),
      (i, n, reads, m) ∈ [(Instr.lb d a im, 1, true, maskOf s a), (.lh d a im, 2, true, maskOf s a), (.lw d a im, 4, true, maskOf s a),
        (.ld d a im, 8, true, maskOf s a), (.lbu d a im, 1, true, maskOf s a), (.lhu d a im, 2, true, maskOf s a), (.lwu d a im, 4, true, maskOf s a),
        (.sb b a im, 1, false, masksOf s a b), (.sh b a im, 2, false, masksOf s a b), (.sw b a im, 4, false, masksOf s a b),
        (.sd b a im, 8, false, masksOf s a b)] →
      (∀ o bs len l, launchOf s s.cur = some l →
        ((decodeAddr s x = .ownTcm o ∧ tcmAllot l (coreOf s.cur) = some (bs, len)) ∨
         (decodeAddr s x = .ownSpad o ∧ spadAllot l (clusterOfCore (coreOf s.cur)) = some (bs, len))) → len < o + n →
        exec i s = .next (takeTrap s 0x11 x)) ∧
      (∀ c, isLocalAddr s x = true → localKey s s.cur x n = .error c → c = 0x11 ∧ exec i s = .next (takeTrap s 0x11 x)) ∧
      (decodeAddr s x = .nowhere → exec i s = .next (takeTrap s 0x10 x)) ∧
      (∀ o bs len l j, s.cur < 16384 → launchOf s s.cur = some l → decodeAddr s x = .ownSpad o →
        spadAllot l (clusterOfCore (coreOf s.cur)) = some (bs, len) → o + n ≤ len → bs + o + n ≤ 0x400000 →
        localFree s m (spadKey s (clusterOfCore (coreOf s.cur)) (bs + o)) n = true → j < n →
        (s.cluster (clusterOfCore (coreOf s.cur))).off.getLsbD (spadBank (s.cluster (clusterOfCore (coreOf s.cur))) (bs + o + j)) = true →
        exec i s = .next (takeTrap s 0x14 x)) ∧
      (∀ k u, localKey s s.cur x n = .ok k → localFree s m k n = true → (∀ w ∈ wordsOf k n, gateState s w ≠ 2) →
        u ∈ s.poison → u % 8 = 0 → isHbm u = false → u < k + n → k < u + 8 → (reads = true ∨ ¬(k ≤ u ∧ u + 8 ≤ k + n)) →
        exec i s = .next (takeTrap s 0x61 x))) ∧
    (∀ k, localKey s s.cur x 8 = .ok k → localFree s (masksOf s a b) k 8 = true → k % 8 = 0 → isHbm k = false → gateState s k ≠ 2 →
      exec (.sd b a im) s = .next (afterStore s k (natBytes 8 (rdX s b).toNat)) ∧
      k ∉ (afterStore s k (natBytes 8 (rdX s b).toNat)).poison)

/-- R128, R348: loads of the far class. `i` is the instruction, `n` its bytes, `dst` where its value is to go. -/
def Obligations.FarLoads : Prop :=
  ∀ (s s1 : State) (d a : Reg) (im : BitVec 12) (i : Instr) (n : Nat) (dst : Dest) (acq : Bool) (ks : List (Nat × Nat)) (j : Nat),
    ((i, n, dst, acq) ∈ [(Instr.lb d a im, 1, Dest.x d 8 true, false), (.lh d a im, 2, .x d 16 true, false), (.lw d a im, 4, .x d 32 true, false),
      (.ld d a im, 8, .x d 64 true, false), (.lbu d a im, 1, .x d 8 false, false), (.lhu d a im, 2, .x d 16 false, false),
      (.lwu d a im, 4, .x d 32 false, false), (.vl d a im, 16, .v d, false)] ∨
      (im = 0 ∧ (i, n, dst, acq) = (.ldAcq d a, 8, .x d 64 true, true) ∧ (rdX s a).toNat % 8 = 0)) →
    quiet s = true → buffers s = false → inOrdered s s.cur = false →
    place s (rdX s a + im.signExtend 64) n [rightRD] = .ok (s1, .far ks) → freeSlot s.th = some j →
    ∃ t, exec i s = .next t ∧ t.mem = s.mem ∧ t.th.pc = s.th.pc + BitVec.ofNat 64 s.ilen ∧
      (∃ f ∈ t.far, f.tid = s.cur ∧ f.kind = .load ∧ f.addr = rdX s a + im.signExtend 64 ∧ f.dest = dst ∧ f.slot = some j ∧
        f.taint = (maskOf s a).taint ∧ f.acq = acq ∧ f.performed = false ∧ t.th.slots.toList[j]? = some (.outstanding f.id)) ∧
      (∀ r bits sg, dst = .x r bits sg → r ≠ 0 → t.th.maskX r = { d := (maskOf s a).d ||| slotBit j, j := (maskOf s a).j }) ∧
      (∀ r, dst = .v r → t.th.maskV r = { d := (maskOf s a).d ||| slotBit j, j := (maskOf s a).j })

/-- R348, R173, R178: stores of the far class. -/
def Obligations.FarStores : Prop :=
  ∀ (s s1 : State) (a b : Reg) (im : BitVec 12) (i : Instr) (bs : List Byte) (m : Mask) (ks : List (Nat × Nat)),
    ((i, bs, m) ∈ [(Instr.sb b a im, natBytes 1 (rdX s b).toNat, masksOf s a b), (.sh b a im, natBytes 2 (rdX s b).toNat, masksOf s a b),
      (.sw b a im, natBytes 4 (rdX s b).toNat, masksOf s a b), (.sd b a im, natBytes 8 (rdX s b).toNat, masksOf s a b),
      (.vs b a im, natBytes 16 (rdV s b).toNat, (maskOf s a).or (s.th.maskV b))] ∨
      (im = 0 ∧ (i, bs, m) = (.sdRel a b, natBytes 8 (rdX s b).toNat, masksOf s a b) ∧ (rdX s a).toNat % 8 = 0)) →
    quiet s = true → buffers s = false → s.th.act = none ∨ inOrdered s s.cur = false →
    place s (rdX s a + im.signExtend 64) bs.length [rightWR] = .ok (s1, .far ks) →
    ∃ t, exec i s = .next t ∧ t.mem = s.mem ∧ t.th.pc = s.th.pc + BitVec.ofNat 64 s.ilen ∧
      (∀ r : Reg, rdX t r = rdX s r ∧ rdV t r = rdV s r ∧ t.th.maskX r = s.th.maskX r ∧ t.th.maskV r = s.th.maskV r) ∧
      (∃ f ∈ t.far, f.tid = s.cur ∧ f.kind = .store ∧ f.addr = rdX s a + im.signExtend 64 ∧ f.data = bs ∧ f.slot = none ∧
        f.taint = m.taint ∧ f.performed = false)

/-- R333, R352: the eighteen plain atomics, local class. -/
def Obligations.LocalAtomics : Prop :=
  (∀ (s : State) (d a b : Reg) (q l : BitVec 1) (k : Nat), quiet s = true → (rdX s a).toNat % 4 = 0 →
    nearAt s (masksOf s a b) (rdX s a) 4 k true = true →
    (∀ x y, x = BitVec.ofNat 32 (numAt s k 4) → y = (rdX s b).truncate 32 →
      exec (.amoaddW d a b q l) s = .next (afterAmo s d (masksOf s a b) k (natBytes 4 (x + y).toNat) (x.signExtend 64))) ∧
    (∀ x y, x = BitVec.ofNat 32 (numAt s k 4) → y = (rdX s b).truncate 32 →
      exec (.amoswapW d a b q l) s = .next (afterAmo s d (masksOf s a b) k (natBytes 4 (y).toNat) (x.signExtend 64))) ∧
    (∀ x y, x = BitVec.ofNat 32 (numAt s k 4) → y = (rdX s b).truncate 32 →
      exec (.amoxorW d a b q l) s = .next (afterAmo s d (masksOf s a b) k (natBytes 4 (x ^^^ y).toNat) (x.signExtend 64))) ∧
    (∀ x y, x = BitVec.ofNat 32 (numAt s k 4) → y = (rdX s b).truncate 32 →
      exec (.amoorW d a b q l) s = .next (afterAmo s d (masksOf s a b) k (natBytes 4 (x ||| y).toNat) (x.signExtend 64))) ∧
    (∀ x y, x = BitVec.ofNat 32 (numAt s k 4) → y = (rdX s b).truncate 32 →
      exec (.amoandW d a b q l) s = .next (afterAmo s d (masksOf s a b) k (natBytes 4 (x &&& y).toNat) (x.signExtend 64))) ∧
    (∀ x y, x = BitVec.ofNat 32 (numAt s k 4) → y = (rdX s b).truncate 32 →
      exec (.amominW d a b q l) s = .next (afterAmo s d (masksOf s a b) k (natBytes 4 (if x.toInt < y.toInt then x else y).toNat) (x.signExtend 64))) ∧
    (∀ x y, x = BitVec.ofNat 32 (numAt s k 4) → y = (rdX s b).truncate 32 →
      exec (.amomaxW d a b q l) s = .next (afterAmo s d (masksOf s a b) k (natBytes 4 (if x.toInt < y.toInt then y else x).toNat) (x.signExtend 64))) ∧
    (∀ x y, x = BitVec.ofNat 32 (numAt s k 4) → y = (rdX s b).truncate 32 →
      exec (.amominuW d a b q l) s = .next (afterAmo s d (masksOf s a b) k (natBytes 4 (if x.toNat < y.toNat then x else y).toNat) (x.signExtend 64))) ∧
    (∀ x y, x = BitVec.ofNat 32 (numAt s k 4) → y = (rdX s b).truncate 32 →
      exec (.amomaxuW d a b q l) s = .next (afterAmo s d (masksOf s a b) k (natBytes 4 (if x.toNat < y.toNat then y else x).toNat) (x.signExtend 64)))) ∧
  (∀ (s : State) (d a b : Reg) (q l : BitVec 1) (k : Nat), quiet s = true → (rdX s a).toNat % 8 = 0 →
    nearAt s (masksOf s a b) (rdX s a) 8 k true = true →
    (∀ x y, x = BitVec.ofNat 64 (numAt s k 8) → y = (rdX s b).truncate 64 →
      exec (.amoaddD d a b q l) s = .next (afterAmo s d (masksOf s a b) k (natBytes 8 (x + y).toNat) (x.signExtend 64))) ∧
    (∀ x y, x = BitVec.ofNat 64 (numAt s k 8) → y = (rdX s b).truncate 64 →
      exec (.amoswapD d a b q l) s = .next (afterAmo s d (masksOf s a b) k (natBytes 8 (y).toNat) (x.signExtend 64))) ∧
    (∀ x y, x = BitVec.ofNat 64 (numAt s k 8) → y = (rdX s b).truncate 64 →
      exec (.amoxorD d a b q l) s = .next (afterAmo s d (masksOf s a b) k (natBytes 8 (x ^^^ y).toNat) (x.signExtend 64))) ∧
    (∀ x y, x = BitVec.ofNat 64 (numAt s k 8) → y = (rdX s b).truncate 64 →
      exec (.amoorD d a b q l) s = .next (afterAmo s d (masksOf s a b) k (natBytes 8 (x ||| y).toNat) (x.signExtend 64))) ∧
    (∀ x y, x = BitVec.ofNat 64 (numAt s k 8) → y = (rdX s b).truncate 64 →
      exec (.amoandD d a b q l) s = .next (afterAmo s d (masksOf s a b) k (natBytes 8 (x &&& y).toNat) (x.signExtend 64))) ∧
    (∀ x y, x = BitVec.ofNat 64 (numAt s k 8) → y = (rdX s b).truncate 64 →
      exec (.amominD d a b q l) s = .next (afterAmo s d (masksOf s a b) k (natBytes 8 (if x.toInt < y.toInt then x else y).toNat) (x.signExtend 64))) ∧
    (∀ x y, x = BitVec.ofNat 64 (numAt s k 8) → y = (rdX s b).truncate 64 →
      exec (.amomaxD d a b q l) s = .next (afterAmo s d (masksOf s a b) k (natBytes 8 (if x.toInt < y.toInt then y else x).toNat) (x.signExtend 64))) ∧
    (∀ x y, x = BitVec.ofNat 64 (numAt s k 8) → y = (rdX s b).truncate 64 →
      exec (.amominuD d a b q l) s = .next (afterAmo s d (masksOf s a b) k (natBytes 8 (if x.toNat < y.toNat then x else y).toNat) (x.signExtend 64))) ∧
    (∀ x y, x = BitVec.ofNat 64 (numAt s k 8) → y = (rdX s b).truncate 64 →
      exec (.amomaxuD d a b q l) s = .next (afterAmo s d (masksOf s a b) k (natBytes 8 (if x.toNat < y.toNat then y else x).toNat) (x.signExtend 64)))) ∧
  (∀ (s : State) (d : Reg) (m : Mask) (k n v : Nat) (old : Word) (j : Nat), (j < k ∨ k + n ≤ j) →
    memGet (afterAmo s d m k (natBytes n v) old).mem j = memGet s.mem j) ∧
  (∀ (s : State) (d a b : Reg) (q l : BitVec 1), quiet s = true →
    ((rdX s a).toNat % 4 ≠ 0 → ∀ i ∈ [Instr.amoaddW d a b q l, .amoswapW d a b q l, .amoxorW d a b q l, .amoorW d a b q l, .amoandW d a b q l,
      .amominW d a b q l, .amomaxW d a b q l, .amominuW d a b q l, .amomaxuW d a b q l], exec i s = .next (takeTrap s 0x05 (rdX s a))) ∧
    ((rdX s a).toNat % 8 ≠ 0 → ∀ i ∈ [Instr.amoaddD d a b q l, .amoswapD d a b q l, .amoxorD d a b q l, .amoorD d a b q l, .amoandD d a b q l,
      .amominD d a b q l, .amomaxD d a b q l, .amominuD d a b q l, .amomaxuD d a b q l], exec i s = .next (takeTrap s 0x05 (rdX s a))))

/-- R431, R144: the CSR instructions, with the accesses that raise 0x01. -/
def Obligations.CsrInstructions : Prop :=
  (∀ (s : State) (d a : Reg) (c : BitVec 12) (u : BitVec 5), quiet s = true →
    (csrKind c.toNat = .rw false ∨ (csrKind c.toNat = .rw true ∧ s.th.kernel = true)) →
    exec (.csrrw d a c) s = .next (if d = 0 then afterX (csrWrite s c.toNat (rdX s a)) 0 {} 0
      else afterX (csrWrite (csrRead s c.toNat).1 c.toNat (rdX s a)) d {} (csrRead s c.toNat).2) ∧
    exec (.csrrwi d c u) s = .next (if d = 0 then afterX (csrWrite s c.toNat (u.zeroExtend 64)) 0 {} 0
      else afterX (csrWrite (csrRead s c.toNat).1 c.toNat (u.zeroExtend 64)) d {} (csrRead s c.toNat).2) ∧
    (a ≠ 0 → exec (.csrrs d a c) s =
        .next (afterX (csrWrite (csrRead s c.toNat).1 c.toNat ((csrRead s c.toNat).2 ||| rdX s a)) d {} (csrRead s c.toNat).2) ∧
      exec (.csrrc d a c) s =
        .next (afterX (csrWrite (csrRead s c.toNat).1 c.toNat ((csrRead s c.toNat).2 &&& ~~~(rdX s a))) d {} (csrRead s c.toNat).2)) ∧
    (u ≠ 0 → exec (.csrrsi d c u) s =
        .next (afterX (csrWrite (csrRead s c.toNat).1 c.toNat ((csrRead s c.toNat).2 ||| u.zeroExtend 64)) d {} (csrRead s c.toNat).2) ∧
      exec (.csrrci d c u) s =
        .next (afterX (csrWrite (csrRead s c.toNat).1 c.toNat ((csrRead s c.toNat).2 &&& ~~~(u.zeroExtend 64))) d {} (csrRead s c.toNat).2))) ∧
  (∀ (s : State) (d : Reg) (c : BitVec 12), quiet s = true →
    (csrKind c.toNat = .ro false ∨ csrKind c.toNat = .rw false ∨
      ((csrKind c.toNat = .ro true ∨ csrKind c.toNat = .rw true) ∧ s.th.kernel = true)) →
    ∀ i ∈ [Instr.csrrs d 0 c, .csrrc d 0 c, .csrrsi d c 0, .csrrci d c 0],
      exec i s = .next (afterX (csrRead s c.toNat).1 d {} (csrRead s c.toNat).2)) ∧
  (∀ (s : State) (d a : Reg) (c : BitVec 12) (u : BitVec 5), s.th.window = [] →
    (∀ i ∈ [Instr.csrrw d a c, .csrrs d a c, .csrrc d a c, .csrrwi d c u, .csrrsi d c u, .csrrci d c u],
      csrKind c.toNat = .absent → inRep s = true → exec i s = .next (repTrap s)) ∧
    (inRep s = false → (csrKind c.toNat = .absent ∨ (s.th.kernel = false ∧ (csrKind c.toNat = .ro true ∨ csrKind c.toNat = .rw true)) →
      ∀ i ∈ [Instr.csrrw d a c, .csrrs d a c, .csrrc d a c, .csrrwi d c u, .csrrsi d c u, .csrrci d c u], exec i s = .next (takeTrap s 0x01)) ∧
    (∀ k, inRep s = false → csrKind c.toNat = .ro k → a ≠ 0 → u ≠ 0 →
      ∀ i ∈ [Instr.csrrw d a c, .csrrs d a c, .csrrc d a c, .csrrwi d c u, .csrrsi d c u, .csrrci d c u], exec i s = .next (takeTrap s 0x01))))

/-- R144, R432: the CSR map. -/
def Obligations.CsrMap : Prop :=
  (∀ s : State, (csrRead s 0x001).2 = s.th.fflags.zeroExtend 64 ∧ (csrRead s 0x002).2 = s.th.frm.zeroExtend 64 ∧
    (csrRead s 0x800).2 = s.th.srctr ∧ (csrRead s 0xC02).2 = s.th.instret ∧ (csrRead s 0xCC0).2 = s.th.wid ∧
    (csrRead s 0xCC1).2 = s.th.tstamp ∧
    (csrRead s 0xCC2).2 = BitVec.ofNat 64 (s.fabric.id.toNat * 2 ^ 16 + s.cur % 4 * 2 ^ 12 + s.cur / 4) ∧
    (bitOf (csrRead s 0x100).2 0 = s.th.kernel ∧ bitOf (csrRead s 0x100).2 8 = s.th.pmode ∧ bitOf (csrRead s 0x100).2 4 = s.th.fol.isSome ∧
      bitOf (csrRead s 0x100).2 5 = s.th.rep.isSome) ∧
    (csrRead s 0x105).2 = s.th.tvec ∧ (csrRead s 0x140).2 = s.th.kscratch ∧ (csrRead s 0x141).2 = s.th.epc ∧
    (csrRead s 0x142).2 = s.th.cause ∧ (csrRead s 0x143).2 = s.th.faddr ∧ (csrRead s 0x144).2 = s.th.depc ∧
    (csrRead s 0xDC1).2 = BitVec.ofNat 64 (s.cluster s.myCluster).droop ∧ ((csrRead s 0xDC1).1.cluster s.myCluster).droop = 0) ∧
  (∀ (s : State) (v : Word),
    (csrWrite s 0x001 v).th = { s.th with fflags := v.truncate 5 } ∧
    (csrWrite s 0x002 v).th.frm = (if v.toNat % 8 < 6 then v.truncate 3 else s.th.frm) ∧
    (csrWrite s 0x800 v).th = { s.th with srctr := v } ∧ (csrWrite s 0x100 v).th = { s.th with pmode := bitOf v 8 } ∧
    (csrWrite s 0x105 v).th.tvec.toNat % 4 = 0 ∧ (csrWrite s 0x105 v).th.tvec.toNat / 4 = v.toNat / 4 ∧
    (csrWrite s 0x140 v).th = { s.th with kscratch := v } ∧
    (csrWrite s 0x141 v).th.epc.toNat = v.toNat / 2 * 2 ∧ (csrWrite s 0x144 v).th.depc.toNat = v.toNat / 2 * 2 ∧
    (csrWrite s 0x143 v).th = { s.th with faddr := v } ∧
    bitsOf (csrWrite s 0x142 v).th.cause 61 7 = 0 ∧ bitsOf (csrWrite s 0x142 v).th.cause 6 0 = bitsOf v 6 0 ∧
    bitOf (csrWrite s 0x142 v).th.cause 63 = bitOf v 63 ∧ bitOf (csrWrite s 0x142 v).th.cause 62 = bitOf v 62) ∧
  (∀ a : Nat, a < 4096 → (csrKind a ≠ .absent ↔ a ∈ [0x001, 0x002, 0x800, 0xC00, 0xC02, 0xCC0, 0xCC1, 0xCC2, 0xCC3, 0xCC4, 0xCC5, 0xCD0, 0xCD1,
    0xCD2, 0xCD3, 0xCD4, 0xCD5, 0xCD6, 0xCD7, 0xCD8, 0xCD9, 0xCDA, 0xCDB, 0xCDC, 0xCE0, 0xCE1, 0xCE2, 0xCE3, 0xCE4, 0xCE5, 0xCE6, 0x100, 0x105,
    0x140, 0x141, 0x142, 0x143, 0x144, 0x5C0, 0xDC0, 0xDC1, 0xDC2, 0xDC3, 0xDC4]))

/-- R284, R286, R131: trap entry; R298, R299: a register error, repaired or trapped on, and a mismatch of a result. -/
def Obligations.TrapEntry : Prop :=
  (∀ (s : State) (c : Nat) (a : Word), s.th.tvec ≠ 0 → c < 128 →
    (takeTrap s c a).th = { s.th with
      epc := s.th.pc, cause := BitVec.ofNat 64 c, faddr := a, pmode := s.th.kernel, kernel := true, pc := s.th.tvec, run := .running
      drain := false, hold := false, noMatch := false, defTrap := none, fol := none, anyList := none, anyOver := false, mark := none
      tdepth := s.th.tdepth + 1, rep := s.th.rep.map (fun r => { r with depth := r.depth + 1, buf := [] }) } ∧
    (∀ k, k ≠ s.cur → ((takeTrap s c a).thread k) = s.thread k ∨ (∃ f, (s.thread k).fol = some f ∧ f.leader = s.cur)) ∧
    (takeTrap s c a).mem = s.mem ∧ (takeTrap s c a) = { leaveUnits (forgetMisses s s.cur) s.cur with threads := (takeTrap s c a).threads }) ∧
  (∀ (s : State) (c : Nat) (a : Word), s.th.tvec = 0 → c < 128 →
    (takeTrap s c a).th = { s.th with
      epc := s.th.pc, cause := BitVec.ofNat 64 c, faddr := a, run := .frozen
      drain := false, hold := false, noMatch := false, defTrap := none, fol := none, anyList := none, anyOver := false, mark := none }) ∧
  (∀ (s : State) (d : DefTrap), s.th.tvec ≠ 0 → d.code < 128 →
    (takeDeferred s d).th.epc = d.pc ∧ (takeDeferred s d).th.depc = s.th.pc ∧ (takeDeferred s d).th.faddr = d.faddr ∧
    (takeDeferred s d).th.cause = BitVec.ofNat 64 (2 ^ 62 + d.code) ∧ (takeDeferred s d).th.window = s.th.window ∧
    (takeDeferred s d).th.kernel = true ∧ (takeDeferred s d).th.pmode = s.th.kernel ∧ (takeDeferred s d).th.pc = s.th.tvec) ∧
  (∀ (s : State) (d a : Reg) (c : BitVec 12), quiet (s.setTh { s.th with bad := 0 }) = true → a ≠ 0 → s.th.bad.getLsbD a.toNat = true →
    (hasCopy s = false → exec (.addi d a c) s = .next (takeTrap (s.setCo { s.co with regUe := s.co.regUe + 1 }) 0x60)) ∧
    (hasCopy s = true → exec (.addi d a c) s = exec (.addi d a c) (repaired s [a.toNat]) ∧ (repaired s [a.toNat]).co.regRep = s.co.regRep + 1 ∧
      (repaired s [a.toNat]).th = { s.th with bad := s.th.bad &&& ~~~(BitVec.twoPow 64 a.toNat) })) ∧
  (∀ (s : State) (d a : Reg) (c : BitVec 12), quiet (s.setTh { s.th with misres := 0 }) = true → d ≠ 0 →
    (s.th.misres = 1 → exec (.addi d a c) s = .next (afterX (s.setTh { s.th with misres := 0 }) d (maskOf s a) (rdX s a + c.signExtend 64))) ∧
    (s.th.misres = 2 → exec (.addi d a c) s =
      .next (takeTrap ((s.setTh { s.th with misres := 0 }).setCo { s.co with regUe := s.co.regUe + 1 }) 0x60)))

/-- R430: ecall and ebreak. -/
def Obligations.EcallEbreakTrap : Prop :=
  (∀ s : State, s.th.window = [] → s.th.rep = none →
    exec .ecall s = .next (takeTrap s 0x04) ∧ exec .ebreak s = .next (takeTrap s 0x70)) ∧
  (∀ (s t : State), s.th.window = [] → s.th.rep = none → (exec .ecall s = .next t ∨ exec .ebreak s = .next t) →
    t.th.epc = s.th.pc ∧ t.th.faddr = 0 ∧ (exec .ecall s = .next t → t.th.cause = 0x04) ∧
    (s.th.tvec ≠ 0 → t.th.kernel = true ∧ t.th.pmode = s.th.kernel ∧ t.th.pc = s.th.tvec) ∧
    (s.th.tvec = 0 → t.th.run = .frozen ∧ t.th.pc = s.th.pc ∧ t.th.kernel = s.th.kernel ∧ t.th.pmode = s.th.pmode)) ∧
  (∀ s : State, s.th.window = [] → s.th.rep = none → ∀ t, exec .ebreak s = .next t → t.th.cause = 0x70) ∧
  (∀ s : State, s.th.defTrap = none → s.th.drain = false → s.th.begun = none → xltWaits s s.cur = false → s.th.entries.length < 16 → breakpointHit s = true → issueNew s = exec .breakpointMatch s) ∧
  (∀ s : State, s.th.noMatch = true → breakpointHit s = false)

/-- R433, R285: trap.ret. That the held entries execute before the return, and that no new instruction issues meanwhile, is the model's
reading (log 15). -/
def Obligations.TrapReturn : Prop :=
  (∀ s : State, s.th.kernel = true → s.th.window.any (fun e => e.held == 0) = false → inRep s = false → s.th.fol = none →
    (∀ p ∈ s.threads, ∀ f, p.2.fol = some f → f.leader ≠ s.cur) →
    ((bitOf s.th.cause 62 = false ∨ s.th.window.any s.th.drains = false) → ∃ t, exec .trapRet s = .next t ∧ t = endReturn s ∧
      t = { s with threads := t.threads, ilen := 4 } ∧
      t.th.kernel = s.th.pmode ∧ t.th.pmode = s.th.pmode ∧ t.th.epc = s.th.epc ∧ t.th.depc = s.th.depc ∧ t.th.faddr = s.th.faddr ∧
      t.th.x = s.th.x ∧ t.th.v = s.th.v ∧ t.th.xm = s.th.xm ∧ t.th.vm = s.th.vm ∧ t.th.window = s.th.window ∧ t.th.fflags = s.th.fflags ∧
      t.th.instret = s.th.instret + 1 ∧ (∀ k, k ≠ s.cur → t.thread k = s.thread k) ∧
      (bitOf s.th.cause 62 = false → t.th.pc = s.th.epc ∧ t.th.cause = s.th.cause ∧ t.th.drain = s.th.drain) ∧
      (bitOf s.th.cause 62 = true → t.th.pc = s.th.depc ∧ bitOf t.th.cause 62 = false ∧ t.th.drain = false)) ∧
    (bitOf s.th.cause 62 = true → s.th.window.any s.th.drains = true → exec .trapRet s = .next (s.setTh { s.th with drain := true }))) ∧
  (∀ s : State, mayTurn s s.ev.n = true → onlyAt s s.ev.n = none → (s.thread s.ev.n).defTrap = none → (s.thread s.ev.n).drain = true →
    (s.thread s.ev.n).window.any (s.thread s.ev.n).drains = false →
    exec .deferredExecute s = .next (endReturn { s with cur := s.ev.n })) ∧
  (∀ s : State, s.th.kernel = false → s.th.window = [] →
    exec .trapRet s = .next (if inRep s then repTrap s else takeTrap s 0x01)) ∧
  (∀ s : State, s.th.drain = true → issueNew s = .next s)

/-- R332: fence and fence.tso against fence.s x0, device, rw (scope code 4, kinds code 3). -/
def Obligations.PlainFences : Prop :=
  (∀ (s : State) (d a : Reg) (m p k : BitVec 4), quiet s = true → (p = 0 ∨ k = 0) → exec (.fence d a m p k) s = .next (afterNone s)) ∧
  (∀ (s : State) (d a : Reg) (m m' p k : BitVec 4), p ≠ 0 → k ≠ 0 → s.th.rep = none → s.winRun = none →
    (∀ q ∈ s.threads, ∀ f, q.2.fol = some f → f.leader ≠ s.cur) →
    exec (.fence d a m p k) s = exec (.fence d a m' p k) s ∧ exec (.fence d a m p k) s = exec (.fenceTso d a) s ∧
    exec (.fence d a m p k) s = exec (.fenceS 0 4 3) s ∧
    ((s.th.entries ≠ [] ∨ fenceHeld s 4 true true = true) → exec (.fenceTso d a) s = .next s) ∧
    (s.th.entries = [] → fenceHeld s 4 true true = false → exec (.fenceTso d a) s = .next (afterNone s))) ∧
  (∀ (s : State) (f : Far), f ∈ s.far → f.tid = s.cur → f.over = false → (∃ p ∈ f.pieces, p.done = false) →
    f.kind.named true true = true → (f.dev = 0 → fenceHeld s 4 true true = true) ∧ fenceHeld s 5 true true = true) ∧
  (∀ s : State, (∀ f ∈ s.far, f.tid = s.cur → f.over = false → f.kind.named true true = true → f.dev ≠ 0) → fenceHeld s 4 true true = false)

/-- R187, R356, R436, R437: fence.s, sleep and icache.inv. The 300 cycles of R437 are time and not part of the model. -/
def Obligations.FencesAndSleeps : Prop :=
  (∀ (s : State) (d : Reg) (k : BitVec 3) (q : BitVec 2), quiet s = true →
    exec (.fenceS d k q) s = .next (afterX s d {} (stickyMap s s.myCtx))) ∧
  (∀ (s : State) (d : Reg) (k : BitVec 3) (q : BitVec 2), s.th.entries = [] → regsPend s [] [d] = false →
    fenceHeld s k.toNat (bitOf q 0) (bitOf q 1) = true → exec (.fenceS d k q) s = .next s) ∧
  (∀ (s : State) (d : Reg) (k : BitVec 3) (q : BitVec 2), s.th.entries ≠ [] → exec (.fenceS d k q) s = .next s) ∧
  (∀ (s : State) (c i : Nat), i < 64 → bitOf (stickyMap s c) i = ((s.ctx c).slots.toList.getD i {}).sticky) ∧
  (∀ (s : State) (a : Reg), quiet s = true →
    ((rdX s a).toNat % 2 ^ 32 = 0 → exec (.sleep a) s = .next (afterNone s)) ∧
    ((rdX s a).toNat % 2 ^ 32 ≠ 0 → exec (.sleep a) s = .next (s.setTh { s.th.past s.ilen with run := .sleepCount }) ∧
      ∀ t, exec (.sleep a) s = .next t → ready t s.cur = false) ∧
    (s.th.kernel = true → inOrdered s s.cur = false →
      exec .icacheInv s = .next (afterNone { s with clusters := tmap s.clusters (fun _ c => { c with icache := [] }) })) ∧
    ((s.th.kernel = false ∨ inOrdered s s.cur = true) → exec .icacheInv s = .next (takeTrap s 0x01)))

/-- R334: wid.get. -/
def Obligations.WidGet : Prop :=
  (∀ (s : State) (d : Reg), quiet s = true → exec (.widGet d) s = .next (afterX s d {} s.th.wid)) ∧
  (∀ (s : State) (d : Reg), s.winRun = none → s.th.entries = [] → s.th.rep = none → s.th.misres = 0 → farPendX s s.cur d = false →
    (∀ p ∈ s.threads, ∀ f, p.2.fol = some f → f.leader ≠ s.cur) →
    ∀ f, s.th.fol = some f → exec (.widGet d) s = .next (afterX s d {} s.th.wid)) ∧
  (∀ d : Reg, encode32 (.widGet d) = some (0x7B + 0x80 * d.toNat)) ∧ decodeTableWord 32 0x000002FB = some (.widGet 5) ∧
  (∀ s : State, (csrRead s 0xCC0).2 = s.th.wid)

/-- R371 to R373, R181: lane by lane, with x, y and z the lanes of vs1, vs2 and the old vd, read signed or unsigned by U (laneInt). -/
def Obligations.VectorIntegerLanes : Prop :=
  ∀ (s : State) (d a b c : Reg) (u : BitVec 1) (t : BitVec 3), quiet s = true → isIntType t = true →
    let w := intWidth t
    let x := fun j => lane w (rdV s a) j
    let y := fun j => lane w (rdV s b) j
    GivesLanes (.vadd d a b t) s d (masksV s a b) w (fun j => (x j + y j) % 2 ^ w) ∧
    GivesLanes (.vsub d a b t) s d (masksV s a b) w (fun j => (x j + (2 ^ w - y j)) % 2 ^ w) ∧
    GivesLanes (.vmul d a b t) s d (masksV s a b) w (fun j => x j * y j % 2 ^ w) ∧
    GivesLanes (.vmulh d a b u t) s d (masksV s a b) w (fun j => ofSigned w (laneInt u w (x j) * laneInt u w (y j) / 2 ^ w)) ∧
    GivesLanes (.vmac d a b u t) s d (masksVV s a b d) w
      (fun j => clampLane u w (laneInt u w (lane w (rdV s d) j) + laneInt u w (x j) * laneInt u w (y j))) ∧
    GivesLanes (.vmin d a b u t) s d (masksV s a b) w (fun j => if laneInt u w (x j) < laneInt u w (y j) then x j else y j) ∧
    GivesLanes (.vmax d a b u t) s d (masksV s a b) w (fun j => if laneInt u w (x j) < laneInt u w (y j) then y j else x j) ∧
    GivesLanes (.vabs d a t) s d (maskV s a) w (fun j => (toSigned w (x j)).natAbs % 2 ^ w) ∧
    GivesLanes (.vsll d a b t) s d (masksV s a b) w (fun j => x j * 2 ^ (y j % w) % 2 ^ w) ∧
    GivesLanes (.vsrl d a b t) s d (masksV s a b) w (fun j => x j / 2 ^ (y j % w)) ∧
    GivesLanes (.vsra d a b t) s d (masksV s a b) w (fun j => ofSigned w (toSigned w (x j) / 2 ^ (y j % w))) ∧
    GivesLanes (.vcmpEq d a b t) s d (masksV s a b) w (fun j => if x j = y j then 2 ^ w - 1 else 0) ∧
    GivesLanes (.vcmpNe d a b t) s d (masksV s a b) w (fun j => if x j = y j then 0 else 2 ^ w - 1) ∧
    GivesLanes (.vcmpLt d a b u t) s d (masksV s a b) w (fun j => if laneInt u w (x j) < laneInt u w (y j) then 2 ^ w - 1 else 0) ∧
    GivesLanes (.vcmpLe d a b u t) s d (masksV s a b) w (fun j => if laneInt u w (x j) ≤ laneInt u w (y j) then 2 ^ w - 1 else 0) ∧
    GivesLanes (.vsel d a b c t) s d (masksVV s a b c) w (fun j => if lane w (rdV s c) j = 0 then y j else x j) ∧
    exec (.vand d a b) s = .next (afterV s d (masksV s a b) (rdV s a &&& rdV s b)) ∧
    exec (.vor d a b) s = .next (afterV s d (masksV s a b) (rdV s a ||| rdV s b)) ∧
    exec (.vxor d a b) s = .next (afterV s d (masksV s a b) (rdV s a ^^^ rdV s b)) ∧
    exec (.vmv d a) s = .next (afterV s d (maskV s a) (rdV s a))

/-- R377: the lane moves. -/
def Obligations.VectorMoves : Prop :=
  (∀ (s : State) (d a b : Reg) (k : BitVec 5) (t : BitVec 3), quiet s = true → isIntType t = true →
    let w := intWidth t
    let n := 128 / w
    let x := fun j => lane w (rdV s a) j
    let y := fun j => lane w (rdV s b) j
    GivesLanes (.vperm d a b t) s d (masksV s a b) w (fun j => x (y j % n)) ∧
    GivesLanes (.vzip d a b t) s d (masksV s a b) w (fun j => if j % 2 = 0 then x (j / 2) else y (j / 2)) ∧
    GivesLanes (.vunzip d a b t) s d (masksV s a b) w (fun j => if j < n / 2 then x (2 * j) else y (2 * (j - n / 2))) ∧
    GivesLanes (.vbcast d a t) s d (maskOf s a) w (fun _ => (rdX s a).toNat % 2 ^ w) ∧
    (k.toNat < n →
      exec (.vext d a k t) s = .next (afterX s d (maskV s a) (BitVec.ofInt 64 (toSigned w (x k.toNat)))) ∧
      exec (.vext 0 a k t) s = .next (afterNone s) ∧
      GivesLanes (.vins d a k t) s d ((maskOf s a).or (maskV s d)) w
        (fun j => if j = k.toNat then (rdX s a).toNat % 2 ^ w else lane w (rdV s d) j))) ∧
  (∀ (d a k : BitVec 5) (t : BitVec 3) (w : Nat), isIntType t = true → 128 / intWidth t ≤ k.toNat →
    decode32 w ≠ .ok (.vext d a k t) ∧ decode32 w ≠ .ok (.vins d a k t)) ∧
  (∀ (s : State) (d a b : Reg), quiet s = true → lane 64 (rdV s b) 0 = 1 → lane 64 (rdV s b) 1 = 0 →
    GivesLanes (.vperm d a b 3) s d (masksV s a b) 64 (fun j => lane 64 (rdV s a) (1 - j)))

/-- R374, R239, R372, R369: the exact operation on the values of the lanes (FVal), then one rounding (Fmt.lane). -/
def Obligations.VectorFloatLanes : Prop :=
  ∀ (s : State) (d a b : Reg) (t : BitVec 3), quiet s = true → isFloatType t = true →
    let w := floatWidth t
    let g := typeFmt t
    let x := fun j => lane w (rdV s a) j
    let y := fun j => lane w (rdV s b) j
    let r := fun j e => g.lane s.frmNow (drawIn s s.frmNow j) e
    let cmp := fun (sigOnly nanRes : Bool) (p : FVal → FVal → Bool) j =>
      if (g.value (x j)).isNan || (g.value (y j)).isNan then
        (if nanRes then 2 ^ w - 1 else 0, if !sigOnly || (g.value (x j)).isSig || (g.value (y j)).isSig then fNV else 0)
      else (if p (g.value (x j)) (g.value (y j)) then 2 ^ w - 1 else 0, 0)
    GivesFp (.vfadd d a b t) s d (masksV s a b) w (128 / w) (drawsIn s.frmNow (128 / w)) (fun j => r j ((g.value (x j)).add (g.value (y j)) (s.frmNow == 2))) ∧
    GivesFp (.vfsub d a b t) s d (masksV s a b) w (128 / w) (drawsIn s.frmNow (128 / w)) (fun j => r j ((g.value (x j)).add (g.value (y j)).neg (s.frmNow == 2))) ∧
    GivesFp (.vfmul d a b t) s d (masksV s a b) w (128 / w) (drawsIn s.frmNow (128 / w)) (fun j => r j ((g.value (x j)).mul (g.value (y j)))) ∧
    GivesFp (.vfma d a b t) s d (masksVV s a b d) w (128 / w) (drawsIn s.frmNow (128 / w)) (fun j => r j ((g.value (x j)).fma (g.value (y j)) (g.value (lane w (rdV s d) j)) (s.frmNow == 2))) ∧
    GivesFp (.vfmin d a b t) s d (masksV s a b) w (128 / w) 0 (fun j => g.minmaxL false (x j) (y j)) ∧
    GivesFp (.vfmax d a b t) s d (masksV s a b) w (128 / w) 0 (fun j => g.minmaxL true (x j) (y j)) ∧
    GivesFp (.vcmpEq d a b t) s d (masksV s a b) w (128 / w) 0 (cmp true false (fun p q => p.eq q)) ∧
    GivesFp (.vcmpNe d a b t) s d (masksV s a b) w (128 / w) 0 (cmp true true (fun p q => !p.eq q)) ∧
    GivesFp (.vcmpLt d a b 0 t) s d (masksV s a b) w (128 / w) 0 (cmp false false (fun p q => p.lt q)) ∧
    GivesFp (.vcmpLe d a b 0 t) s d (masksV s a b) w (128 / w) 0 (cmp false false (fun p q => !q.lt p))

/-- R375, R240: reductions. `treeFold` combines results 2i and 2i + 1, level by level. -/
def Obligations.VectorReductions : Prop :=
  (∀ (s : State) (d a b : Reg) (u : BitVec 1) (t : BitVec 3), quiet s = true → isIntType t = true →
    let w := intWidth t
    let x := fun j => laneInt u w (lane w (rdV s a) j)
    let y := fun j => laneInt u w (lane w (rdV s b) j)
    let ls := List.range (128 / w)
    exec (.vdot d a b u t) s = .next (afterV s d (masksV s a b) ((BitVec.ofInt 64 ((ls.map (fun j => x j * y j)).foldl (· + ·) 0)).zeroExtend 128)) ∧
    exec (.vredsum d a u t) s = .next (afterV s d (maskV s a) ((BitVec.ofInt 64 ((ls.map x).foldl (· + ·) 0)).zeroExtend 128)) ∧
    (∃ m : Int, (∃ j, j < 128 / w ∧ x j = m) ∧ (∀ j, j < 128 / w → x j ≤ m) ∧
      exec (.vredmax d a u t) s = .next (afterV s d (maskV s a) ((BitVec.ofInt 64 m).zeroExtend 128))) ∧
    (∃ m : Int, (∃ j, j < 128 / w ∧ x j = m) ∧ (∀ j, j < 128 / w → m ≤ x j) ∧
      exec (.vredmin d a u t) s = .next (afterV s d (maskV s a) ((BitVec.ofInt 64 m).zeroExtend 128)))) ∧
  (∀ (s : State) (d a b : Reg) (t : BitVec 3), quiet s = true → isFloatType t = true →
    let w := floatWidth t
    let n := 128 / w
    let one := fun (r : Nat × FFlags) m => .next (afterFp s d m (BitVec.ofNat 128 r.1) r.2 0)
    let wide := (List.range n).map (fun j => (typeFmt t).widen32 (lane w (rdV s a) j))
    let pairs := (List.range (n / 2)).map (fun i =>
      dotPair (typeFmt t) (lane w (rdV s a) (2 * i)) (lane w (rdV s b) (2 * i)) (lane w (rdV s a) (2 * i + 1)) (lane w (rdV s b) (2 * i + 1)))
    exec (.vdot d a b 0 t) s = one ((treeFold sumNode (Nat.log2 n - 1) pairs).headD (0, 0)) (masksV s a b) ∧
    exec (.vredsum d a 0 t) s = one ((treeFold sumNode (Nat.log2 n) wide).headD (0, 0)) (maskV s a) ∧
    exec (.vredmax d a 0 t) s = one ((treeFold (maxNode true) (Nat.log2 n) wide).headD (0, 0)) (maskV s a) ∧
    exec (.vredmin d a 0 t) s = one ((treeFold (maxNode false) (Nat.log2 n) wide).headD (0, 0)) (maskV s a)) ∧
  (∀ e0 e1 e2 e3 : Nat × FFlags, treeFold sumNode 2 [e0, e1, e2, e3] = [sumNode (sumNode e0 e1) (sumNode e2 e3)])

/-- R376, R243: the approximations, with their special values. -/
def Obligations.VectorApproximations : Prop :=
  (∀ (s : State) (d a : Reg) (t : BitVec 3), quiet s = true → isFloatType t = true →
    let w := floatWidth t
    let of := fun fn j => approxLane fn (typeFmt t) t.toNat (lane w (rdV s a) j)
    GivesFp (.vrcp d a t) s d (maskV s a) w (128 / w) 0 (of .rcp) ∧
    GivesFp (.vrsqrt d a t) s d (maskV s a) w (128 / w) 0 (of .rsqrt) ∧
    GivesFp (.vexp2 d a t) s d (maskV s a) w (128 / w) 0 (of .exp2) ∧
    GivesFp (.vlog2 d a t) s d (maskV s a) w (128 / w) 0 (of .log2) ∧
    GivesFp (.vtanh d a t) s d (maskV s a) w (128 / w) 0 (of .tanh) ∧
    GivesFp (.verf d a t) s d (maskV s a) w (128 / w) 0 (of .erf)) ∧
  (∀ (fn : ApproxFn) (g : Fmt) (c x : Nat) (n : Bool), g = .f32 ∨ g = .f16 ∨ g = .bf16 →
    let one := (g.round 0 0 false n 1 0).1
    (∀ sg, g.value x = .nan sg → approxLane fn g c x = (g.nan, if sg then fNV else 0)) ∧
    (g.value x = .inf n → approxLane .rcp g c x = (g.sign n, 0) ∧
      approxLane .rsqrt g c x = (if n then (g.nan, fNV) else (0, 0)) ∧ approxLane .exp2 g c x = (if n then (0, 0) else (g.inf false, 0)) ∧
      approxLane .log2 g c x = (if n then (g.nan, fNV) else (g.inf false, 0)) ∧
      approxLane .tanh g c x = (one, 0) ∧ approxLane .erf g c x = (one, 0)) ∧
    (∀ e, g.value x = .fin n 0 e → approxLane .rcp g c x = (g.inf n, fDZ) ∧ approxLane .rsqrt g c x = (g.inf n, fDZ) ∧
      approxLane .exp2 g c x = ((g.round 0 0 false false 1 0).1, 0) ∧ approxLane .log2 g c x = (g.inf true, fDZ) ∧
      approxLane .tanh g c x = (g.sign n, 0) ∧ approxLane .erf g c x = (g.sign n, 0)) ∧
    (∀ m e, g.value x = .fin true m e → m ≠ 0 → approxLane .rsqrt g c x = (g.nan, fNV) ∧ approxLane .log2 g c x = (g.nan, fNV)))

/-- R378 to R382: conversions. The value of an element and the rounding are those of typeOf and convertElem. -/
def Obligations.VectorConversions : Prop :=
  (∀ (s : State) (d a : Reg) (t u : BitVec 5) (k : BitVec 1) (m : BitVec 3), quiet s = true → (Instr.vcvt d a t k u m).wf = true →
    let mode := if m = 6 then s.frmNow else m.toNat
    let ws := (typeOf u.toNat).container
    let wd := (typeOf t.toNat).container
    let n := 128 / max wd ws
    GivesFp (.vcvt d a t k u m) s d (maskV s a) wd n (drawsIn mode n)
      (fun j => convertElem (typeOf t.toNat) (typeOf u.toNat) mode (drawIn s mode j) (k == 1) (lane ws (rdV s a) j))) ∧
  (∀ (s : State) (d a : Reg) (t u : BitVec 5) (k : BitVec 1), quiet s = true →
    (∀ tb, myTable s = some tb →
      (8 ≤ u.toNat → u.toNat ≤ 10 → let ws := (typeOf u.toNat).container
        GivesFp (.vtabEnc d a k u) s d (maskV s a) 8 (128 / ws) 0 (fun j => tableEncode tb (k == 1) ((typeOf u.toNat).value (lane ws (rdV s a) j)))) ∧
      (t = 8 ∨ t = 10 → let g := if t = 8 then Fmt.bf16 else .f32
        GivesFp (.vtabDec d a t) s d (maskV s a) g.width (128 / g.width) 0
          (fun j => g.convert 0 0 false (Fmt.e8m10.value (tb.getD (lane 8 (rdV s a) j) 0).toNat)))) ∧
    (myTable s = none → Rejects (.vtabEnc d a k u) s ∧ Rejects (.vtabDec d a t) s)) ∧
  (∀ (s : State) (d a : Reg) (e : BitVec 5) (t : BitVec 3) (k : BitVec 1), quiet s = true → isFloatType t = true → isMxType e = true →
    let g := if t = 6 then 8 else 4
    let h := if mxElemBits e.toNat = 8 then 3 else 2
    let union := fun (rs : List Reg) => rs.foldl (fun m r => m.or (maskV s r)) {}
    let next := fun (dst src : List Reg) (n : Nat) (fl : FFlags) (dr : Nat) =>
      .next (afterNone ((wrGroup (s.setTh { s.th with fflags := s.th.fflags ||| fl, srctr := srctrPast s.th.srctr dr }) (union src) dst n)))
    (a.toNat + g ≤ 32 → d.toNat + h ≤ 32 →
      let x := groupNat s (regGroup a g)
      let r := mxEncode e.toNat s.frmNow (k == 1) ((List.range 32).map (drawIn s s.frmNow))
        ((List.range 32).map (fun i => (typeFmt t).value (x / 2 ^ ((typeFmt t).width * i) % 2 ^ (typeFmt t).width)))
      exec (.vmxEnc d a k e t) s = next (regGroup d h) (regGroup a g) (mxPack e.toNat r.1 r.2.1) r.2.2 (drawsIn s.frmNow 32)) ∧
    (d.toNat + g ≤ 32 → a.toNat + h ≤ 32 →
      let img := groupNat s (regGroup a h)
      let r := (mxElems e.toNat img).map (fun q => mxDecodeElem e.toNat (mxScale e.toNat img) q (typeFmt t))
      exec (.vmxDec d a e t) s = next (regGroup d g) (regGroup a h) (packNat (typeFmt t).width (r.map (fun p => p.1))) (r.foldl (fun f p => f ||| p.2) 0) 0) ∧
    (32 < a.toNat + g ∨ 32 < d.toNat + h → exec (.vmxEnc d a k e t) s = .next (takeTrap s 0x01)) ∧
    (32 < d.toNat + g ∨ 32 < a.toNat + h → exec (.vmxDec d a e t) s = .next (takeTrap s 0x01)))

/-- R225, R226: rounding. The value of m × 2^e against that of n × 2^k is compared through one common exponent. -/
def Obligations.RoundingExactAndBounded : Prop :=
  (∀ (f : Fmt) (mode draw x m : Nat) (sat neg : Bool) (e : Int), mode < 6 → x < 2 ^ f.width → f.value x = .fin neg m e → draw < 2 ^ 32 →
    f.round mode draw sat neg m e = (x, 0)) ∧
  (∀ (f : Fmt) (mode draw : Nat) (sat neg : Bool) (e : Int), f.round mode draw sat neg 0 e = (f.sign neg, 0)) ∧
  (∀ (a b : Bool) (m n : Nat) (e k : Int) (rdn : Bool), ∃ s q g, (FVal.fin a m e).add (.fin b n k) rdn = (.fin s q g, 0) ∧
    (q = 0 → s = (if a = b then a else rdn))) ∧
  (∀ (f : Fmt) (draw m x : Nat) (sat neg : Bool) (e : Int) (fl : FFlags), m ≠ 0 → f.round 1 draw sat neg m e = (x, fl) →
    ∃ n k, f.value x = .fin neg n k ∧ n * 2 ^ (k - min e k).toNat ≤ m * 2 ^ (e - min e k).toNat) ∧
  (∀ (f : Fmt) (mode : Nat) (neg : Bool), mode < 6 → f ≠ .e8m10 →
    f.overflow mode false neg = (if f.saturates || mode == 1 || (mode == 2 && !neg) || (mode == 3 && neg) then f.sign neg + f.maxBits else f.inf neg) ∧
    f.overflow mode true neg = f.sign neg + f.maxBits)

/-- R355: amo.sc. The width bit selects W (0) or D (1); `x` is the old value. That it is performed at once on this device is the model's
reading (log 19), and so is the wait to become irrevocable (log 34). -/
def Obligations.TotalOrderAtomics : Prop :=
  (∀ (s : State) (d a b : Reg) (k : Nat), quiet s = true → buffers s = false → (rdX s a).toNat % 4 = 0 → nearAt s (masksOf s a b) (rdX s a) 4 k true = true →
    (∀ x y, x = BitVec.ofNat 32 (numAt s k 4) → y = (rdX s b).truncate 32 →
      exec (.amoScSwap d a b 0) s = .next (afterAmo s d (masksOf s a b) k (natBytes 4 (y).toNat) (x.signExtend 64))) ∧
    (∀ x y, x = BitVec.ofNat 32 (numAt s k 4) → y = (rdX s b).truncate 32 →
      exec (.amoScAdd d a b 0) s = .next (afterAmo s d (masksOf s a b) k (natBytes 4 (x + y).toNat) (x.signExtend 64))) ∧
    (∀ x y, x = BitVec.ofNat 32 (numAt s k 4) → y = (rdX s b).truncate 32 →
      exec (.amoScMin d a b 0 0) s = .next (afterAmo s d (masksOf s a b) k (natBytes 4 (if x.toInt < y.toInt then x else y).toNat) (x.signExtend 64))) ∧
    (∀ x y, x = BitVec.ofNat 32 (numAt s k 4) → y = (rdX s b).truncate 32 →
      exec (.amoScMin d a b 1 0) s = .next (afterAmo s d (masksOf s a b) k (natBytes 4 (if x.toNat < y.toNat then x else y).toNat) (x.signExtend 64))) ∧
    (∀ x y, x = BitVec.ofNat 32 (numAt s k 4) → y = (rdX s b).truncate 32 →
      exec (.amoScMax d a b 0 0) s = .next (afterAmo s d (masksOf s a b) k (natBytes 4 (if x.toInt < y.toInt then y else x).toNat) (x.signExtend 64))) ∧
    (∀ x y, x = BitVec.ofNat 32 (numAt s k 4) → y = (rdX s b).truncate 32 →
      exec (.amoScMax d a b 1 0) s = .next (afterAmo s d (masksOf s a b) k (natBytes 4 (if x.toNat < y.toNat then y else x).toNat) (x.signExtend 64))) ∧
    (∀ x c, x = BitVec.ofNat 32 (numAt s k 4) → c = (rdX s d).truncate 32 → nearAt s (((maskOf s a).or (maskOf s b)).or (maskOf s d)) (rdX s a) 4 k true = true →
      exec (.amoScCas d a b 0) s = .next (if x = c then afterAmo s d (((maskOf s a).or (maskOf s b)).or (maskOf s d)) k (natBytes 4 ((rdX s b).truncate 32 : BitVec 32).toNat) (x.signExtend 64)
        else afterX s d (((maskOf s a).or (maskOf s b)).or (maskOf s d)) (x.signExtend 64)))) ∧
  (∀ (s : State) (d a b : Reg) (k : Nat), quiet s = true → buffers s = false → (rdX s a).toNat % 8 = 0 → nearAt s (masksOf s a b) (rdX s a) 8 k true = true →
    (∀ x y, x = BitVec.ofNat 64 (numAt s k 8) → y = (rdX s b).truncate 64 →
      exec (.amoScSwap d a b 1) s = .next (afterAmo s d (masksOf s a b) k (natBytes 8 (y).toNat) (x.signExtend 64))) ∧
    (∀ x y, x = BitVec.ofNat 64 (numAt s k 8) → y = (rdX s b).truncate 64 →
      exec (.amoScAdd d a b 1) s = .next (afterAmo s d (masksOf s a b) k (natBytes 8 (x + y).toNat) (x.signExtend 64))) ∧
    (∀ x y, x = BitVec.ofNat 64 (numAt s k 8) → y = (rdX s b).truncate 64 →
      exec (.amoScMin d a b 0 1) s = .next (afterAmo s d (masksOf s a b) k (natBytes 8 (if x.toInt < y.toInt then x else y).toNat) (x.signExtend 64))) ∧
    (∀ x y, x = BitVec.ofNat 64 (numAt s k 8) → y = (rdX s b).truncate 64 →
      exec (.amoScMin d a b 1 1) s = .next (afterAmo s d (masksOf s a b) k (natBytes 8 (if x.toNat < y.toNat then x else y).toNat) (x.signExtend 64))) ∧
    (∀ x y, x = BitVec.ofNat 64 (numAt s k 8) → y = (rdX s b).truncate 64 →
      exec (.amoScMax d a b 0 1) s = .next (afterAmo s d (masksOf s a b) k (natBytes 8 (if x.toInt < y.toInt then y else x).toNat) (x.signExtend 64))) ∧
    (∀ x y, x = BitVec.ofNat 64 (numAt s k 8) → y = (rdX s b).truncate 64 →
      exec (.amoScMax d a b 1 1) s = .next (afterAmo s d (masksOf s a b) k (natBytes 8 (if x.toNat < y.toNat then y else x).toNat) (x.signExtend 64))) ∧
    (∀ x c, x = BitVec.ofNat 64 (numAt s k 8) → c = (rdX s d).truncate 64 → nearAt s (((maskOf s a).or (maskOf s b)).or (maskOf s d)) (rdX s a) 8 k true = true →
      exec (.amoScCas d a b 1) s = .next (if x = c then afterAmo s d (((maskOf s a).or (maskOf s b)).or (maskOf s d)) k (natBytes 8 ((rdX s b).truncate 64 : BitVec 64).toNat) (x.signExtend 64)
        else afterX s d (((maskOf s a).or (maskOf s b)).or (maskOf s d)) (x.signExtend 64)))) ∧
  (∀ (s s1 : State) (d a b : Reg) (k : Nat), quiet s = true → inOrdered s s.cur = false → (rdX s a).toNat % 8 = 0 →
    place s (rdX s a) 8 [rightRD, rightWR] = .ok (s1, .far [(k, 8)]) → inletAt s1 s1.myCtx (addr48 (rdX s a)) = none →
    homeFails s1 k 8 true = none →
    let old : Word := BitVec.ofNat 64 (leNat (memRead s1 k 8))
    let m3 := ((maskOf s a).or (maskOf s b)).or (maskOf s d)
    (localFree s1 (masksOf s a b) k 8 = true → ∀ (i : Instr) (f : Word → Word → Word),
      (i, f) ∈ [(Instr.amoScSwap d a b 1, fun _ y => y), (.amoScAdd d a b 1, fun x y => x + y),
        (.amoScMin d a b 0 1, fun x y => if x.toInt < y.toInt then x else y), (.amoScMin d a b 1 1, fun x y => if x.toNat < y.toNat then x else y),
        (.amoScMax d a b 0 1, fun x y => if x.toInt < y.toInt then y else x), (.amoScMax d a b 1 1, fun x y => if x.toNat < y.toNat then y else x)] →
      exec i s = .next (afterAmo s1 d (masksOf s a b) k (natBytes 8 (f old (rdX s b)).toNat) old)) ∧
    (localFree s1 m3 k 8 = true →
      exec (.amoScCas d a b 1) s = .next (if old = rdX s d then afterAmo s1 d m3 k (natBytes 8 (rdX s b).toNat) old else afterX s1 d m3 old))) ∧
  (∀ (s s1 : State) (d a b : Reg) (u : BitVec 1) (dv va : Nat), quiet s = true → inOrdered s s.cur = false → (rdX s a).toNat % 8 = 0 →
    place s (rdX s a) 8 [rightRD, rightWR] = .ok (s1, .peer dv va) → peerLimit s1 dv va false = false →
    ∀ i ∈ [Instr.amoScSwap d a b 1, .amoScAdd d a b 1, .amoScMin d a b u 1, .amoScMax d a b u 1, .amoScCas d a b 1],
      ∃ t, exec i s = .next t ∧ ∃ f ∈ t.far, f.tid = s.cur ∧ f.dev = dv + 1 ∧ t.th.run = .blocked f.id) ∧
  (∀ (s : State) (d a b : Reg) (k : Nat), quiet s = true → buffers s = true → (rdX s a).toNat % 8 = 0 → localKey s s.cur (rdX s a) 8 = .ok k →
    ∀ i ∈ [Instr.amoScSwap d a b 1, .amoScAdd d a b 1, .amoScCas d a b 1], exec i s = .next (wantIrrevocable s)) ∧
  (∀ (s : State) (d a b : Reg) (u : BitVec 1), quiet s = true →
    ((rdX s a).toNat % 4 ≠ 0 → ∀ i ∈ [Instr.amoScSwap d a b 0, .amoScAdd d a b 0, .amoScMin d a b u 0, .amoScMax d a b u 0, .amoScCas d a b 0],
      exec i s = .next (takeTrap s 0x05 (rdX s a))) ∧
    ((rdX s a).toNat % 8 ≠ 0 → ∀ i ∈ [Instr.amoScSwap d a b 1, .amoScAdd d a b 1, .amoScMin d a b u 1, .amoScMax d a b u 1, .amoScCas d a b 1],
      exec i s = .next (takeTrap s 0x05 (rdX s a))))

/-- R357: the taint instructions, on x registers (v = 0 or w = 0) and v registers (1). -/
def Obligations.TaintInstructions : Prop :=
  ∀ (s : State) (d a : Reg) (v w : BitVec 1), quiet s = true →
    (∃ t, exec (.depJoin d a v w) s = .next t ∧ t = { s with threads := t.threads } ∧ t.th.pc = s.th.pc + BitVec.ofNat 64 s.ilen ∧
      t.th.x = s.th.x ∧ t.th.v = s.th.v ∧
      (v = 1 ∨ d ≠ 0 → anyMask t.th v d = { anyMask s.th v d with j := (anyMask s.th v d).j ||| ((anyMask s.th w a).d ||| (anyMask s.th w a).j) }) ∧
      (∀ q (r : Reg), q ≠ v ∨ r ≠ d → anyMask t.th q r = anyMask s.th q r) ∧ t.th.maskX 0 = {}) ∧
    (∃ t, exec (.depClr d a v) s = .next t ∧ t = { s with threads := t.threads } ∧ t.th.pc = s.th.pc + BitVec.ofNat 64 s.ilen ∧
      t.th.x = s.th.x ∧ t.th.v = s.th.v ∧
      (v = 1 ∨ d ≠ 0 → anyMask t.th v d = { anyMask s.th v d with j := (anyMask s.th v d).j &&& ~~~((rdX s a).truncate 16) }) ∧
      (∀ q (r : Reg), q ≠ v ∨ r ≠ d → anyMask t.th q r = anyMask s.th q r) ∧ t.th.maskX 0 = {}) ∧
    (((anyMask s.th w a).d ||| (anyMask s.th w a).j) &&& s.th.outstanding = 0 → exec (.depWait a w) s = .next (afterNone s)) ∧
    (((anyMask s.th w a).d ||| (anyMask s.th w a).j) &&& s.th.outstanding ≠ 0 → exec (.depWait a w) s = .next s)

/-- R358, R359: waits on memory. `key` gives the place of each word of the list. -/
def Obligations.WaitsOnMemory : Prop :=
  (∀ (s : State) (d a b : Reg) (o : BitVec 7) (k : Nat) (addr : Word), quiet s = true → addr = rdX s a + (o ++ (0 : BitVec 3)).signExtend 64 →
    (addr.toNat % 8 ≠ 0 → exec (.waitAddr d a b o) s = .next (takeTrap s 0x05 addr)) ∧
    (addr.toNat % 8 = 0 → nearAt s (maskOf s a) addr 8 k true = true →
      exec (.waitAddr d a b o) s = .next (if numAt s k 8 = (rdX s b).toNat then s.setTh { s.th with run := .sleepWait [k / 16 * 16] }
        else afterX s d {} (BitVec.ofNat 64 (numAt s k 8))))) ∧
  (∀ (s : State) (d a b : Reg), quiet s = true → s.th.anyOver = true →
    exec (.waitAny d a b) s = .next (afterX (s.setTh { s.th with anyList := none, anyOver := false }) d {} (BitVec.allOnes 64))) ∧
  (∀ (s : State) (d a b : Reg) (l : List (Word × Word)) (key : Word → Nat) (k : Nat), quiet s = true → s.th.anyOver = false → (rdX s a).toNat % 16 = 0 →
    (s.th.anyList = some l ∨ (s.th.anyList = none ∧ bitsOf (rdX s b) 31 3 = 0 ∧
      nearAt s (maskOf s a) (rdX s a) (16 * (bitsOf (rdX s b) 2 0 + 1)) k true = true ∧
      l = pairsOf (leWords (2 * (bitsOf (rdX s b) 2 0 + 1)) (memGets s.mem k (16 * (bitsOf (rdX s b) 2 0 + 1)))))) →
    (∀ p ∈ l, p.1.toNat % 8 = 0 ∧ nearAt s {} p.1 8 (key p.1) true = true) →
    (∀ i (h : i < l.length), (∀ j (h' : j < i), numAt s (key l[j].1) 8 = l[j].2.toNat) → numAt s (key l[i].1) 8 ≠ l[i].2.toNat →
      exec (.waitAny d a b) s = .next (afterX (s.setTh { s.th with anyList := none, anyOver := false }) d {} (BitVec.ofNat 64 i))) ∧
    ((∀ p ∈ l, numAt s (key p.1) 8 = p.2.toNat) →
      exec (.waitAny d a b) s = .next (s.setTh { s.th with
        run := .sleepAny (l.map (fun p => key p.1 / 16 * 16)) (bitsOf (rdX s b) 63 32 != 0), anyList := some l })))

/-- R360 to R362: barriers. -/
def Obligations.Barriers : Prop :=
  (∀ (s : State) (a b : Reg) (bar : Barrier), quiet s = true → bar = getBarrier s s.myCluster (rdX s a) →
    (barrierOk (rdX s a) = true → bitsOf (rdX s b) 63 16 = 0 → (bar.holder = none ∨ bar.holder = some s.myCtx) →
      exec (.barInit a b) s = .next (afterNone (putBarrier s s.myCluster (rdX s a)
        (if bitsOf (rdX s b) 15 0 = 0 then { bar with holder := none }
         else { holder := some s.myCtx, inst := BitVec.ofNat 16 (bitsOf (rdX s a) 31 16), count := bitsOf (rdX s b) 15 0, phase := false, cur := 0, next := 0 })))) ∧
    ((barrierOk (rdX s a) = false ∨ bitsOf (rdX s b) 63 16 ≠ 0 ∨ (bar.holder ≠ none ∧ bar.holder ≠ some s.myCtx)) →
      Rejects (.barInit a b) s)) ∧
  (∀ (s : State) (a : Reg), quiet s = true →
    (barrierOk (rdX s a) = true → exec (.barArrive a) s = .next (afterNone (barrierSend s (rdX s a)))) ∧
    (barrierOk (rdX s a) = false → Rejects (.barArrive a) s ∧ Rejects (.barWait a) s) ∧
    (barrierOk (rdX s a) = true → (getBarrier s s.myCluster (rdX s a)).matches s.myCtx (rdX s a) = true →
      ((getBarrier s s.myCluster (rdX s a)).phase ≠ bitOf (rdX s a) 32 → exec (.barWait a) s = .next (afterNone s)) ∧
      ((getBarrier s s.myCluster (rdX s a)).phase = bitOf (rdX s a) 32 → exec (.barWait a) s = .next s)) ∧
    (barrierOk (rdX s a) = true → (getBarrier s s.myCluster (rdX s a)).matches s.myCtx (rdX s a) = false →
      exec (.barWait a) s = .next (afterNone (writeFault s s.myCtx
        { dev := ownId s, tid := some s.cur, agent := 0, code := 0x31, wid := s.th.wid, pc := s.th.pc })))) ∧
  (∀ (s : State) (x : BarSent) (r : List BarSent), s.barSent = x :: r → s.ev.n = 0 →
    let bar := getBarrier s x.cluster x.id
    (bar.matches x.ctx x.id = true → ∃ t, exec .barrierArrival s = .next t ∧ t.barSent = r ∧
      (bitOf x.id 32 = bar.phase → bar.cur + 1 < bar.count → getBarrier t x.cluster x.id = { bar with cur := bar.cur + 1 }) ∧
      (bitOf x.id 32 = bar.phase → bar.cur + 1 = bar.count → bar.next < bar.count →
        getBarrier t x.cluster x.id = { bar with phase := !bar.phase, cur := bar.next, next := 0 }) ∧
      (bitOf x.id 32 ≠ bar.phase → getBarrier t x.cluster x.id = { bar with next := bar.next + 1 })) ∧
    (bar.matches x.ctx x.id = false → ∃ t, exec .barrierArrival s = .next t ∧
      t = writeFault { s with barSent := r } x.ctx { dev := ownId s, tid := some x.tid, retired := x.retired, agent := 0, code := 0x31, wid := x.wid, pc := x.pc } ∧
      t.barSent = r ∧ ∀ c id, getBarrier t c id = getBarrier s c id))

/-- R366: the peer slots of the executing context, and the commit mark. -/
def Obligations.PeerSlotsAndMark : Prop :=
  ∀ (s : State) (d a : Reg), quiet s = true →
    (∃ v, exec (.peerErr d a) s = .next (afterX s d {} v) ∧
      let dev := bitsOf (rdX s a) 14 0
      (∀ i, i < 63 → (mySlot s i).used = true → (mySlot s i).dev.toNat = dev → (∀ j, j < i → ¬((mySlot s j).used = true ∧ (mySlot s j).dev.toNat = dev)) →
        v.toNat = i + 256 + (if (mySlot s i).sticky then 512 else 0)) ∧
      ((∀ j, j < 63 → ¬((mySlot s j).used = true ∧ (mySlot s j).dev.toNat = dev)) →
        ((∃ j, j < 63 ∧ (mySlot s j).used = false) → v = 0) ∧
        ((∀ j, j < 63 → (mySlot s j).used = true) → v.toNat = 63 + 256 + (if (mySlot s 63).sticky then 512 else 0)))) ∧
    (let i := bitsOf (rdX s a) 5 0; exec (.peerId d a) s = .next (afterX s d {} (if (mySlot s i).used = false then 0xFFFF else if i = 63 then 0x8000 else (mySlot s i).dev.zeroExtend 64))) ∧
    (∃ t, exec (.peerClr a) s = .next t ∧ t.th = s.th.past s.ilen ∧ t.mem = s.mem ∧
      ∀ i, i < 64 → mySlot t i = { mySlot s i with sticky := (mySlot s i).sticky && !bitOf (rdX s a) i }) ∧
    (∃ v, exec (.tsGet d) s = .next (afterX s d {} v) ∧
      (∀ l, launchOf s s.cur = some l → l.ordered = false → v = BitVec.allOnes 64) ∧
      (∀ l, launchOf s s.cur = some l → l.ordered = true → (l.lwm = none → v = BitVec.allOnes 64) ∧
        ∀ p i, l.lwm = some (p, i) → v.toNat = p % 2 ^ 32 * 2 ^ 32 + i % 2 ^ 32))

/-- R364: three-party requests. `w0` and `w1` are the words of the descriptor. -/
def Obligations.ThreePartyRequests : Prop :=
  ∀ (s : State) (d a b : Reg) (cast : Bool) (k : Nat) (w0 w1 : Word) (i : Instr), quiet s = true →
    i = (if cast then Instr.rdCast d a b else .rdFwd d a b) →
    ((rdX s a).toNat % 16 ≠ 0 → Rejects i s) ∧
    ((rdX s a).toNat % 16 = 0 → nearAt s (masksOf s a b) (rdX s a) 16 k true = true →
      w0 = leWord (memGets s.mem k 16) → w1 = leWord ((memGets s.mem k 16).drop 8) →
      (bitOf (s.ctx s.myCtx).ptroot 0 = false → exec i s = .next (takeTrap s 0x11)) ∧
      (bitOf (s.ctx s.myCtx).ptroot 0 = true →
        (bitsOf w1 63 40 ≠ 0 ∨ bitsOf w1 25 0 = 0 ∨ (cast = false ∧ bitsOf w1 39 32 ≠ 0) ∨ (cast = true ∧ bitsOf w0 63 48 ≠ 0) →
          Rejects i s) ∧
        (bitsOf w1 63 40 = 0 → bitsOf w1 25 0 ≠ 0 → (cast = false → bitsOf w1 39 32 = 0 ∧ deviceField w0 ≤ 0x8000) → (cast = true → bitsOf w0 63 48 = 0) →
          deviceField (rdX s b) ≤ 0x8000 → belowWindows (rdX s b).toNat = true → belowWindows w0.toNat = true → buffers s = false →
          (∀ dv va, peerLimit s dv va false = false) →
          ∃ t f, exec i s = .next t ∧ f ∈ t.far ∧ f.tid = s.cur ∧ f.kind = .forward cast ∧ f.data = memGets s.mem k 16 ∧ f.addr = rdX s b ∧
            f.taint = (masksOf s a b).taint ∧ f.performed = false ∧ t.mem = s.mem ∧ t.th.pc = s.th.pc + BitVec.ofNat 64 s.ilen ∧
            (d = 0 → f.dest = .none ∧ f.slot = none) ∧
            (d ≠ 0 → f.dest = .x d 64 false ∧ f.slot = freeSlot s.th))))

/-- R335, R338, R339. That call.at checks the image first, then the device field and then the reserved bits of its target is the model's
reading (log 50). -/
def Obligations.NodeChildAndCalls : Prop :=
  (∀ (s : State) (d a b : Reg), quiet s = true →
    let v := Fmt.f32.value ((rdX s b).toNat % 2 ^ 32)
    (v.isNan = true → exec (.nodeCh d a b) s = .next (takeTrap s 0x43)) ∧
    (v.isNan = false → exec (.nodeCh d a b) s = .next (afterX s d (masksOf s a b)
      (BitVec.ofNat 64 (2 * (rdX s a).toNat + 1 + (if v.lt (.fin false 0 0) then 0 else 1)))))) ∧
  (∀ (s : State) (a b : Reg) (k : Nat) (r : Record), quiet s = true →
    ((rdX s a).toNat % 64 ≠ 0 → Rejects (.callAt a b) s) ∧
    ((rdX s a).toNat % 64 = 0 → nearAt s (masksOf s a b) (rdX s a) 64 k true = true → r = recordOf (memGets s.mem k 64) →
      ((callImage r).valid = false → Rejects (.callAt a b) s) ∧
      ((callImage r).valid = true →
        (0x8000 < deviceField (rdX s b) → exec (.callAt a b) s = .next (takeTrap s 0x10 (rdX s b))) ∧
        (deviceField (rdX s b) ≤ 0x8000 → (bitsOf (rdX s b) 47 16 ≠ 0 ∨ bitsOf (rdX s b) 14 12 ≠ 0 ∨ (bitOf (rdX s b) 15 = true ∧ bitsOf (rdX s b) 11 8 ≠ 0)) →
          Rejects (.callAt a b) s) ∧
        (∀ l g, deviceField (rdX s b) = 0 → (rdX s b).toNat = g → g < 4096 → inOrdered s s.cur = false →
          receiver s (some s.mySeq) (s.ctx s.myCtx).job false g = some l → s.launch l.seq = some l → launchSaved s l = false → createFull s l g = false →
          ∃ t, exec (.callAt a b) s = .next t ∧ dequeOf t g l.seq = dequeOf s g l.seq ++ [callRecord s r] ∧ sameOffTiers s t l g ∧
            t.th.pc = s.th.pc + BitVec.ofNat 64 s.ilen ∧ t.launch l.seq = some { l with live := l.live + 1 })))) ∧
  (∀ (s : State) (a b : Reg) (l : Launch) (bs n k : Nat) (act : Activation), quiet s = true → s.th.act = some act → s.myLaunch = some l → inOrdered s s.cur = false →
    tcmAllot l s.myCore = some (bs, n) → bs ≤ (rdX s a).toNat → (rdX s a).toNat + 32 ≤ bs + n → (rdX s a).toNat % 32 = 0 → (rdX s a).toNat < 0x20000 →
    (rdX s b).toNat % 4 = 0 → k = tcmKey s.myCore (rdX s a).toNat → localFree s {} k 32 = true → homeFails s k 32 true = none →
    (numAt s (k + 24) 8 ≠ 0 → ∃ t, exec (.msgWait a b) s = .next t ∧ t.th.pc = rdX s b ∧ (Memory.wf s.mem → numAt t (k + 24) 8 = 0) ∧
      (∀ j, j < 4 → rdX t (BitVec.ofNat 5 (10 + j)) = BitVec.ofNat 64 (numAt s (k + 8 * j) 8) ∧ t.th.maskX (BitVec.ofNat 5 (10 + j)) = {}) ∧
      (∀ j, j < k + 24 ∨ k + 32 ≤ j → memGet t.mem j = memGet s.mem j)) ∧
    (numAt s (k + 24) 8 = 0 → waiterCount s s.myCore < 16 → ∃ t, exec (.msgWait a b) s = .next t ∧ t.th.run = .idle ∧ t.th.act = none ∧ t.mem = s.mem ∧
      ∃ w ∈ (t.core s.myCore).waiters, w.launch = act.launch ∧ w.mbox = (rdX s a).toNat ∧ w.record = contRecord s.th (some 2) (rdX s b)))

/-- R342 to R344: the deque instructions. `k` is the place of the image, which lies outside the deque's own tiers (R104). That a malformed range
is stolen whole is the model's reading (log 49). -/
def Obligations.DequeInstructions : Prop :=
  (∀ (s : State) (d : Reg), quiet s = true →
    exec (.taskCnt d) s = .next (afterX s d {} (BitVec.ofNat 64 (dequeOf s s.myCore s.mySeq).length))) ∧
  (∀ (s : State) (d a : Reg), quiet s = true → inOrdered s s.cur = true →
    ∀ i ∈ [Instr.taskPop d, .taskSplit d a, .taskSteal d a], exec i s = .next (takeTrap s 0x01)) ∧
  (∀ (s : State) (d a : Reg) (k : Nat) (l : Launch), quiet s = true → inOrdered s s.cur = false → s.myLaunch = some l → s.launch l.seq = some l → l.seq = s.mySeq →
    launchSaved s l = false → offTiers s l s.myCore k 64 → tablesOff s l s.myCore k 64 →
    (rdX s a).toNat % 64 = 0 → nearAt s (maskOf s a) (rdX s a) 64 k true = true → nearAt s (maskOf s a) (rdX s a) 64 k false = true →
    let r := recordOf (memGets s.mem k 64)
    let q := dequeOf s s.myCore l.seq
    (r.valid = true → createFull s l s.myCore = false → ∃ t, exec (.taskPush a) s = .next t ∧ dequeOf t s.myCore l.seq = r :: q ∧
      t.launch l.seq = some { l with live := l.live + 1 } ∧ sameOffTiers s t l s.myCore ∧ t.th = s.th.past s.ilen) ∧
    (r.valid = true → createFull s l s.myCore = true → exec (.taskPush a) s = .next (takeTrap s 0x50)) ∧
    (r.valid = false → Rejects (.taskPush a) s) ∧
    (∀ x rest, q = x :: rest → ∃ t, exec (.taskPop a) s = .next t ∧ dequeOf t s.myCore l.seq = rest ∧ (Memory.wf s.mem → memGets t.mem k 64 = wordsBytes x.words) ∧
      t.launch l.seq = some { l with live := l.live - 1 } ∧ (a ≠ 0 → rdX t a = 1) ∧
      ∀ j, (j < k ∨ k + 64 ≤ j) → offTiers s l s.myCore j 1 → memGet t.mem j = memGet s.mem j) ∧
    (q = [] → exec (.taskPop a) s = .next (afterX s a {} 0)) ∧
    ((r.kind ≠ 1 ∨ (r.w3.toNat ≤ r.w4.toNat ∧ r.w4.toNat ≤ r.w3.toNat + 1)) → exec (.taskSplit d a) s = .next (afterX s d {} 0)) ∧
    (r.kind = 1 → r.w3.toNat + 2 ≤ r.w4.toNat →
      let g := (r.w4.toNat - r.w3.toNat) / 2
      let mid := r.w4 - BitVec.ofNat 64 g
      (splitAt r mid).2.valid = true → createFull s l s.myCore = false →
      ∃ t, exec (.taskSplit d a) s = .next t ∧ dequeOf t s.myCore l.seq = (splitAt r mid).2 :: q ∧ (splitAt r mid).2.w3 = mid ∧ (splitAt r mid).2.w4 = r.w4 ∧
        (Memory.wf s.mem → memGets t.mem k 64 = wordsBytes ({ r with w4 := mid } : Record).words) ∧ (d ≠ 0 → rdX t d = BitVec.ofNat 64 g)) ∧
    ((l.crlvl ≠ 7 ∨ stealFrom s l = none) → exec (.taskSteal d a) s = .next (afterX s d {} 0)) ∧
    (∀ g x, l.crlvl = 7 → stealFrom s l = some g → offTiers s l g k 64 → tablesOff s l g k 64 → (dequeOf s g l.seq).getLast? = some x → ¬(x.kind = 1 ∧ x.w3.toNat + 2 ≤ x.w4.toNat) →
      ∃ t, exec (.taskSteal d a) s = .next t ∧ dequeOf t g l.seq = (dequeOf s g l.seq).dropLast ∧ (Memory.wf s.mem → memGets t.mem k 64 = wordsBytes x.words) ∧ (d ≠ 0 → rdX t d = 1)))

/-- R345 to R347, R140. -/
def Obligations.FollowAndRepeat : Prop :=
  (∀ (s : State) (a : Reg), quiet s = true →
    exec (.follow a) s = .next (afterNone (if leads s (leaderOf s (rdX s a)) then s.setTh { s.th with fol := some { leader := leaderOf s (rdX s a) } } else s))) ∧
  (∀ s : State, quiet s = true → exec .followEnd s = .next (afterNone s)) ∧
  (∀ (s : State) (f : Following), s.th.fol = some f →
    exec .followEnd s = .next (s.setTh { s.th with pc := s.th.pc + BitVec.ofNat 64 s.ilen, fol := none })) ∧
  (∀ (s : State) (a : Reg) (l m n : BitVec 4), quiet s = true →
    ((rdX s a).toNat = 0 ∨ 4096 < (rdX s a).toNat → exec (.frep a l m n) s = .next (takeTrap s 0x01)) ∧
    (0 < (rdX s a).toNat → (rdX s a).toNat ≤ 4096 →
      exec (.frep a l m n) s = .next (s.setTh { s.th.past s.ilen with rep := some (Rep.mk (s.th.pc + BitVec.ofNat 64 s.ilen) (n.toNat + 1) m (l.toNat + 1)
          (rdX s a).toNat 0 0 [] 0) }))) ∧
  (∀ (r : Rep) (pc : Word) (len : Nat),
    (r.pos + 1 < r.n → repNext r pc len = (pc + BitVec.ofNat 64 len, some { r with pos := r.pos + 1 })) ∧
    (r.pos + 1 = r.n → r.pass + 1 < r.passes → repNext r pc len = (r.start, some { r with pos := 0, pass := r.pass + 1 })) ∧
    (r.pos + 1 = r.n → r.pass + 1 = r.passes → repNext r pc len = (pc + BitVec.ofNat 64 len, none))) ∧
  (∀ (r : Rep) (d a b : Reg) (t : BitVec 3), d.toNat + r.pass % r.lim ≤ 31 → a.toNat + r.pass % r.lim ≤ 31 → b.toNat + r.pass % r.lim ≤ 31 →
    let name := fun (j : Nat) (x : Reg) => if bitOf r.stag j then BitVec.ofNat 5 (x.toNat + r.pass % r.lim) else x
    stagger r (.vfma d a b t) = .vfma (name 0 d) (name 1 a) (name 2 b) t ∧ stagger r (.vs b a 0) = .vs (name 2 b) a 0)

/-- R383 to R385. `k` is the place of the descriptor. -/
def Obligations.StreamUnits : Prop :=
  (∀ (s : State) (a : Reg) (u : BitVec 2) (k : Nat), quiet s = true → (∀ x, s.co.streams.toList.getD u.toNat none = some x → x.owner = s.cur) →
    ((rdX s a).toNat % 32 ≠ 0 → Rejects (.strmCfg a u) s) ∧
    ((rdX s a).toNat % 32 = 0 → nearAt s (maskOf s a) (rdX s a) 32 k true = true →
      let w := leWords 4 (memGets s.mem k 32)
      let x := streamOf s.cur w
      (streamWordsOk w x = false → Rejects (.strmCfg a u) s) ∧
      (streamWordsOk w x = true → streamInside s x = false → exec (.strmCfg a u) s = .next (takeTrap s 0x11 x.base)) ∧
      (streamWordsOk w x = true → streamInside s x = true → exec (.strmCfg a u) s = .next (afterNone (setUnit s u.toNat (some x)))))) ∧
  (∀ (s : State) (u : BitVec 2), quiet s = true →
    (s.co.streams.toList.getD u.toNat none = none → Rejects (.strmBind u) s ∧ exec (.strmEnd u) s = .next (afterNone s)) ∧
    (∀ x, s.co.streams.toList.getD u.toNat none = some x → x.owner = s.cur → x.bound = false →
      exec (.strmBind u) s = .next (afterNone (setUnit s u.toNat (some { x with bound := true }))) ∧ exec (.strmEnd u) s = .next (afterNone s))) ∧
  (∀ (s : State) (u : BitVec 2) (x : StreamUnit), s.th.window = [] → s.th.rep = none → s.th.fol = none →
    (∀ p ∈ s.threads, ∀ f, p.2.fol = some f → f.leader ≠ s.cur) → boundUnit s u.toNat = some x →
    ((x.write = false ∨ farPendV s s.cur (u.zeroExtend 5) = false) → exec (.strmEnd u) s = .next (afterNone (setUnit s u.toNat none))) ∧
    (x.write = true → farPendV s s.cur (u.zeroExtend 5) = true → exec (.strmEnd u) s = .next s) ∧ Rejects (.strmBind u) s) ∧
  (∀ (s : State) (d : Reg) (i k : Nat) (x : StreamUnit), i < 4 → d.toNat ≥ 4 → s.th.bad = 0 → s.winRun = none → s.th.window = [] → s.th.rep = none → s.th.fol = none →
    (∀ p ∈ s.threads, ∀ f, p.2.fol = some f → f.leader ≠ s.cur) → (∀ f ∈ s.far, f.tid ≠ s.cur) →
    boundUnit s i = some x → x.write = false → (x.ahead ≠ [] ∨ nearAt s {} (x.addr x.pos) 16 k true = true) →
    ∃ t, exec (.vmv d (BitVec.ofNat 5 i)) s = .next t ∧ rdV t d = x.ahead.headD (BitVec.ofNat 128 (numAt s k 16)) ∧ t.th.maskV d = {} ∧ t.mem = s.mem ∧
      t.co.streams.toList.getD i none = (if x.pos + 1 < x.total then some { x with pos := x.pos + 1, ahead := x.ahead.drop 1 } else none))

/-- R340, R118: suspension points. -/
def Obligations.SuspensionPoints : Prop :=
  ∀ (s : State) (act : Activation), quiet s = true → s.th.act = some act →
    let n := s.th.pc + BitVec.ofNat 64 s.ilen
    (n.toNat % 4 ≠ 0 → Rejects .suspend s ∧ Rejects .yield s) ∧
    (n.toNat % 4 = 0 → inOrdered s s.cur = false →
      (∃ t, exec .suspend s = .next t ∧ t.th.run = .idle ∧ t.th.act = none ∧ t.th.x = s.th.x ∧
        (∀ l, s.launch act.launch = some l → launchSaved s l = false → sameOffTiers s t l s.myCore) ∧
        dequeOf t s.myCore act.launch = contRecord s.th none n :: dequeOf s s.myCore act.launch) ∧
      (∃ t, exec .yield s = .next t ∧ t.th.run = .idle ∧ t.th.act = none ∧ t.th.x = s.th.x ∧
        (∀ l, s.launch act.launch = some l → launchSaved s l = false → sameOffTiers s t l s.myCore) ∧
        dequeOf t s.myCore act.launch = dequeOf s s.myCore act.launch ++ [contRecord s.th none n])) ∧
    (n.toNat % 4 = 0 → inOrdered s s.cur = true →
      (∃ t, exec .suspend s = .next t ∧ t.th.run = .committing (.suspend (contRecord s.th none n)) ∧ t.th.act = some act ∧ t.th.pc = n ∧ t.mem = s.mem) ∧
      (∃ t, exec .yield s = .next t ∧ t.th.run = .committing (.yield (contRecord s.th none n)) ∧ t.th.act = some act ∧ t.th.pc = n ∧ t.mem = s.mem)) ∧
    (act.record.kind ≠ 3 → inOrdered s s.cur = false → ∀ l, s.launch act.launch = some l →
      ∃ t, exec .exit s = .next t ∧ t.th.run = .idle ∧ t.th.act = none ∧ t.mem = s.mem ∧ t.launch act.launch = some { l with live := l.live - 1 }) ∧
    (inOrdered s s.cur = true → ∃ t, exec .exit s = .next t ∧ t.th.run = .committing .exit ∧ t.th.act.map (·.launch) = some act.launch)

/-- R388, R391 to R393, R397. In each clause q is 0 for the matrix and 1 for the copy queue. -/
def Obligations.EngineInstructions : Prop :=
  (∀ (s : State) (a : Reg), quiet s = true →
    let raw : Tcw := rdV s (a + 1) ++ rdV s a
    let w := pairTcw s a
    let q := tcwQueue w
    (∀ c, pushCause s raw w = some c → exec (.engPush a) s = .next (takeTrap s c)) ∧
    (pushCause s raw w = none → (masksV s a (a + 1)).taint &&& s.th.outstanding = 0 → inOrdered s s.cur = false →
      ((queueOf s s.myCore q).full = false → ∃ t e, exec (.engPush a) s = .next t ∧
        (queueOf t s.myCore q).queued = (queueOf s s.myCore q).queued ++ [e] ∧ e.tcw = w ∧ e.fence = none ∧ e.tid = s.cur ∧ e.launch = s.mySeq ∧
        e.wid = s.th.wid ∧ e.pc = s.th.pc ∧ e.eprio = tcwPrio w ∧ e.progress = 0 ∧ (queueOf t s.myCore q).running = (queueOf s s.myCore q).running ∧
        t.th.srctr = (if tcwDraws w 0 then srctrPast s.th.srctr (32 * tcwNgrp w) else s.th.srctr) ∧ t.th.pc = s.th.pc + BitVec.ofNat 64 s.ilen ∧
        (bitOf s.dbg.elogCtl 0 = false → t.mem = s.mem)) ∧
      ((queueOf s s.myCore q).full = true →
        exec (.engPush a) s = .next s ∨
        (exec (.engPush a) s = .next (takeTrap s 0x21) ∧
          ∃ e r, (queueOf s s.myCore q).queued = e :: r ∧ ∃ j, j < 8 ∧ entryTiles s s.myCore e / 2 ^ j % 2 = 1 ∧ (tileOf s s.myCore j).holder = some s.cur)))) ∧
  (∀ (s : State) (i : BitVec 5), quiet s = true →
    let q := if bitOf i 2 then 1 else 0
    ((queueOf s s.myCore q).full = true → exec (.engQfence i) s = .next s) ∧
    ((queueOf s s.myCore q).full = false → ∃ t e, exec (.engQfence i) s = .next t ∧ (queueOf t s.myCore q).queued = (queueOf s s.myCore q).queued ++ [e] ∧
      e.fence = some (BitVec.ofNat 2 (bitsOf i 1 0)) ∧ e.tid = s.cur ∧ t.mem = s.mem)) ∧
  (∀ (s : State) (d : Reg) (i : BitVec 5), quiet s = true →
    exec (.engWait i) s = .next (if ∃ e ∈ (queueOf s s.myCore (bitsOf i 0 0)).all, e.tid = s.cur then s else afterNone s) ∧
    ∃ v, exec (.engStat d i) s = .next (afterX s d {} v) ∧ bitsOf v 63 61 = (queueOf s s.myCore (bitsOf i 0 0)).all.length % 8 ∧
      bitsOf v 60 54 = (if bitsOf i 0 0 = 0 then s.th.engCode.1 else s.th.engCode.2) % 128 ∧
      (bitsOf i 0 0 = 1 → bitsOf v 16 0 = s.th.gatherCounts.1 % 2 ^ 17)) ∧
  (∀ (s : State) (a : Reg), quiet s = true →
    (inOrdered s s.cur = true → exec (.engSave a) s = .next (takeTrap s 0x01) ∧ exec (.engResume a) s = .next (takeTrap s 0x01)) ∧
    (inOrdered s s.cur = false → bitsOf (rdX s a) 5 1 ≠ 0 → Rejects (.engSave a) s ∧ Rejects (.engResume a) s) ∧
    (inOrdered s s.cur = false → bitsOf (rdX s a) 5 1 = 0 → ∀ k,
      let q := bitsOf (rdX s a) 0 0
      let u := queueOf s s.myCore q
      let mine := fun (e : Entry) => e.launch == s.mySeq
      (nearAt s (maskOf s a) (rdX s a &&& ~~~(63 : Word)) 576 k false = true → u.running.any mine = false → ∃ t, exec (.engSave a) s = .next t ∧
        (Memory.wf s.mem → memGets t.mem k 576 = queueImage q s.mySeq ((u.running.toList ++ u.paused.toList ++ u.queued).filter mine)) ∧
        queueOf t s.myCore q = { u with running := u.running.filter (fun e => !mine e), paused := u.paused.filter (fun e => !mine e), queued := u.queued.filter (fun e => !mine e) }) ∧
      (nearAt s (maskOf s a) (rdX s a &&& ~~~(63 : Word)) 576 k true = true → u.all = [] → unitBusy s (unitTid s.myCore q) = false →
        let img := memGets s.mem k 576
        let w := leWord img
        bitsOf w 7 4 = 1 → bitsOf w 2 0 ≤ 4 → bitsOf w 3 3 = q → (leWord (img.drop 8)).toNat = s.mySeq → ∃ t, exec (.engResume a) s = .next t ∧
          t.mem = s.mem ∧ t.th.pc = s.th.pc + BitVec.ofNat 64 s.ilen ∧
          ((∀ j, j < bitsOf w 2 0 → bitOf (leWord (img.drop (64 + 128 * j + 40))) 4 = false) → (queueOf t s.myCore q).all.length = bitsOf w 2 0) ∧
          ∀ e ∈ (queueOf t s.myCore q).all, ∃ j id pc r, j < bitsOf w 2 0 ∧ r = entryFrom s s.mySeq (img.drop (64 + 128 * j)) id pc (j == 0) ∧
            (e = r ∨ ∃ f, e = { r.started' with failing := f }))))

/-- R394 to R396, R386. -/
def Obligations.TilesSlotsAndTable : Prop :=
  (∀ (s : State) (i : BitVec 5) (p : Nat), quiet s = true →
    ((tilesOf s s.cur).1 ≤ i.toNat → exec (.accTake i) s = .next (takeTrap s 0x20) ∧ exec (.accGive i) s = .next (takeTrap s 0x20)) ∧
    (i.toNat < (tilesOf s s.cur).1 → p = (tilesOf s s.cur).2 + i.toNat → p < 8 →
      let tl := tileOf s s.myCore p
      (tl.holder = none → tl.waiters = [] → olderNames s s.myCore p s.nextId = false →
        exec (.accTake i) s = .next (afterNone (setTile s s.myCore p { tl with holder := some s.cur }))) ∧
      (tl.holder = some s.cur → exec (.accTake i) s = .next (afterNone s)) ∧
      (∀ h, tl.holder = some h → h ≠ s.cur → ∃ t, exec (.accTake i) s = .next t ∧ t.th = { s.th with hold := true } ∧ (tileOf t s.myCore p).holder = some h ∧
        ∃ w ∈ (tileOf t s.myCore p).waiters, w.1 = s.cur) ∧
      (tl.holder = some s.cur → exec (.accGive i) s = .next (afterNone (giveToken s s.myCore p)) ∧ (tileOf (giveToken s s.myCore p) s.myCore p).elems = tl.elems ∧
        (headNames s s.myCore p = true ∨ tl.waiters = [] → (tileOf (giveToken s s.myCore p) s.myCore p).holder = none)) ∧
      (tl.holder ≠ some s.cur → exec (.accGive i) s = .next (takeTrap s 0x20)))) ∧
  (∀ (s : State) (d a b : Reg) (p : Nat), quiet s = true →
    let v := rdX s a
    let r := bitsOf v 7 3
    let c := 4 * bitsOf v 10 8
    ((tilesOf s s.cur).1 ≤ bitsOf v 2 0 → exec (.vaccLd d a) s = .next (takeTrap s 0x20) ∧ exec (.vaccSt a b) s = .next (takeTrap s 0x20)) ∧
    (bitsOf v 2 0 < (tilesOf s s.cur).1 → p = (tilesOf s s.cur).2 + bitsOf v 2 0 → p < 8 →
      ((tileOf s s.myCore p).holder ≠ some s.cur → exec (.vaccLd d a) s = .next (takeTrap s 0x20) ∧ exec (.vaccSt a b) s = .next (takeTrap s 0x20)) ∧
      ((tileOf s s.myCore p).holder = some s.cur →
        ((∀ j < 4, 32 * r + c + j ∉ (tileOf s s.myCore p).bad) → GivesLanes (.vaccLd d a) s d (maskOf s a) 32 (fun j => (tileOf s s.myCore p).get r (c + j))) ∧
        ((∃ j < 4, 32 * r + c + j ∈ (tileOf s s.myCore p).bad) → exec (.vaccLd d a) s = .next (takeTrap (s.setCo { s.co with regUe := s.co.regUe + 1 }) 0x60)) ∧
        ∃ t, exec (.vaccSt a b) s = .next t ∧ t.th = s.th.past s.ilen ∧ t.mem = s.mem ∧ (tileOf t s.myCore p).holder = some s.cur ∧
          ∀ i j, i < 32 → j < 32 → (tileOf t s.myCore p).get i j =
            (if i = r ∧ c ≤ j ∧ j < c + 4 then lane 32 (rdV s b) (j - c) else (tileOf s s.myCore p).get i j)))) ∧
  (∀ (s : State) (a : Reg) (i : BitVec 5) (k : Nat), quiet s = true → i.toNat < 32 →
    (foreignSlot s i.toNat = true → Rejects (.shpLd a i) s ∧ Rejects (.shpSt a i) s ∧ Rejects (.shpEvict i) s) ∧
    (foreignSlot s i.toNat = false →
      ((rdX s a).toNat % 32 = 0 → nearAt s (maskOf s a) (rdX s a) 32 k true = true → shOk (BitVec.ofNat 256 (numAt s k 32)) = true →
        exec (.shpLd a i) s = .next (afterNone (setShape s i.toNat (some { desc := BitVec.ofNat 256 (numAt s k 32), launch := s.mySeq })))) ∧
      ((rdX s a).toNat % 32 = 0 → nearAt s (maskOf s a) (rdX s a) 32 k true = true → shOk (BitVec.ofNat 256 (numAt s k 32)) = false →
        Rejects (.shpLd a i) s) ∧
      (shapeOf s i.toNat = none → Rejects (.shpSt a i) s ∧ Rejects (.shpEvict i) s) ∧
      (∀ x, shapeOf s i.toNat = some x → exec (.shpEvict i) s = .next (afterNone (setShape s i.toNat none)) ∧
        ((rdX s a).toNat % 32 = 0 → nearAt s (maskOf s a) (rdX s a) 32 k false = true →
          exec (.shpSt a i) s = .next (afterStores s k ((List.range 4).map (fun j => natBytes 8 (bitsOf x.desc (64 * j + 63) (64 * j))))) ∧
          (Memory.wf s.mem → numAt (afterStores s k ((List.range 4).map (fun j => natBytes 8 (bitsOf x.desc (64 * j + 63) (64 * j))))) k 32 = x.desc.toNat) ∧
          ∀ j, (j < k ∨ k + 32 ≤ j) →
            memGet (afterStores s k ((List.range 4).map (fun j => natBytes 8 (bitsOf x.desc (64 * j + 63) (64 * j))))).mem j = memGet s.mem j)))) ∧
  (∀ (s : State) (a : Reg) (k : Nat), quiet s = true → (rdX s a).toNat % 64 = 0 → nearAt s (maskOf s a) (rdX s a) 1024 k true = true →
    (s.co.table = none ∨ ∃ x, s.co.table = some x ∧ x.launch = s.mySeq) → (∀ e ∈ s.co.cq.all, e.usesTable = false) →
    let w := unitsOf 256 4 (memGets s.mem k 1024)
    ((∃ x ∈ w, 2 ^ 19 ≤ x) → Rejects (.tblLd a) s) ∧
    ((∀ x ∈ w, x < 2 ^ 19) → (∃ x ∈ w, (Fmt.e8m10.value x).isFin = true) →
      exec (.tblLd a) s = .next (afterNone (s.setCo { s.co with table := some { codes := w.map (fun x => BitVec.ofNat 19 x), launch := s.mySeq } }))))

/-- R411 to R422: the rank unit's instructions. `k` and `k2` are the places of what is read and written. -/
def Obligations.RankInstructions : Prop :=
  (∀ (s : State) (a : Reg) (k : Nat), quiet s = true → (rdX s a).toNat % 32 = 0 → nearAt s (maskOf s a) (rdX s a) 32 k true = true →
    let w := leWords 4 (memGets s.mem k 32)
    (bitsOf (w.getD 0 0) 63 60 = 1 → encoderOk s w = true →
      exec (.rkCfg a) s = .next (afterNone (s.setTh { s.th with enc := some { w0 := w.getD 0 0, w1 := w.getD 1 0, w2 := w.getD 2 0, w3 := w.getD 3 0 } }))) ∧
    ((bitsOf (w.getD 0 0) 63 60 = 1 ∧ encoderOk s w = false) ∨ (bitsOf (w.getD 0 0) 63 60 ≠ 1 ∧ bitsOf (w.getD 0 0) 63 60 ≠ 2) →
      Rejects (.rkCfg a) s) ∧
    (∀ k2 t, bitsOf (w.getD 0 0) 63 60 = 2 → (rdX s a).toNat % 64 = 0 → nearAt s (maskOf s a) (rdX s a + 32) 96 k2 true = true →
      rxConfigure s (maskOf s a) (rdX s a) (w ++ leWords 12 (memGets s.mem k2 96)) = .ok t →
      exec (.rkCfg a) s = .next (afterNone t) ∧
      ∃ r, rxOf t s.myCore (bitsOf (w.getD 0 0) 58 56) = some r ∧ r.block = w ++ leWords 12 (memGets s.mem k2 96) ∧ r.launch = s.mySeq ∧ r.state = .open ∧ r.n = 0)) ∧
  (∀ (s : State) (a b : Reg), quiet s = true → s.th.enc = none →
    Rejects .rkEnc s ∧ Rejects (.rkSend a b) s) ∧
  (∀ (s : State) (e : EncState) (k k2 : Nat), quiet s = true → s.th.enc = some e →
    let n := bitsOf e.w1 12 0
    let es := if bitOf e.w0 51 then 4 else 2
    let r := e.encode ((unitsOf n es (memGets s.mem k (n * es))).map (fun v => if es = 2 then v * 65536 else v))
    let out := r.1.flatMap (fun v => natBytes (if e.isShort then 2 else 4) v)
    nearAt s {} e.w2 (n * es) k true = true → out ≠ [] → nearAt s {} e.w3 out.length k2 false = true → (r.2.2 = 0 ∨ bitOf e.w0 49 = false) →
    ∃ t, exec .rkEnc s = .next t ∧ (Memory.wf s.mem → memGets t.mem k2 out.length = out) ∧ (∀ j, j < k2 ∨ k2 + out.length ≤ j → memGet t.mem j = memGet s.mem j) ∧
      t.th.rk.emit = BitVec.ofNat 64 r.2.1 ∧ t.th.rk.nanc = BitVec.ofNat 64 r.2.2 ∧ t.th.pc = s.th.pc + BitVec.ofNat 64 s.ilen ∧ t.th.x = s.th.x) ∧
  (∀ (s s1 : State) (a b : Reg) (e : EncState) (bs : List Byte) (ks : List (Nat × Nat)), quiet s = true → s.th.enc = some e → e.isShort = false → e.sent = 0 →
    inOrdered s s.cur = false → (rdX s b).toNat % 64 = 0 → sendList s (masksOf s a b) e (rdX s a) = .ok (s, bs) → (∀ x, decodeAddr s (rdX s b) ≠ .window x) →
    (∀ x, decodeAddr s1 (rdX s b) ≠ .window x) → place s (rdX s b) 16 [rightWR] = .ok (s1, .far ks) →
    ∃ t, exec (.rkSend a b) s = .next t ∧ t.mem = s.mem ∧ t.th.pc = s.th.pc + BitVec.ofNat 64 s.ilen ∧
      ∀ i, i < (bs.length + 15) / 16 → ∃ f ∈ t.far, f.tid = s.cur ∧ f.kind = .store ∧ f.addr = rdX s b ∧ f.data = (bs.drop (16 * i)).take 16) ∧
  (∀ (s : State) (d a b : Reg) (i : BitVec 3), quiet s = true →
    ((rxOf s s.myCore i.toNat = none ∨ ∃ r, rxOf s s.myCore i.toNat = some r ∧ r.launch ≠ s.mySeq) →
      (∀ j ∈ [Instr.rkFold i, .rkDrain i, .rkGrad a b i, .rkWgrad a b i, .waveCloseInstr i, .waveWait i], Rejects j s) ∧
      exec (.rkStat d i) s = .next (afterX s d {} 0)) ∧
    (∀ r, rxOf s s.myCore i.toNat = some r → r.launch = s.mySeq →
      (∃ v, exec (.rkStat d i) s = .next (afterX s d {} v) ∧ bitsOf v 63 60 = r.state.code ∧ bitsOf v 47 32 = r.closed % 2 ^ 16) ∧
      (r.state = .folding → ∀ j ∈ [Instr.rkDrain i, .rkGrad a b i, .rkWgrad a b i],
        (r.closed ≠ 0 ∧ r.trace ≠ 0 ∧ s.th.mark = none) → exec j s = .next s) ∧
      (∀ g n, s.th.mark = some (i.toNat, r.gen, g) → g < r.closed → n = s.setTh { s.th with mark := none } →
        exec (.rkDrain i) s = .next (afterNone n) ∧ exec (.waveWait i) s = .next (afterNone n)) ∧
      (s.th.mark = none → s.th.lastWave.toList.getD i.toNat none = none →
        exec (.waveWait i) s = .next (s.setTh { s.th with mark := some (i.toNat, r.gen, r.closed) })) ∧
      (∀ x, s.th.mark = none → s.th.lastWave.toList.getD i.toNat none = some (r.gen, x) → x < r.closed → exec (.waveWait i) s = .next (afterNone (s.setTh { s.th with mark := none }))) ∧
      (∃ t, exec (.waveCloseInstr i) s = .next t ∧ t.th.pc = s.th.pc + BitVec.ofNat 64 s.ilen ∧ (r.trace = 0 → t.mem = s.mem)) ∧
      (∀ k, r.state = .open → r.pend = [] → r.heldByTree = false → r.fold < r.closed → r.word 5 = 0 → (r.wave r.fold).ranked = [] → (r.wave r.fold).closed = true →
        r.mmode = 0 → 0 < r.nout → nearAt s {} (r.word 6) (4 * r.nout) k false = true →
        ∃ t, exec (.rkFold i) s = .next t ∧ t.th.pc = s.th.pc + BitVec.ofNat 64 s.ilen ∧
          (r.trace = 0 → (Memory.wf s.mem → memGets t.mem k (4 * r.nout) = List.replicate (4 * r.nout) 0) ∧
            ∀ j, j < k ∨ k + 4 * r.nout ≤ j → memGet t.mem j = memGet s.mem j)) ∧
      (∀ k kt kg G, r.state ≠ .folding → r.closed ≠ 0 → r.trace ≠ 0 → (rdX s a).toNat % 4 = 0 → (rdX s b).toNat % 4 = 0 → 0 < r.tracen →
        nearAt s (masksOf s a b) (rdX s a) (4 * r.nout) kg true = true → nearAt s (masksOf s a b) r.trace (4 * r.tracen) kt true = true →
        nearAt s (masksOf s a b) (rdX s b) (4 * r.tracen) k false = true →
        gradEntries s (masksOf s a b) r (words32 r.nout (memGets s.mem kg (4 * r.nout))) (words32 r.tracen (memGets s.mem kt (4 * r.tracen))) = .ok (s, G) →
        exec (.rkGrad a b i) s = .next (afterStore s k (G.flatMap (fun v => natBytes 4 v)))) ∧
      (∀ k kt kg t, r.state ≠ .folding → r.closed ≠ 0 → r.trace ≠ 0 → (rdX s a).toNat % 4 = 0 → (rdX s b).toNat % 16 = 0 → 0 < r.tracen →
        nearAt s (masksOf s a b) (rdX s a) (4 * r.nout) kg true = true → nearAt s (masksOf s a b) r.trace (4 * r.tracen) kt true = true →
        nearAt s (masksOf s a b) (rdX s b) 16 k true = true →
        let w := leWords 2 (memGets s.mem k 16)
        let l := words32 r.tracen (memGets s.mem kt (4 * r.tracen))
        (w.getD 0 0).toNat % 4 = 0 → bitsOf (w.getD 1 0) 31 0 % 4 = 0 → bitsOf (w.getD 1 0) 63 32 = 0 →
        wgradArrive s (masksOf s a b) r (w.getD 0 0) (bitsOf (w.getD 1 0) 31 0) l = .ok s →
        wgradRows s r (words32 r.nout (memGets s.mem kg (4 * r.nout))) (w.getD 0 0) (bitsOf (w.getD 1 0) 31 0) 0 l = .ok t →
        exec (.rkWgrad a b i) s = .next (afterNone t)) ∧
      (∀ k p, r.state ≠ .folding → r.spike = true → (rdX s a).toNat % 16 = 0 → nearAt s (maskOf s a) (rdX s a) 16 k true = true →
        let w := leWords 2 (memGets s.mem k 16)
        bitsOf (w.getD 0 0) 63 12 = 4 * 2 ^ 48 → w.getD 1 0 = 0 → bitsOf (w.getD 0 0) 11 0 ≤ 4000 → p = (if bitsOf (w.getD 0 0) 11 0 = 0 then 1000 else bitsOf (w.getD 0 0) 11 0) →
        (p ∈ periodsInUse s s.myCore i.toNat ∨ (periodsInUse s s.myCore i.toNat).length < 32) →
        ∃ t x, exec (.waveCfg a i) s = .next t ∧ rxOf t s.myCore i.toNat = some x ∧ x.period = p ∧ x.ticks = 0 ∧ x.stretch = 0 ∧ t.mem = s.mem)))

/-- R269 to R279, R423 to R427. That tr.path gives 0 for a unit of another launch is the model's reading (log 128). -/
def Obligations.DescentAndCollectives : Prop :=
  (∀ (s : State) (a : Reg) (k ko : Nat) (u : TreeUnit), quiet s = true → (rdX s a).toNat % 64 = 0 → nearAt s (maskOf s a) (rdX s a) 64 k true = true →
    u = { block := leWords 8 (memGets s.mem k 64), launch := s.mySeq, state := .configured, pt := List.replicate 256 0, err := s.co.tree.err, bound := s.co.tree.bound, nan := s.co.tree.nan } →
    (treeForeign s = true → Rejects (.trCfg a) s) ∧
    (treeForeign s = false → s.co.tree.state = .descending → exec (.trCfg a) s = .next s) ∧
    (treeForeign s = false → s.co.tree.state ≠ .descending → treeBlockOk s u = false → Rejects (.trCfg a) s) ∧
    (treeForeign s = false → treeBlockOk s u = true → localKey s s.cur u.out (16 * u.batch) = .ok ko → s.co.tree.state ≠ .descending →
      exec (.trCfg a) s = .next (afterNone (setTree (releaseStream s s.co.tree) u)))) ∧
  (∀ (s : State) (d a b : Reg), quiet s = true →
    let u := s.co.tree
    let m := maskOf s a
    (treeBusy s = true → exec (.trDesc a) s = .next (s.setTh { s.th with hold := true })) ∧
    (treeForeign s = true → u.state ≠ .descending → Rejects (.trDesc a) s ∧ Rejects (.trBwd d a b) s ∧ exec (.trPath d a) s = .next (afterX s d {} 0)) ∧
    (u.state = .free → Rejects (.trDesc a) s ∧ Rejects (.trBwd d a b) s ∧
      exec (.trPath d a) s = .next (afterX s d {} 0)) ∧
    (u.state = .done → u.launch = s.mySeq → (rdX s a).toNat % u.elem = 0 → exec (.trDesc a) s = .next (afterNone s)) ∧
    (∀ kn kx ko, u.state = .configured → u.launch = s.mySeq → u.rankMode = false → u.depth = 1 → u.nbm1 = 0 → u.lvl = 0 → (rdX s a).toNat % u.elem = 0 →
      nearAt s m (u.word 1) (u.boff + 4) kn true = true → nearAt s m (rdX s a) (u.dim * u.elem) kx true = true → nearAt s m u.out 16 ko false = true →
      let wb := u.weights (memGets s.mem kn (u.boff + 4))
      let sum := nodeSum wb.1 wb.2 ((unitsOf u.dim u.elem (memGets s.mem kx (u.dim * u.elem))).map (if u.elem = 4 then Fmt.f32 else Fmt.bf16).value)
      (Fmt.f32.value sum).isNan = false →
      ∃ t, exec (.trDesc a) s = .next t ∧ t.co.tree.state = .done ∧ t.co.tree.lvl = 1 ∧ t.co.tree.fetch = u.fetch + 1 ∧
        (Memory.wf s.mem → memGets t.mem ko 16 = natBytes 8 (u.word 3 + BitVec.ofNat 64 (sumBit sum) * u.word 4).toNat ++ natBytes 8 (sumBit sum))) ∧
    (u.state ≠ .free → u.state ≠ .descending → u.launch = s.mySeq →
      exec (.trPath d a) s = .next (afterX s d {} (if bitsOf (rdX s a) 7 0 < u.batch then (u.pt.getD (bitsOf (rdX s a) 7 0) 0).zeroExtend 64 else 0)) ∧
      (∀ k, (rdX s a).toNat % 4 = 0 → (rdX s b).toNat ≤ u.lvl → u.pt.length = 256 → nearAt s (masksOf s a b) (rdX s a) (4 * u.batch) k false = true →
        ∃ t, exec (.trBwd d a b) s = .next t ∧
          (∀ j, Memory.wf s.mem → j < u.batch → numAt t (k + 4 * j) 4 = (ptInput (u.pt.getD j 0) * 2 ^ 21 + u.nodeAt (u.pt.getD j 0) (rdX s b).toNat) % 2 ^ 32) ∧
          (d ≠ 0 → rdX t d = BitVec.ofNat 64 (distinctRuns ((u.pt.take u.batch).map (fun v => u.nodeAt v (rdX s b).toNat))))))) ∧
  (∀ (s : State) (a : Reg) (k km kt : Nat) (c : CollRank), quiet s = true → (rdX s a).toNat % 64 = 0 → nearAt s (maskOf s a) (rdX s a) 64 k true = true →
    let w := leWords 8 (memGets s.mem k 64)
    let n := bitsOf (w.getD 0 0) 35 24 + 1
    rangesOf (w.getD 4 0) (8 * n) = [(w.getD 4 0, 8 * n)] → nearAt s (maskOf s a) (w.getD 4 0) (8 * n) km true = true →
    rangesOf (w.getD 5 0) (32 * n) = [(w.getD 5 0, 32 * n)] → nearAt s (maskOf s a) (w.getD 5 0) (32 * n) kt true = true →
    c = { id := s.nextId, collid := BitVec.ofNat 16 (bitsOf (w.getD 0 0) 63 48), rank := bitsOf (w.getD 0 0) 47 36, job := (s.ctx s.myCtx).job,
          ctx := s.myCtx, launch := s.mySeq, tid := s.cur, wid := s.th.wid, pc := s.th.pc, kernel := s.th.kernel, block := w,
          map := unitsOf n 8 (memGets s.mem km (8 * n)), table := (List.range n).map (fun r => unitsOf 16 2 ((memGets s.mem kt (32 * n)).drop (32 * r))) } →
    (collOk s c = false → Rejects (.collGo a) s) ∧
    (collOk s c = true → inOrdered s s.cur = false → collConflict s c = true → Rejects (.collGo a) s) ∧
    (collOk s c = true → inOrdered s s.cur = false → collConflict s c = false → collLimit s c = true → exec (.collGo a) s = .next s) ∧
    (collOk s c = true → inOrdered s s.cur = false → collConflict s c = false → collLimit s c = false →
      exec (.collGo a) s = .next (afterNone (collAccept { s with nextId := s.nextId + 1 } c)) ∧
      ∃ x ∈ (collAccept { s with nextId := s.nextId + 1 } c).coll, x.id = s.nextId ∧ x.collid = c.collid ∧ x.rank = c.rank)) ∧
  (∀ (s : State) (d a : Reg), quiet s = true →
    exec (.collWait a) s = .next (if (namedRank s (rdX s a)).isSome then s else afterNone s) ∧
    ∃ v, exec (.collStat d a) s = .next (afterX s d {} v) ∧ (namedRank s (rdX s a) = none → v = 0) ∧
      ∀ c, namedRank s (rdX s a) = some c → bitOf v 63 = true ∧ bitsOf v 62 60 = c.phase % 8 ∧ bitsOf v 51 0 = c.written % 2 ^ 52)

/-- R434, R435, R439, R440. -/
def Obligations.ContextAndDebugInstructions : Prop :=
  (∀ (s : State) (d a : Reg), quiet s = true → s.th.kernel = false →
    exec (.ctxSave a) s = .next (takeTrap s 0x01) ∧ exec (.ctxLoad d a) s = .next (takeTrap s 0x01)) ∧
  (∀ (s : State) (d a : Reg), quiet s = true → s.th.kernel = true →
    let c := (rdX s a).toNat % 64
    let x := s.ctx c
    let none_ := s.setTh { s.th with mark := none }
    (s.myCtx ≠ 0 → exec (.ctxSave a) s = .next (takeTrap s 0x11) ∧ exec (.ctxLoad d a) s = .next (takeTrap s 0x11)) ∧
    (s.myCtx = 0 → s.th.mark = none → (64 ≤ (rdX s a).toNat ∨ c = 0) → Rejects (.ctxSave a) s ∧ Rejects (.ctxLoad d a) s) ∧
    (s.myCtx = 0 → s.th.mark = none → (rdX s a).toNat < 64 → c ≠ 0 → x.live = true →
      (s.cpl.state = .idle → x.saveFailed = false → x.save = .saved → exec (.ctxSave a) s = .next (afterNone s)) ∧
      (s.cpl.state = .idle → x.saveFailed = false → x.save = .running → ∃ t, exec (.ctxSave a) s = .next t ∧ (t.ctx c).save = .stopping ∧ t.th.pc = s.th.pc ∧
        t.th.mark = some (8, c, 0)) ∧
      (x.save = .saved → ∃ t, exec (.ctxLoad d a) s = .next t ∧ (t.ctx c).restoreWanted = true ∧ t.th.pc = s.th.pc ∧ t.th.mark = some (9, c, 0)) ∧
      (x.save ≠ .saved → Rejects (.ctxLoad d a) s)) ∧
    (∀ e n, s.myCtx = 0 → s.th.mark = some (8, e, n) → ¬((s.ctx e).live = true ∧ ((s.ctx e).save = .stopping ∨ (s.ctx e).save = .writing)) →
      exec (.ctxSave a) s = .next (afterNone none_)) ∧
    (∀ e n, s.myCtx = 0 → s.th.mark = some (9, e, n) → x.live = true →
      (x.save ≠ .saved → x.save ≠ .restoring → exec (.ctxLoad d a) s = .next (afterX none_ d {} 0)) ∧
      (x.save = .saved → x.restoreErr = false → x.restoreWanted = false → exec (.ctxLoad d a) s = .next (s.setCtx c { x with restoreWanted := true })) ∧
      (x.save = .saved → x.restoreErr = true → x.restoreWanted = false → exec (.ctxLoad d a) s = .next (afterX none_ d {} 0x63)))) ∧
  (∀ (s : State) (a : Reg), quiet s = true →
    (s.dbg.trcBase = 0 → exec (.dbgMark a) s = .next (afterNone s)) ∧
    exec (.dbgMark a) s = .next (afterNone (traceRecord s s.cur 1 ((rdX s a).toNat % 0x10000) s.th.pc)) ∧
    (s.dbg.en = false ∨ s.feature 2 = false ∨ stopFree s = false ∨ s.th.noMatch = true → exec .dbgStop s = .next (afterNone s)) ∧
    (s.dbg.en = true → s.feature 2 = true → s.dbg.stop = none → s.th.noMatch = false →
      ∃ t st, exec .dbgStop s = .next t ∧ t.dbg.stop = some st ∧ st.code = 0x72 ∧ st.tid = s.cur ∧ t.th.stopHeld = true ∧ t.th.pc = s.th.pc))

/-- R129, R131, R127, R173, R248, R290, R358, R359, R436, R301, R302, R304, R261: events around the instructions of a thread set; `n` is the event's first number. What an irrevocable activation overwrites goes to the undo region first (undoDirect, R85). Which thread set can take an asynchronous trap (log 18), what undoDirect notes (log 28) and how a replay runs
(log 76) are the model's choices. -/
def Obligations.CoreEvents : Prop :=
  (∀ (s : State) (n : Nat) (d a b : Reg) (e : WinEntry), s.ev.n = n → mayTurn s n = true → onlyAt s n = none → (s.thread n).defTrap = none → (s.thread n).drain = false →
    (s.thread n).window = [e] → e.held = 0 → e.begun = false → e.instr = .add d a b → (s.thread n).bad = 0 → (s.thread n).misres = 0 → blockedBy { s with cur := n } [] e.use = false →
    ∃ t, exec .deferredExecute s = .next t ∧ (t.thread n).window = [] ∧ (t.thread n).pc = (s.thread n).pc ∧ t.mem = s.mem ∧
      (t.thread n).getX d = (if d = 0 then 0 else (s.thread n).getX a + (s.thread n).getX b)) ∧
  (∀ (s : State) (n : Nat) (d : DefTrap), s.ev.n = n → mayTurn s n = true → onlyAt s n = none → (s.thread n).defTrap = some d → (s.thread n).window.all (fun e => e.held != 0) = true →
    (s.thread n).tvec ≠ 0 →
    ∃ t, exec .deferredExecute s = .next t ∧ (t.thread n).epc = d.pc ∧ (t.thread n).depc = (s.thread n).pc ∧ (t.thread n).faddr = d.faddr ∧
      (t.thread n).cause = causeWord false true d.code ∧ (t.thread n).pc = (s.thread n).tvec ∧ (t.thread n).kernel = true ∧ (t.thread n).pmode = (s.thread n).kernel) ∧
  (∀ (s : State) (f : Far), s.far.find? (fun g => g.id == s.ev.n) = some f → f.performed = true → f.gives = true → f.own = false →
    exec .farLoadData s = .next (deliverData s f f.data) ∧
    ∀ r bits sg i, f.dest = .x r bits sg → f.slot = some i → i < 16 → r ≠ 0 → f.overlay = [] →
      ∃ t, exec .farLoadData s = .next t ∧ (t.thread f.tid).getX r = extendTo bits sg (leNat f.data) ∧ (t.thread f.tid).slots.toList.getD i .free = .free ∧
        ((t.thread f.tid).maskX r).taint &&& slotBit i = 0 ∧ t.mem = s.mem ∧ ∀ g ∈ t.far, g.id ≠ f.id) ∧
  (∀ (s : State) (f : Far) (p : Piece) (va : Nat), s.far.find? (fun g => g.id == s.ev.n) = some f → s.ev.k = 0 → f.pieces = [p] → p.done = false → p.fail = 0 → p.pos = 0 → p.off = none →
    f.over = false → f.own = false → f.dev = 0 → farTainted s f = false → pieceHeld s f p = false → decodeAddr s f.addr = .translated va →
    (inletAt s f.ctx va = none → s.replay = [] → homeWaits s p.key p.len = false →
      (f.kind = .store → homeFails s p.key p.len false = none → exec .accessPerformedAtHome s =
        .next (dropFar (memWrite (undoDirect s f.tid f.addr p.len) p.key (f.data.take p.len)) f.id)) ∧
      (f.kind = .load → f.data = [] → homeFails s p.key p.len true = none →
        ∃ t, exec .accessPerformedAtHome s = .next t ∧ t.mem = s.mem ∧ t.threads = s.threads ∧ ∃ g ∈ t.far, g.id = f.id ∧ g.performed = true ∧ g.data = memRead s p.key p.len) ∧
      (∀ x c sc, f.kind = .atomic .add x c sc → homeFails s p.key p.len true = none → (∀ y, (s.thread f.tid).act = some y → y.irrevocable = false) →
        ∃ t, exec .accessPerformedAtHome s = .next t ∧ t.mem = (memWrite s p.key (natBytes p.len (AmoOp.add.apply p.len (numAt s p.key p.len) x.toNat c.toNat))).mem ∧
          ∃ g ∈ t.far, g.id = f.id ∧ g.performed = true ∧ g.data = natBytes p.len (numAt s p.key p.len)) ∧
      (∀ c, f.kind = .store → homeFails s p.key p.len false = some c →
        ∃ t, exec .accessPerformedAtHome s = .next t ∧ ∀ j, j < p.len → (s.ctx f.ctx).live = false → memGet t.mem (p.key + j) = memGet s.mem (p.key + j))) ∧
    (∀ g i t took, inletAt s f.ctx va = some (g, i) → f.kind = .store → inletStore s g i (addr48 f.addr % 4096) (f.data.take p.len) = (t, took) → p.len ≤ took →
      exec .inletStore s = .next (dropFar t f.id))) ∧
  (∀ (s : State) (f : PendingFault) (r : List PendingFault) (n : Nat), (s.ctx s.ev.n).faults = f :: r → (sortedTids s s.ev.n).find? (fun t => takesAsync s t) = some n →
    ∃ t, exec .asyncTrapDelivery s = .next t ∧ (t.thread n).epc = (s.thread n).pc ∧ (t.thread n).faddr = f.addr ∧ (t.thread n).cause = causeWord true false f.code ∧
      (t.thread n).pc = (s.thread n).tvec ∧ (t.thread n).kernel = true ∧ (t.ctx s.ev.n).faults = r) ∧
  (∀ (s : State) (us : List Nat), (s.thread s.ev.n).run = .sleepWait us → s.ev.n ∈ s.wakes →
    exec .waitWake s = .next ({ s with wakes := s.wakes.filter (fun w => w != s.ev.n) }.setThread s.ev.n { s.thread s.ev.n with run := .running })) ∧
  (∀ (s : State) (us : List Nat), (s.thread s.ev.n).run = .sleepAny us true →
    exec .waitAnyTimeout s = .next (s.setThread s.ev.n { s.thread s.ev.n with run := .running, anyOver := true })) ∧
  (∀ s : State, (s.thread s.ev.n).run = .sleepCount → exec .sleepExpiry s = .next (s.setThread s.ev.n { s.thread s.ev.n with run := .running })) ∧
  (∀ (s : State) (st : DebugStop), s.dbg.stop = some st →
    ∃ t, exec .debugResume s = .next t ∧ t.dbg.stop = none ∧ ((s.thread st.tid).act.map (·.launch) = some st.launch → (t.thread st.tid).noMatch = true) ∧ (∀ p ∈ t.threads, p.1 ≠ st.tid → p.2.stopHeld = false) ∧
      (∀ l ∈ t.launches, l.debugDrain = false) ∧ t.mem = s.mem) ∧
  (∀ s : State, (s.dbg.sampBase = 0 ∨ bitsOf s.dbg.sampCtl 31 0 = 0) → exec .sampleTick s = .next s) ∧
  (∀ (s : State) (n : Nat) (th : Thread), s.dbg.sampBase ≠ 0 → bitsOf s.dbg.sampCtl 31 0 ≠ 0 → s.threads = [(n, th)] → th.act.isSome = true → th.run ≠ .idle →
    exec .sampleTick s = .next { ringPut s s.dbg.sampBase s.dbg.sampPos (bitsOf s.dbg.sampCtl 47 32) (traceBytes s n 0 0 th.pc) with
      dbg := { s.dbg with sampPos := s.dbg.sampPos + 1 } }) ∧
  (∀ s : State, (breakpointHit s = false → exec .breakpointMatch s = .next s) ∧
    (breakpointHit s = true → exec .breakpointMatch s = .next (startStop s s.cur 0x70) ∧
      (startStop s s.cur 0x70).mem = (traceRecord s s.cur 2 0 s.th.pc).mem ∧ ∃ t st, exec .breakpointMatch s = .next t ∧ t.dbg.stop = some st ∧ st.code = 0x70 ∧
        st.tid = s.cur ∧ st.mode = (if s.dbg.mode.toNat = 3 then 0 else s.dbg.mode.toNat) ∧ t.th.stopHeld = true ∧ t.th.pc = s.th.pc ∧ t.th.x = s.th.x ∧
        (st.mode = 0 → ∀ q, q ≠ s.cur → t.thread q = s.thread q) ∧ (st.mode = 2 → t.allStopped = true ∧ ∀ p ∈ t.threads, p.2.stopHeld = true) ∧
        (st.mode = 1 → ∀ l ∈ t.launches, l.seq = st.launch → l.debugDrain = true))) ∧
  (∀ s : State, (∀ st, s.dbg.stop = some st → st.mode ≠ 2) → exec .rplGo s = .next s) ∧
  (∀ (s : State) (st : DebugStop), s.dbg.stop = some st → st.mode = 2 →
    let asked := replayAsk s (bitsOf s.dbg.elogCtl 27 16) ((s.dbg.log.drop s.dbg.rplFirst.toNat).take s.dbg.rplCount.toNat)
    (asked.2 = true → exec .rplGo s = .next { asked.1 with dbg := { asked.1.dbg with rplRunning := true } }) ∧
    (asked.2 = false → ∃ t, exec .rplGo s = .next t ∧ t.dbg.rplDone = true ∧ t.dbg.rplRunning = false ∧
      t.dbg.rplEntries = BitVec.ofNat 32 ((s.dbg.log.drop s.dbg.rplFirst.toNat).take s.dbg.rplCount.toNat).length)) ∧
  (∀ s : State, (∀ p ∈ s.cores, p.2.rxSaved = [] ∧ ∀ r, some r ∈ p.2.rx.toList → r.spike = false ∨ r.period ≠ s.ev.n) → exec .waveTick s = .next s) ∧
  (∀ (s : State) (g i : Nat) (c : Core) (r : RxStream), s.cores = [(g, c)] → c.rxSaved = [] → i < 8 → c.rx.toList.getD i none = some r → r.spike = true → r.period = s.ev.n →
    (∀ j, j < 8 → j ≠ i → c.rx.toList.getD j none = none) →
    let s1 := setRx s g i (some (tickStream r))
    exec .waveTick s = .next (rxSettle (rxFuel s1 g i) s1 g i))

/-- R92 to R94, R103 to R120, R85, R196, R197: the events of the scheduler and of ordered launches. The model's own readings in it are
those of logs 25, 30, 33, 38 and 52. -/
def Obligations.SchedulerEvents : Prop :=
  (∀ s : State,
    let x := s.ctx s.ev.n
    ((∃ q ∈ s.posted, hostFn q = s.ev.n) → exec .doorbell s = .next { s with posted := s.posted ++ [(.doorbell, s.ev)] }) ∧
    ((∀ q ∈ s.posted, hostFn q ≠ s.ev.n) → x.live = false ∨ s.ev.word = x.doorbell.zeroExtend 64 → exec .doorbell s = .next s) ∧
    ((∀ q ∈ s.posted, hostFn q ≠ s.ev.n) → x.live = true → s.ev.word ≠ x.doorbell.zeroExtend 64 →
      let v := s.ev.word.toNat
      (v < 2 ^ 32 → (v + 2 ^ 32 - x.lqHead.toNat) % 2 ^ 32 ≤ x.lqSize → (v + 2 ^ 32 - x.doorbell.toNat) % 2 ^ 32 ≤ x.lqSize →
        exec .doorbell s = .next (s.setCtx s.ev.n { x with doorbell := BitVec.ofNat 32 v })) ∧
      (2 ^ 32 ≤ v ∨ x.lqSize < (v % 2 ^ 32 + 2 ^ 32 - x.lqHead.toNat) % 2 ^ 32 ∨ x.lqSize < (v % 2 ^ 32 + 2 ^ 32 - x.doorbell.toNat) % 2 ^ 32 →
        exec .doorbell s = .next (raiseVector (s.setCtx s.ev.n { x with dberr := true }) s.ev.n 0)))) ∧
  (∀ s : State, exec .hostIrq s = .next (if 2 ≤ s.ev.word.toNat ∧ s.ev.word.toNat ≤ 31 then raiseVector s s.ev.n s.ev.word.toNat else s)) ∧
  (∀ (s : State) (c : Nat), s.ev.n = c → (s.ctx c).live = true → s.cpl.state = .idle → (s.ctx c).lqHead ≠ (s.ctx c).doorbell →
    let x := s.ctx c
    let a := x.lqBase + BitVec.ofNat 64 (256 * (x.lqHead.toNat % x.lqSize))
    hubWaits s c a 256 = false →
    (∀ k, hubRead s c a 256 = .error k → exec .launchAccept s = .next (headOn (rejectPacket (hubUe s c a 256 k) c k a) c)) ∧
    (∀ (bs : List Byte) (l : Launch), hubRead s c a 256 = .ok bs → l = { seq := s.nextSeq, ctx := c, packet := leWords 32 bs, seed := x.seed, kernel := c == 0 } →
      (l.dqsram ≠ 0 → tablesWait s c l.dqbase (4096 * l.dqsram * 64) = true → exec .launchAccept s = .next s) ∧
      ((l.dqsram = 0 ∨ tablesWait s c l.dqbase (4096 * l.dqsram * 64) = false) →
      (launchOk s l = false ∨ placeImageAt s l = none → exec .launchAccept s = .next (headOn (rejectPacket s c 0x23 a) c)) ∧
      (∀ off i, launchOk s l = true → placeImageAt s l = some (off, i) →
        ∃ t, exec .launchAccept s = .next t ∧ t.nextSeq = s.nextSeq + 1 ∧ (t.ctx c).lqHead = x.lqHead + 1 ∧
          t.launches = s.launches ++ [{ l with imageOff := off, imageLen := l.imageSize, dirSlot := i, lwm := some (0, 0) }])))) ∧
  (∀ (s : State) (l : Launch) (cs : List CoreAllot) (ks : List ClusterAllot), nextToAdmit s s.launches [] = some l → ctxRuns s l.ctx = true →
    (planLaunch s l = none → exec .launchAdmit s = .next s) ∧
    (planLaunch s l = some (cs, ks) → (l.spu = 0 ∨ l.useClusters.all (banksOn s) = true) →
      ∃ t, exec .launchAdmit s = .next t ∧ t.launch l.seq = some { l with admitted := true, cores := cs, clusters := ks } ∧
        ∀ a ∈ cs, ∀ j, a.core < 4096 → a.tcm + l.tcmu ≤ 32 → j < l.tcmu * 4096 → memGet t.mem (tcmKey a.core (a.tcm * 4096 + j)) = 0)) ∧
  (∀ (s : State) (l : Launch) (z : Nat), s.launch s.ev.n = some l → schedules s l = true → (l.inCluster s.ev.k).isSome = true →
    (256 ≤ (tget l.pools s.ev.k []).length → exec .poolTopup s = .next s) ∧
    ((tget l.pools s.ev.k []).length < 256 →
      let pool := tget l.pools s.ev.k []
      let d := l.deal s.ev.k (512 - pool.length) (tget l.next s.ev.k 0)
      d.getLast? = some z → (pool ++ d).length ≤ 512 ∧
        exec .poolTopup s = .next (s.setLaunch { l with pools := tset l.pools s.ev.k (sortBy (fun a b => decide (a ≤ b)) (pool ++ d)), next := tset l.next s.ev.k (z + 1) }))) ∧
  (∀ (s : State) (l : Launch) (c lo : Nat) (rest : List Nat), s.ev.k = c → s.launch s.ev.n = some l → schedules s l = true → (l.inCluster c).isSome = true →
    tget l.poolRecords c [] = [] → tget l.pools c [] = lo :: rest → l.grain = 0 → l.crlvl ≠ 7 →
    let g := 16 * c + lo / 2 ^ l.below l.crlvl % l.ncores
    (8 ≤ (dequeOf s g s.ev.n).length → exec .dispatchPlace s = .next s) ∧
    ((dequeOf s g s.ev.n).length < 8 → exec .dispatchPlace s =
      .next (putTail (s.setLaunch { l with pools := tset l.pools c rest, live := l.live + 1 }) g s.ev.n
        { w0 := BitVec.ofNat 64 (l.prio * 2 ^ 48 + l.entry), w1 := BitVec.ofNat 64 lo, w2 := BitVec.ofNat 64 (lo % 2 ^ 32),
          w3 := l.word 8, w4 := l.word 9, w5 := l.word 10, w6 := l.word 11 }))) ∧
  (∀ (s : State) (n i : Nat) (l : Launch) (r : Record), s.ev.n = n → launchOfSet s n = some l → schedules s l = true → l.debugDrain = false → coreFrozen s (coreOf n) = false →
    isIdle (s.thread n) = true → (s.thread n).stopHeld = false → s.allStopped = false → l.phaseState = .running → s.launch l.seq = some l →
    let d := dequeOf s (coreOf n) l.seq
    (bestRecord (mayStart s l) (d.take (onCoreOf s (coreOf n) l.seq))).or (bestRecord (mayStart s l) d) = some i → d[i]? = some r →
    ∃ t, exec .recordPickup s = .next t ∧ dequeOf t (coreOf n) l.seq = d.eraseIdx i ∧ (t.thread n).pc = r.entry ∧ (t.thread n).kernel = l.kernel ∧
      (t.thread n).wid = r.w1 ∧ (t.thread n).tstamp = r.w2 ∧ (t.thread n).getX 10 = r.w3 ∧ (t.thread n).getX 11 = r.w4 ∧ (t.thread n).getX 12 = r.w5 ∧
      (t.thread n).getX 13 = r.w6 ∧ (∀ j : Reg, j < 10 ∨ 13 < j → (t.thread n).getX j = 0) ∧ (t.thread n).run = .running ∧ (launchSaved s l = false → sameOffTiers s t l (coreOf n))) ∧
  (∀ (s : State) (l : Launch), s.launch s.ev.n = some l → (schedules s l = false ∨ l.crlvl ≠ 7) → exec .balance s = .next s) ∧
  (∀ (s : State) (l : Launch) (m : Nat), s.launch s.ev.n = some l → schedules s l = true → l.crlvl = 7 → l.clvl ≠ 7 → l.clcount = 1 → l.ncores = 2 →
    (∀ a ∈ l.cores, ∀ t ∈ a.ts, (s.thread (4 * a.core + t)).run ≠ .idle) →
    let d0 := dequeOf s (16 * l.clbase) l.seq
    let d1 := dequeOf s (16 * l.clbase + 1) l.seq
    m = (d0.length - d1.length) / 2 → d1.length + 2 ≤ d0.length → m ≤ dequeRoom s l (16 * l.clbase + 1) - l.tsets →
    ∃ t, exec .balance s = .next t ∧ dequeOf t (16 * l.clbase) l.seq = d0.take (d0.length - m) ∧ dequeOf t (16 * l.clbase + 1) l.seq = d1 ++ d0.drop (d0.length - m) ∧
      (launchSaved s l = false → tablesApart s l → ∀ j, offTiers s l (16 * l.clbase) j 1 → offTiers s l (16 * l.clbase + 1) j 1 → memGet t.mem j = memGet s.mem j)) ∧
  (∀ (s : State) (l : Launch), s.launch s.ev.n = some l →
    (launchOver s l = false → exec .launchComplete s = .next s) ∧
    (launchOver s l = true →
      let ends := fun (u : State) => if l.notify then raiseVector (releaseLaunch u l) l.ctx 1 else releaseLaunch u l
      (l.doneaddr = 0 → exec .launchComplete s = .next (ends s)) ∧
      (∀ va u, l.doneaddr ≠ 0 → tablesWait s l.ctx (addr48 l.doneaddr) 8 = false → decodeAddr s l.doneaddr = .translated va → inletAt s l.ctx va = none →
        hubWrite s l.ctx l.doneaddr (natBytes 8 (if l.stopped then 2 ^ 63 + 0x52 else 1)) = .ok u → exec .launchComplete s = .next (ends u)) ∧
      (l.doneaddr ≠ 0 → tablesWait s l.ctx (addr48 l.doneaddr) 8 = true → exec .launchComplete s = .next s) ∧
      (l.doneaddr = 0 ∨ tablesWait s l.ctx (addr48 l.doneaddr) 8 = false → ∃ t, exec .launchComplete s = .next t ∧ t.launch s.ev.n = none))) ∧
  (∀ (s : State) (l : Launch), s.launch s.ev.n = some l → l.ordered = true → l.admitted = true → exec .lwmAnnounce s = .next (s.setLaunch { l with lwm := lowWater s l })) ∧
  (∀ (s : State) (l : Launch) (a : Activation), (s.thread s.ev.n).act = some a → launchOf s s.ev.n = some l → l.ordered = true → l.dmode = 0 → l.phaseOpen = false →
    (s.ctx l.ctx).save = .running → a.commitDone = false → a.irrevocable = false → a.held = [] → (s.thread s.ev.n).run = .committing .exit → mayCommit s l (s.thread s.ev.n) a = true →
    commitWaits s l.ctx (bufStores a.buf) = false → conflicting s l.seq s.ev.n a.record.ts a.wsig = [] → storesOut s s.ev.n = false → (∀ m, s.launch s.ev.k = some m → m.phaseOpen = false) →
    (∀ p ∈ bufStores a.buf, ∃ va, decodeAddr s p.1 = .translated va ∧ inletAt s l.ctx va = none) →
    ∃ t, exec .commit s = .next t ∧ (t.thread s.ev.n).act = none ∧ (t.thread s.ev.n).run = .idle ∧
      (∃ m, t.launch l.seq = some m ∧ m.live = l.live - 1 ∧ m.phase = a.record.phase) ∧ (bufStores a.buf = [] → t.mem = s.mem) ∧
      (∀ x bs va k, bufStores a.buf = [(x, bs)] → decodeAddr s x = .translated va → hubKeys s l.ctx va bs.length [rightWR] = .ok [(k, bs.length)] →
        inletAt s l.ctx va = none → homeFails s k bs.length false = none → t.mem = (memWrite s k bs).mem)) ∧
  (∀ (s : State) (l : Launch) (r : List Byte), s.launch s.ev.n = some l → l.phaseState = .replayCheck → tableWaits s l = false → hubRead s l.ctx (tableEntry l l.phase) 16 = .ok r →
    exec .replayCheck s = .next (if r = phaseDigest l then phaseDone (digestFault s l 1 r (phaseDigest l)) l.seq else stopLaunch (digestFault s l 3 r (phaseDigest l)) l.seq)) ∧
  (∀ (s : State) (l : Launch) (w : Waiter), (s.core s.ev.n).waiters[s.ev.k]? = some w → s.launch w.launch = some l →
    (w.loaded = true → dequeRoom s l s.ev.n ≠ 0 → exec .parkedRecordPlace s =
      .next (putHead (setWaiters s s.ev.n w.launch ((s.core s.ev.n).waiters.eraseIdx s.ev.k)) s.ev.n w.launch w.record)) ∧
    ((w.loaded = false ∨ dequeRoom s l s.ev.n = 0) → exec .parkedRecordPlace s = .next s) ∧
    (∀ a, w.loaded = false → s.ev.flag = true → l.onCore s.ev.n = some a → launchSaved s l = false →
      let k := tcmByte s l s.ev.n (a.tcm * 4096) (w.mbox - a.tcm * 4096)
      let v := leWords 4 (memRead s k 32)
      let r := { w.record with w3 := v.getD 0 0, w4 := v.getD 1 0, w5 := v.getD 2 0, w6 := v.getD 3 0 }
      (v.getD 3 0 = 0 → exec .returnMessage s = .next s) ∧
      (v.getD 3 0 ≠ 0 → ∃ t, exec .returnMessage s = .next t ∧ sameOffTiers (memWrite s (k + 24) (natBytes 8 0)) t l s.ev.n ∧
        (dequeRoom s l s.ev.n ≠ 0 → dequeOf t s.ev.n w.launch = r :: dequeOf s s.ev.n w.launch) ∧
        (dequeRoom s l s.ev.n = 0 → (t.core s.ev.n).waiters[s.ev.k]? = some { w with record := r, loaded := true })))) ∧
  (∀ (s : State) (pk : Packet) (c : Nat), s.ev.flag = false → nextServed s 0x0E s.ev.n = some pk → meets s pk = .ctx c →
    let o := pAddr pk - tcmBase
    heldArrival (boxLaunch s c (o / 0x20000) (o % 0x20000)) = false →
    exec .returnMessage s = .next (match deliverMessage s c (o / 0x20000) (o % 0x20000) (leWords 4 pk.data) with | some t => reply (served t pk) pk 0 | none => refuse s pk 0x30)) ∧
  (∀ (s : State) (pk : Packet) (c : Nat), nextServed s 0x0D s.ev.n = some pk → meets s pk = .ctx c →
    let r := recordOf (pk.data.take 64)
    let w := pAddr pk % 0x10000
    heldArrival (receiver s none pk.job (w / 0x8000 % 2 == 1) (w % 0x1000)) = false →
    (∀ t, placeCall s none pk.job w r = .ok t → exec .taskRecord s = .next (reply (served t pk) pk 0)) ∧
    (∀ k, placeCall s none pk.job w r = .error k → r.kind ≠ 3 → exec .taskRecord s = .next (refuse s pk k)))

/-- R87, R90, R91, R293 to R297, R435. The model's choices in it are those of log 44 (create), log 45 (destroy), log 46 (BAR2) and log 53
(the layout of the image). -/
def Obligations.ContextEvents : Prop :=
  (∀ (s : State) (c k a : Nat), c = s.ev.n → k = s.ev.k → a = (s.ctx c).apbase.toNat + s.ev.word.toNat → s.ev.flag = false → s.ev.own = false →
    s.posted.any (fun q => hostFn q == c) = false → s.ev.word.toNat + k ≤ 2 ^ (30 + min s.ev.m 8) →
    let answers := fun (u : State) (d : List Byte) => exec .bar2Access s = .next { u with outputs := u.outputs ++ [.hostRead d] }
    let ones := List.replicate k (255 : Byte)
    ((s.ctx c).live = false → answers s ones) ∧
    ((s.ctx c).live = true → tablesWait s c a k = true → exec .bar2Access s = .next { s with posted := s.posted ++ [(.bar2Access, s.ev)] }) ∧
    ((s.ctx c).live = true → tablesWait s c a k = false →
      (∀ e, bar2Place s c a k rightRD = .cause e → answers (writeFault (hubUe s c (BitVec.ofNat 64 a) k e) c { dev := ownId s, agent := 8, code := e, addr := BitVec.ofNat 64 a }) ones) ∧
      (∀ o, bar2Place s c a k rightRD = .reg o → answers (readReg s o).1 (natBytes 8 (readReg s o).2.toNat)) ∧
      (∀ ks bs, bar2Place s c a k rightRD = .keys ks → s.replay = [] → ks.any (fun p => homeWaits s p.1 p.2) = false → inletAt s c a = none → readKeys s ks = .ok bs → answers s bs))) ∧
  (∀ (s : State) (c n a : Nat), c = s.ev.n → n = s.ev.bytes.length → a = (s.ctx c).apbase.toNat + s.ev.word.toNat → s.ev.flag = true → s.ev.own = false →
    s.posted.any (fun q => hostFn q == c) = false → s.ev.word.toNat + n ≤ 2 ^ (30 + min s.ev.m 8) →
    ((s.ctx c).live = false → exec .bar2Access s = .next s) ∧
    ((s.ctx c).live = true → tablesWait s c a n = true → exec .bar2Access s = .next { s with posted := s.posted ++ [(.bar2Access, s.ev)] }) ∧
    ((s.ctx c).live = true → tablesWait s c a n = false →
      (∀ e, bar2Place s c a n rightWR = .cause e → exec .bar2Access s = .next (writeFault (hubUe s c (BitVec.ofNat 64 a) n e) c { dev := ownId s, agent := 8, code := e, addr := BitVec.ofNat 64 a })) ∧
      (∀ o, bar2Place s c a n rightWR = .reg o → exec .bar2Access s = .next (regWrite s o (leWord s.ev.bytes))) ∧
      (∀ ks t, bar2Place s c a n rightWR = .keys ks → s.replay = [] → ks.any (fun p => homeWaits s p.1 p.2) = false → inletAt s c a = none →
        writeKeys s ks s.ev.bytes = .ok t → exec .bar2Access s = .next t))) ∧
  (∀ (s : State) (c : Nat), s.ev.own = true → (∀ q ∈ s.posted, hostFn q ≠ c) → s.ev.n = c → exec .bar2Access s = .next s) ∧
  (∀ (s : State) (c : Nat), s.ev.n = c →
    (s.cpl.state ≠ .idle → exec .ctxCreate s = .next { s with cpl := { s.cpl with waiting := s.cpl.waiting ++ [(c, false)] } }) ∧
    (s.cpl.state = .idle →
      ((s.ctx c).live = true → exec .ctxCreate s = .next (ctxStatus s c 1)) ∧
      ((s.ctx c).live = false → areaOk s c = false → exec .ctxCreate s = .next (ctxStatus s c 2)) ∧
      ((s.ctx c).live = false → areaOk s c = true → freeJob s = none → exec .ctxCreate s = .next (ctxStatus s c 3)) ∧
      (∀ j, (s.ctx c).live = false → areaOk s c = true → freeJob s = some j →
        ∃ t, exec .ctxCreate s = .next t ∧ (t.ctx c).live = true ∧ (t.ctx c).status = 0 ∧ (t.ctx c).save = .running ∧ (t.ctx c).seed = 0 ∧ (t.ctx c).area = (s.ctx c).area ∧
          (t.ctx c).ptroot = (s.ctx c).ptroot ∧ tget t.fabric.jobs j 0 = BitVec.ofNat 64 (2 ^ 63 + c * 2 ^ 16 + (s.ctx c).job.toNat) ∧
          (∀ o, 8 ≤ o → o < 0x10000 → memGet t.mem (areaBase (s.ctx c) + o) = 0) ∧ (Memory.wf s.mem → numAt t (areaBase (s.ctx c)) 8 = 1)))) ∧
  (∀ (s : State) (c : Nat), s.ev.n = c →
    (s.cpl.state ≠ .idle → s.cpl.state ≠ .hold → exec .ctxDestroy s = .next { s with cpl := { s.cpl with waiting := s.cpl.waiting ++ [(c, true)] } }) ∧
    (s.cpl.state = .idle → (s.ctx c).live = false → exec .ctxDestroy s = .next (ctxStatus s c 4)) ∧
    (s.cpl.state = .idle → (s.ctx c).live = true → ∃ t, exec .ctxDestroy s = .next t ∧ (t.ctx c).live = false ∧ (t.ctx c).status = 0 ∧
      (t.ctx c).image = none ∧ (∀ l ∈ t.launches, l.ctx ≠ c) ∧ (∀ f ∈ t.far, f.ctx = c → f.kind ≠ .load) ∧ (∀ r ∈ t.coll, r.ctx ≠ c) ∧
      (∀ p ∈ t.xlt.micro, ∀ e ∈ p.2, e.ctx ≠ c) ∧ (∀ p ∈ t.devBarriers, p.2.holder ≠ some c))) ∧
  (∀ (s : State) (c : Nat), s.ev.n = c → exec .ctxCmdReserved s = .next (ctxStatus s c 6) ∧
    ((s.ctx c).save ≠ .saveFailed → exec .ctxRetrySave s = .next (ctxStatus s c 5)) ∧
    ((s.ctx c).save = .saveFailed → ∃ t, exec .ctxRetrySave s = .next t ∧ (t.ctx c).save = .writing ∧ (t.ctx c).saveFailed = false ∧ (t.ctx c).status = 0)) ∧
  (∀ (s : State) (c : Nat), s.ev.n = c →
    ((s.ctx c).save = .stopping → ctxAtRest s c s.ev.flag = true →
      ∃ t, exec .ctxStopped s = .next t ∧ (t.ctx c).save = .writing ∧ (t.ctx c).abandoned = s.far.filter (fun f => (ctxTids s c).contains f.tid && f.kind == .load) ∧
        (∀ f ∈ t.far, f.tid ∈ ctxTids s c → f.kind ≠ .load) ∧ t.mem = s.mem) ∧
    ((s.ctx c).save ≠ .stopping ∨ ctxAtRest s c s.ev.flag = false → exec .ctxStopped s = .next s) ∧
    ((s.ctx c).save = .writing → saveError s c = none → ∃ t, exec .ctxSaveWritten s = .next t ∧ (t.ctx c).save = .saved ∧ (t.ctx c).saves = (s.ctx c).saves + 1 ∧
      (∃ img, (t.ctx c).image = some img ∧ img.loads = (s.ctx c).abandoned ∧ (∀ n ∈ ctxTids s c, (n, { s.thread n with bad := 0 }) ∈ img.threads)) ∧
      (∀ p ∈ t.threads, p.1 ∈ ctxTids s c → p.2.run = .idle ∧ p.2.act = none ∧ p.2.pc = 0) ∧ (∀ f ∈ t.far, f.tid ∉ ctxTids s c ∨ savedTid ≤ f.tid)) ∧
    (∀ off, (s.ctx c).save = .writing → saveError s c = some off → ∃ t, exec .ctxSaveFail s = .next t ∧ (t.ctx c).save = .saveFailed ∧ (t.ctx c).saveFailed = true ∧
      (t.ctx c).status = 0x62 ∧ t.outputs = s.outputs ++ [.vector c 0] ∧ t.threads = s.threads ∧
      (Memory.wf s.mem → let b := areaBase (s.ctx c)
        numAt t (b + 0x10) 8 = 2 ∧ numAt t (b + 0x20) 8 = off % 2 ^ 64 ∧ ∀ j, (j < b + 0x10 ∨ b + 0x28 ≤ j) →
          (b + off ≤ j → memGet t.mem j = memGet s.mem j) ∧
          (j < b + off → (∀ l ∈ residents s c, ∀ a ∈ l.cores, b + off ∉ coreErrors s l a) → memGet t.mem j = memGet (writeArea s c).mem j))) ∧
    ((s.ctx c).save = .writing → saveError s c = none → exec .ctxSaveFail s = .next s) ∧
    ((s.ctx c).save = .saved → (s.ctx c).restoreWanted = true → s.cpl.state = .idle → restoreFree s c = true →
      exec .ctxRestoreStart s = .next (s.setCtx c { s.ctx c with save := .restoring })) ∧
    ((s.ctx c).restoreWanted = false ∨ restoreFree s c = false → exec .ctxRestoreStart s = .next s) ∧
    ((s.ctx c).save = .restoring → s.cpl.state = .idle →
      (∀ img, (s.ctx c).image = some img →
        (restoreBad s c = true → exec .ctxRestoreDone s = .next (s.setCtx c { s.ctx c with save := .saved, restoreWanted := false, restoreErr := true })) ∧
        (restoreBad s c = false → ∃ t, exec .ctxRestoreDone s = .next t ∧ (t.ctx c).image = none ∧ (t.ctx c).restoreWanted = false ∧
          (t.ctx c).save = (if entriesWait (writeBack s c img) c then .restoring else .running) ∧
          (∀ n th l a, img.threads = [(n, th)] → residents s c = [l] → l.tids.contains n = true → l.onCore (coreOf n) = some a →
            let w := threadFrom th (memRead s (imageBase s l + l.coreOff a.core + 81920 + 4096 * a.ts.idxOf (n % 4)) 0xE00)
            t.thread n = { w with slots := w.slots.map Slot.reissue, instret := (s.thread n).instret, stopHeld := stillHeld s n w }))) ∧
      ((s.ctx c).image = none →
        (entriesWait s c = true → exec .ctxRestoreDone s = .next s) ∧
        (entriesWait s c = false → exec .ctxRestoreDone s = .next (headerPut (s.setCtx c { s.ctx c with save := .running }) c 0x10 0))))) ∧
  (∀ s : State,
    let u := queueOf s s.ev.n s.ev.k
    (u.writeback = [] ∨ u.running.isSome = true ∨ u.paused.isSome = true ∨ u.queued ≠ [] ∨ unitBusy s (unitTid s.ev.n s.ev.k) = true → exec .queueWriteback s = .next s) ∧
    (u.writeback ≠ [] → u.running = none → u.paused = none → u.queued = [] → unitBusy s (unitTid s.ev.n s.ev.k) = false →
      exec .queueWriteback s = .next (installEntries s s.ev.n s.ev.k { u with writeback := [] } u.writeback)))

/-- R95 to R98, R305, R306, R14. The model's choices in it are those of logs 59, 60 and 61 (Compline), 108 (what is read out) and 126 (the
monitors). -/
def Obligations.ComplineAndReadOut : Prop :=
  (∀ s : State,
    (s.cpl.state ≠ .idle ∨ (∃ c ∈ liveCtxs s, (s.ctx c).save = .saveFailed) → exec .cplGo s = .next { s with cpl := { s.cpl with status := 7 } }) ∧
    (s.cpl.state = .idle → (∀ c ∈ liveCtxs s, (s.ctx c).save ≠ .saveFailed) →
      ∃ t, exec .cplGo s = .next t ∧ t.cpl.state = .quiesce ∧ t.cpl.held = (liveCtxs s).filter (fun c => (s.ctx c).save == .running) ∧
        (∀ c ∈ liveCtxs s, (s.ctx c).save = .running → (t.ctx c).save = .stopping) ∧
        ((∀ n, abortable s n = false) → t.mem = s.mem))) ∧
  (∀ s : State, s.cpl.state = .quiesce → (∀ c ∈ liveCtxs s, (s.ctx c).save ≠ .running) →
    ((∀ c ∈ liveCtxs s, (s.ctx c).save = .saved) → exec .cplQuiesceComplete s = .next { s with cpl := { s.cpl with state := .copy, header := cplHeader s, body := s.mem, pos := 0 } }) ∧
    ((∃ c ∈ liveCtxs s, (s.ctx c).save ≠ .saved) → exec .cplQuiesceComplete s = .next s)) ∧
  (∀ s : State, s.cpl.state = .copy →
    (s.cpl.tier = false → s.ev.own = false → ∃ t rnd, exec .cplCopyComplete s = .next t ∧ t.mem = s.mem ∧
      t.cpl = { s.cpl with state := .sealing, header := sealHeader s rnd, pos := 0 }) ∧
    (∀ n, s.cpl.tier = true → s.cpl.pos = n → n < 2 + 772 * 2 ^ 18 → (∀ f ∈ s.far, f.tid ≠ cplTid) →
      (peerLimitOf s none s.cpl.cpjob (cplBuddy s) (addr48 s.cpl.dest + 4096 * n) true = true → exec .cplCopyComplete s = .next s) ∧
      (peerLimitOf s none s.cpl.cpjob (cplBuddy s) (addr48 s.cpl.dest + 4096 * n) true = false →
        ∃ t f, exec .cplCopyComplete s = .next t ∧ t.cpl = { s.cpl with pos := n + 1 } ∧ t.far = s.far ++ [f] ∧ f.kind = .store ∧ f.dev = cplBuddy s + 1 ∧
          f.job = some s.cpl.cpjob ∧ f.addr = s.cpl.dest + BitVec.ofNat 64 (4096 * n) ∧
          f.data = (if n < 2 then ((fitBytes 0x2000 s.cpl.header).drop (4096 * n)).take 4096 else bodyPart s (4096 * (n - 2)) 4096)))) ∧
  (∀ (s : State) (i : Instr) (st : Nat), s.cpl.state = .copy → ((i, st) = (Instr.cplCopyError, if s.ev.flag then 5 else 4) ∨ (i, st) = (Instr.cplBoundExceeded, 6)) →
    (s.cpl.hold = true → exec i s = .next { cplForget s with cpl := { s.cpl with status := st, state := .hold } }) ∧
    (s.cpl.hold = false → s.cpl.waiting = [] → ∃ t, exec i s = .next t ∧ t.cpl.status = st ∧
      (t.cpl.state = .idle ∧ t.cpl.held = [] ∧ t.outputs = s.outputs ++ [.vector 0 2] ∨ t.cpl.state = .resume ∧ ∃ c ∈ s.cpl.held, (t.ctx c).save = .restoring) ∧
      (s.cpl.held = [] → t.cpl.state = .idle ∧ t.mem = s.mem ∧ t.ctxs = s.ctxs))) ∧
  (∀ s : State, s.cpl.state = .sealing → s.cpl.tier = false → s.ev.own = false →
    let img := Output.image s.cpl.dest s.cpl.header s.cpl.body
    (s.cpl.hold = true → ∃ t, exec .cplSealComplete s = .next t ∧ t.cpl.state = .hold ∧ t.cpl.status = 0 ∧ t.cpl.images = s.cpl.images + 1 ∧
      t.outputs = s.outputs ++ [img] ∧ t.mem = s.mem ∧ t.ctxs = s.ctxs) ∧
    (s.cpl.hold = false → s.cpl.waiting = [] → ∃ t, exec .cplSealComplete s = .next t ∧ t.cpl.status = 0 ∧ t.cpl.images = s.cpl.images + 1 ∧
      (t.cpl.state = .idle ∧ t.outputs = s.outputs ++ [img, .vector 0 2] ∨
        t.cpl.state = .resume ∧ t.outputs = s.outputs ++ [img] ∧ ∃ c ∈ s.cpl.held, (t.ctx c).save = .restoring))) ∧
  (∀ s : State, (s.cpl.state = .idle ∨ s.cpl.state = .hold) →
    (liveCtxs s = [] → exec .cplRestore s = .next { s with cpl := { s.cpl with state := .restore } }) ∧
    (liveCtxs s ≠ [] → exec .cplRestore s = .next { s with cpl := { s.cpl with status := 1 } })) ∧
  (∀ s : State, s.cpl.state = .restore → s.cpl.waiting = [] →
    let h := fitBytes 0x2000 s.ev.bytes
    let u := refill s (s.ev.bytes.drop 0x2000)
    let early := s.ev.flag && s.ev.k == 0
    let same := sha3 (bodyBytes { u with cpl := { u.cpl with body := u.mem } }) == (h.drop 0x30).take 32
    ∃ t, exec .cplRestoreComplete s = .next t ∧
      t.cpl.state = (if !early && headerOk h && !s.ev.flag && same then .hold else .idle) ∧
      t.cpl.status = (if early then 9 else if !headerOk h then 8 else if s.ev.flag then 9 else if same then 0 else 8) ∧
      (early = true ∨ headerOk h = false → t.mem = s.mem) ∧ (t.cpl.state = .idle → t.outputs = s.outputs ++ [.vector 0 2]) ∧
      (t.cpl.state = .hold → t.mem = u.mem ∧ t.cpl.held = ((s.cpl.kept.find? (fun k => k.header == h)).getD s.ev.kept).ctxs.map (fun p => p.1) ∧
        ∀ c ∈ t.cpl.held, (t.ctx c).live = true ∧ (t.ctx c).save = .saved)) ∧
  (∀ s : State, (s.cpl.state ≠ .hold → exec .cplHoldRelease s = .next { s with cpl := { s.cpl with hold := false } }) ∧
    (s.cpl.state = .hold → s.cpl.waiting = [] → ∃ t, exec .cplHoldRelease s = .next t ∧ t.cpl.hold = false ∧
      (t.cpl.state = .idle ∧ t.outputs = s.outputs ++ [.vector 0 2] ∨ t.cpl.state = .resume ∧ ∃ c ∈ s.cpl.held, (t.ctx c).save = .restoring) ∧
      (s.cpl.held = [] → t.cpl.state = .idle) ∧
      ∀ c img, s.cpl.held = [c] → (s.ctx c).save = .saved → (s.ctx c).image = some img → restoreBad s c = false →
        let u := writeBack { s with cpl := { s.cpl with hold := false, state := .resume } } c img
        (entriesWait u c = false → t.cpl.state = .idle ∧ (t.ctx c).save = .running) ∧ (entriesWait u c = true → t.cpl.state = .resume ∧ (t.ctx c).save = .restoring))) ∧
  (∀ (s : State) (c : Nat), s.ev.n = c → (s.ctx c).dump = none →
    (s.pkg.power ≠ .ready ∨ s.feature 0 = false ∨ (s.ctx c).live = false ∨ (s.ctx c).save = .saveFailed → exec .sidebandDump s = .next s) ∧
    (s.pkg.power = .ready → s.feature 0 = true → (s.ctx c).live = true →
      ((s.ctx c).save = .saved → ∃ t, exec .sidebandDump s = .next t ∧ t.mem = s.mem ∧
        t.outputs = s.outputs ++ [.dump c, .readout (memGets s.mem (areaBase (s.ctx c)) (s.ctx c).alen.toNat)] ∧
        (t.ctx c).restoreWanted = ((s.ctx c).restoreWanted || !s.ev.flag)) ∧
      ((s.ctx c).save = .running → ∃ t, exec .sidebandDump s = .next t ∧ (t.ctx c).save = .stopping ∧ (t.ctx c).dump = some s.ev.flag))) ∧
  (∀ s : State,
    exec .twilightFreeze s = .next (if s.pkg.power = .ready ∧ s.feature 1 = true then { s with pkg := { s.pkg with power := .frozen } } else s) ∧
    (s.pkg.power = .frozen → s.ev.m ≠ 3 → exec .twilightRead s = .next { s with outputs := s.outputs ++ [.readout (readOut s s.ev.m s.ev.n s.ev.k)] }) ∧
    (s.pkg.power = .frozen → s.ev.m = 3 → exec .twilightRead s =
      .next { (readReg s s.ev.n).1 with outputs := s.outputs ++ [.readout (natBytes 8 (readReg s s.ev.n).2.toNat)] }) ∧
    (s.pkg.power = .ready → s.feature 0 = false → exec .twilightRead s = .next s)) ∧
  (∀ s : State,
    (s.ev.m = 0 → s.ev.n < 256 → ∃ t, exec .mdroopRead s = .next t ∧ t.outputs = s.outputs ++ [.readout (natBytes 8 (s.cluster s.ev.n).droop)] ∧ (t.cluster s.ev.n).droop = 0 ∧
      ∀ c, c ≠ s.ev.n → t.cluster c = s.cluster c) ∧
    (s.ev.m = 0 → 256 ≤ s.ev.n → ∃ t, exec .mdroopRead s = .next t ∧ t.outputs = s.outputs ++ [.readout (natBytes 8 s.pkg.hubDroop)] ∧ t.pkg.hubDroop = 0) ∧
    (s.ev.m = 1 → exec .mdroopRead s = .next { s with outputs := s.outputs ++ [.readout (natBytes 2 (BitVec.ofInt 16 (s.pkg.temps.getD s.ev.n 0)).toNat)] }) ∧
    (s.ev.m = 3 → exec .mdroopRead s = .next { s with outputs := s.outputs ++ [.readout (natBytes 8 (s.die s.ev.n).thrcyc.toNat)] }))

/-- R190, R324, R391, R398 to R407, R169: the engines' events; the event names the core and the queue. The size of a step (log 99), the
order in which an entry ends (log 100) and the tile errors that a step meets (log 125) are the model's readings. -/
def Obligations.EngineEntries : Prop :=
  (∀ (s : State) (e : Entry) (r : List Entry) (f : UnitFor),
    let g := s.ev.n
    let q := s.ev.k
    let u := queueOf s g q
    u.running = none → u.paused = none → u.queued = e :: r → engineMay s g q e = true →
    (e.fence = none → tokensFree s g (entryTiles s g e) = false → exec .entryStart s = .next s) ∧
    (e.fence = none → tokensFree s g (entryTiles s g e) = true → entryUnit s g q e = some f →
      let t := setQueue s g q { u with running := some e.started', queued := r }
      ((∀ l ∈ entryLocals e.tcw, l.2 ≠ 0 → ∃ k, launchKey s f.launch g l.1 l.2 = .ok k) → exec .entryStart s = .next t) ∧
      (∀ l k, entryLocals e.tcw = [l] → l.2 ≠ 0 → launchKey s f.launch g l.1 l.2 = .error k → exec .entryStart s = .next
        (setQueue s g q { u with running := some { e.started' with failing := e.failing.or (some (0x11, l.1, ownId s)) }, queued := r }))) ∧
    (∀ m, e.fence = some m → exec .queueFence s = .next (if fenceDone s g e m then setQueue s g q { u with queued := r } else s))) ∧
  (∀ (s : State) (e p : Entry),
    let u := (s.core s.ev.n).mq
    u.running = some p → u.paused = none → tcwTileOnly p.tcw = true → p.progress ≠ 0 → p.failing = none → engineMay s s.ev.n 0 p = true → overtaker s s.ev.n p u.queued = some e →
    exec .entryOvertake s = .next (setQueue s s.ev.n 0 { u with running := some e.started', paused := some { p with paused := true }, queued := u.queued.filter (fun x => x.id != e.id) })) ∧
  (∀ (s : State) (i : Instr) (op : Nat) (e x : Entry) (u : UnitFor), (i, op) ∈ [(Instr.mma, 0x01), (Instr.mmaz, 0x02), (Instr.azero, 0x03)] →
    s.ev.k = 0 → (s.core s.ev.n).mq.running = some e → tcwOp e.tcw = op → engineMay s s.ev.n 0 e = true → entryUnit s s.ev.n 0 e = some u →
    (∀ f ∈ s.far, f.tid ≠ u.tid) → e.failing = none → e.progress < entrySteps e → overtakes s s.ev.n = some x → exec i s = exec .entryOvertake s) ∧
  (∀ s : State, ∃ t, exec .entryAge s = .next t ∧ (queueOf t s.ev.n s.ev.k).running = (queueOf s s.ev.n s.ev.k).running ∧ t.mem = s.mem ∧
    (queueOf t s.ev.n s.ev.k).paused = (queueOf s s.ev.n s.ev.k).paused.map (fun e => if e.id = s.ev.m then { e with eprio := min 3 (e.eprio + 1) } else e) ∧
    (queueOf t s.ev.n s.ev.k).queued = (queueOf s s.ev.n s.ev.k).queued.map (fun e => if e.id = s.ev.m then { e with eprio := min 3 (e.eprio + 1) } else e)) ∧
  (∀ (s : State) (i : Instr) (op : Nat) (e : Entry) (u : UnitFor), (i, op) ∈ [(Instr.mma, 0x01), (Instr.mmaz, 0x02), (Instr.azero, 0x03), (Instr.aload, 0x04), (Instr.astore, 0x05), (Instr.copy, 0x10), (Instr.decomp, 0x11), (Instr.compr, 0x12), (Instr.gather, 0x13), (Instr.scatter, 0x14), (Instr.fill, 0x15), (Instr.nzscan, 0x16), (Instr.signal, 0x17)] → engineAt s op e u →
    (e.progress < entrySteps e →
      (∀ t e', entryStep s u s.ev.n e = .ok t e' → unitPosted t u.tid = false → exec i s = .next (setRunning (unitForget t u.tid) s.ev.n s.ev.k e')) ∧
      (∀ t c a d, entryStep s u s.ev.n e = .fail t c a d → exec i s = .next (finishEntry t s.ev.n s.ev.k u e (some (c, a, d)))) ∧
      (∀ t, entryStep s u s.ev.n e = .wait t → exec i s = .next t)) ∧
    (∀ t c, e.progress < entrySteps e → entryStep s u s.ev.n e = .fail t c.1 c.2.1 c.2.2 → tcwSig e.tcw = false → unitBusy t u.tid = false →
      exec i s = .next (entryEnd t s.ev.n s.ev.k u e (some c))) ∧
    (entrySteps e ≤ e.progress → exec i s = .next (finishEntry s s.ev.n s.ev.k u e none) ∧
      (tcwSig e.tcw = false → exec i s = .next (entryEnd s s.ev.n s.ev.k u e none)) ∧
      (∀ k, tcwSig e.tcw = true → unitNear s u (localRef (tcwCword e.tcw) 20 8) 8 k false = true → (queueOf s s.ev.n s.ev.k).paused = none →
        ∃ t, exec i s = .next t ∧ t.mem = (memWrite s k (natBytes 8 (tcwCval e.tcw))).mem ∧ (queueOf t s.ev.n s.ev.k).running = none))) ∧
  (∀ (s : State) (e : Entry) (u : UnitFor), engineAt s 0x17 e u → exec .signal s = .next (finishEntry s s.ev.n s.ev.k u e none)) ∧
  (∀ (s : State) (i : Instr) (op : Nat) (e : Entry) (u : UnitFor), (i, op) ∈ [(Instr.mma, 1), (Instr.mmaz, 2)] → engineAt s op e u → e.progress < entrySteps e →
    let b := tileBase s u
    let p := e.progress
    let A := tileOf s s.ev.n (b + bitsOf e.tcw 184 182)
    let B := tileOf s s.ev.n (b + bitsOf e.tcw 181 179)
    let D := b + bitsOf e.tcw 187 185
    (tileError s s.ev.n b e.tcw p = true → exec i s = .next (finishEntry (s.setCore s.ev.n { s.core s.ev.n with regUe := (s.core s.ev.n).regUe + 1 })
      s.ev.n s.ev.k u e (some (0x60, 0, ownId s)))) ∧
    (tileError s s.ev.n b e.tcw p = false → D < 8 → ∃ t, exec i s = .next t ∧ t.mem = s.mem ∧ (queueOf t s.ev.n s.ev.k).running = some { e with progress := p + 1 } ∧
      ∀ r c, r < 32 → c < 32 → (tileOf t s.ev.n D).get r c =
        macRNE32 (if op = 2 ∧ p = 0 then 0 else (tileOf s s.ev.n D).get r c) ((if bitOf e.tcw 173 then A.get p r else A.get r p) / 65536)
          ((if bitOf e.tcw 172 then B.get c p else B.get p c) / 65536) % 2 ^ 32)) ∧
  (∀ (s : State) (e : Entry) (u : UnitFor), engineAt s 0x03 e u → e.progress < 8 →
    exec .azero s = .next (stepped (if bitOf e.tcw (180 + e.progress) then setTile s s.ev.n (tileBase s u + e.progress) { tileOf s s.ev.n (tileBase s u + e.progress) with elems := [], bad := [] } else s) e)) ∧
  (∀ (s : State) (e : Entry) (u : UnitFor) (k : Nat),
    let p := e.progress
    let a := BitVec.ofNat 64 (bitsOf e.tcw 150 87) + BitVec.ofNat 64 (p * bitsOf e.tcw 182 151)
    let D := tileBase s u + bitsOf e.tcw 187 185
    p < 32 → D < 8 →
    (engineAt s 0x04 e u → bitOf e.tcw 184 = true → unitNear s u a 128 k true = true → ∃ t, exec .aload s = .next t ∧ t.mem = s.mem ∧
      ∀ c, c < 32 → (if bitOf e.tcw 183 then (tileOf t s.ev.n D).get c p else (tileOf t s.ev.n D).get p c) = numAt s (k + 4 * c) 4) ∧
    (engineAt s 0x04 e u → bitOf e.tcw 184 = false → unitNear s u a 64 k true = true → ∃ t, exec .aload s = .next t ∧ t.mem = s.mem ∧
      ∀ c, c < 32 → (if bitOf e.tcw 183 then (tileOf t s.ev.n D).get c p else (tileOf t s.ev.n D).get p c) =
        (Fmt.f32.convert 0 0 false (Fmt.bf16.value (numAt s (k + 2 * c) 2))).1) ∧
    (engineAt s 0x05 e u → tileError s s.ev.n (tileBase s u) e.tcw p = false → bitOf e.tcw 184 = true → unitNear s u a 128 k false = true →
      exec .astore s = .next (stepped (memWrite s k ((List.range 32).flatMap (fun c =>
        natBytes 4 (if bitOf e.tcw 183 then (tileOf s s.ev.n D).get c p else (tileOf s s.ev.n D).get p c)))) e)) ∧
    (engineAt s 0x05 e u → tileError s s.ev.n (tileBase s u) e.tcw p = false → bitOf e.tcw 184 = false → unitNear s u a 64 k false = true →
      exec .astore s = .next (stepped (memWrite s k ((List.range 32).flatMap (fun c =>
        natBytes 2 (Fmt.bf16.convert 0 0 false (Fmt.f32.value (if bitOf e.tcw 183 then (tileOf s s.ev.n D).get c p else (tileOf s s.ev.n D).get p c))).1))) e))) ∧
  (∀ (s : State) (e : Entry) (u : UnitFor) (n k k2 : Nat), n = min 4096 (tcwBytes e.tcw - 4096 * e.progress) → 0 < n →
    let o := BitVec.ofNat 64 (4096 * e.progress)
    (engineAt s 0x10 e u → e.srcDesc = none → e.dstDesc = none → unitNear s u (tcwSrc e.tcw + o) n k true = true → unitNear s u (tcwDst e.tcw + o) n k2 false = true →
      exec .copy s = .next (stepped (memWrite s k2 (memRead s k n)) e)) ∧
    (engineAt s 0x15 e u → unitNear s u (tcwDst e.tcw + o) n k2 false = true →
      exec .fill s = .next (stepped (memWrite s k2 ((List.range n).map (fun b => BitVec.ofNat 8 (bitsOf e.tcw 187 124 / 2 ^ (8 * (b % 8)))))) e))) ∧
  (∀ (s : State) (e : Entry) (u : UnitFor) (k k2 : Nat) (bs : List Byte), e.progress < tcwNgrp e.tcw →
    let p := e.progress
    let tb := match (s.core u.core).table with | some x => if x.launch == e.launch then x.codes else [] | none => []
    let wide := 32 * ((wideFmt e.tcw).width / 8)
    let pk := packedBytes e.tcw
    (engineAt s 0x11 e u → unitNear s u (tcwSrc e.tcw + BitVec.ofNat 64 (p * pk)) pk k true = true → bs = expandGroup e.tcw tb (memRead s k pk) → bs.length = wide →
      unitNear s u (tcwDst e.tcw + BitVec.ofNat 64 (p * wide)) wide k2 false = true → exec .decomp s = .next (stepped (memWrite s k2 bs) e)) ∧
    (engineAt s 0x12 e u → unitNear s u (tcwSrc e.tcw + BitVec.ofNat 64 (p * wide)) wide k true = true →
      bs = compressGroup e.tcw tb ((List.range 32).map (fun i => drawOf u.launch.seed.toNat e.srSel.toNat e.wid.toNat ((e.srBase.toNat + 32 * p + i) % 2 ^ 32))) (memRead s k wide) →
      bs.length = pk → unitNear s u (tcwDst e.tcw + BitVec.ofNat 64 (p * pk)) pk k2 false = true → exec .compr s = .next (stepped (memWrite s k2 bs) e))) ∧
  (∀ (s : State) (e : Entry) (u : UnitFor) (ki ks kx : Nat), e.progress < tcwCount e.tcw →
    let p := e.progress
    let w := tcwIdxw e.tcw / 8
    let es := tcwEsize e.tcw
    let slot := localRef (bitsOf e.tcw 50 32) 19 16 + BitVec.ofNat 64 (p * es)
    let i := numAt s ki w
    let a := bitsOf e.tcw 187 140 + i * bitsOf e.tcw 139 116
    unitNear s u (localRef (bitsOf e.tcw 69 51) 19 16 + BitVec.ofNat 64 (p * w)) w ki true = true →
    (∀ j op, (j, op) ∈ [(Instr.gather, 0x13), (Instr.scatter, 0x14)] → engineAt s op e u →
      ((tcwSenen e.tcw = false ∨ i ≠ 2 ^ tcwIdxw e.tcw - 1) → tcwBound e.tcw ≤ i →
        exec j s = .next (setRunning s s.ev.n s.ev.k { e with progress := p + 1, skipped := e.skipped + 1, firstSkip := if e.skipped = 0 then p else e.firstSkip }))) ∧
    (engineAt s 0x13 e u → tcwSenen e.tcw = true → i = 2 ^ tcwIdxw e.tcw - 1 → unitNear s u slot es ks false = true →
      exec .gather s = .next (setRunning (memWrite s ks (List.replicate es 0)) s.ev.n s.ev.k { e with progress := p + 1, zfilled := e.zfilled + 1 })) ∧
    ((tcwSenen e.tcw = false ∨ i ≠ 2 ^ tcwIdxw e.tcw - 1) → i < tcwBound e.tcw → a + es ≤ 2 ^ 48 →
      (engineAt s 0x13 e u → unitNear s u (BitVec.ofNat 64 a) es kx true = true → unitNear s u slot es ks false = true →
        exec .gather s = .next (stepped (memWrite s ks (memRead s kx es)) e)) ∧
      (engineAt s 0x14 e u → unitNear s u slot es ks true = true → unitNear s u (BitVec.ofNat 64 a) es kx false = true →
        exec .scatter s = .next (stepped (memWrite s kx (memRead s ks es)) e)))) ∧
  (∀ (s : State) (e : Entry) (u : UnitFor) (k k2 : Nat), engineAt s 0x16 e u →
    let p := e.progress
    let n := bitsOf e.tcw 159 143
    let ty := typeOf (bitsOf e.tcw 164 160)
    let iw := tcwIdxw e.tcw / 8
    (p = n → unitNear s u (localRef (bitsOf e.tcw 122 103) 20 8) 8 k false = true → exec .nzscan s = .next (stepped (memWrite s k (natBytes 8 e.skipped)) e)) ∧
    (p < n → unitNear s u (localRef (bitsOf e.tcw 187 165) 23 1 + BitVec.ofNat 64 (p * (ty.container / 8))) (ty.container / 8) k true = true →
      (liveElem ty (numAt s k (ty.container / 8)) = false → exec .nzscan s = .next (stepped s e)) ∧
      (liveElem ty (numAt s k (ty.container / 8)) = true → unitNear s u (localRef (bitsOf e.tcw 141 123) 19 16 + BitVec.ofNat 64 (e.skipped * iw)) iw k2 false = true →
        exec .nzscan s = .next (setRunning (memWrite s k2 (natBytes iw p)) s.ev.n s.ev.k { e with progress := p + 1, skipped := e.skipped + 1 }))))

/-- R25, R28 to R30, R32, R33, R35, R37, R43, R44: a port's flits. The event's `n` is the port. The model's choices: how a packet is received
and which cannot be (log 84), when 16 replays have failed (log 85), the places of control flits and resent flits (log 86), and that FLITS
counts no flit twice (log 132). -/
def Obligations.LinkTransport : Prop :=
  (∀ s : State, isPort s.ev.n = false → ∀ i ∈ [Instr.flitBoundary, .packetReceive, .flitCrcError, .allowanceReturn, .allowanceReturnSend, .allowanceReturnTimeout, .stripeChange, .replayRequest, .acknowledge, .modeChange, .identity, .unknownControlFlit, .laneMarginFailure, .trainingComplete, .trainingFail, .retrainComplete, .retrainFail, .signalLost, .announceDarkEnter, .signalReturn, .darkTimerExpiry, .relockComplete, .relockFail, .lnkCmdPark, .lnkCmdWake, .lnkCmdRetrainPam4, .lnkCmdForceNrz, .lnkCmdAnnounceDark, .lnkCmdReserved, .lnkEnSet, .lnkEnClear, .idleParkExpiry, .wakeDepthTrigger, .wakeStripeChange, .drainMarker], exec i s = .next s) ∧
  (∀ (s : State) (p : Nat) (v : Port), s.ev.n = p → isPort p = true → v = s.port p → v.state = .up → (∀ c, c < 4 → v.ready c = true → (v.chan c).allowance ≠ 0) →
    (∀ m k rest, v.control = .stripe m k :: rest → exec .flitBoundary s = .next (stripeSent (s.setPort p { v with control := rest }) p m k)) ∧
    (∀ x rest, v.control = x :: rest → (∀ m k, x ≠ .stripe m k) →
      exec .flitBoundary s = .next (s.setPort p { v with control := rest, sent := v.sent ++ [.control v.active v.seq x v.stripeSeq] })) ∧
    (∀ f rest, v.control = [] → v.resend = f :: rest →
      exec .flitBoundary s = .next (s.setPort p { v with resend := rest, sent := v.sent ++ [.flit v.active f.2.1 f.1 f.2.2] })) ∧
    (∀ c, c < 4 → v.control = [] → v.resend = [] → v.replay.length < replaySlots p → v.ready c = true → (∀ d, d < 4 → d ≠ c → v.ready d = false) →
      exec .flitBoundary s = .next (s.setPort p (sendFlit v c)) ∧
      ∀ n pk rest, (v.chan c).egress = (n, pk) :: rest → (v.chan c).sentOfHead = 0 → pk.len = 0 →
        let w := sendFlit v c
        let f := Flit.header { pk with hops := if pk.hops = 63 then 63 else pk.hops + 1 }
        (w.chan c).egress = rest ∧ (w.chan c).allowance = (v.chan c).allowance - 1 ∧ w.sent = v.sent ++ [.flit v.active c v.seq f] ∧
          w.replay = v.replay ++ [(v.seq, c, f)] ∧ w.seq = v.seq + 1 ∧ w.flits.toList.getD c 0 = v.flits.toList.getD c 0 + 1) ∧
    (v.control = [] → v.resend = [] → replaySlots p ≤ v.replay.length → ∃ t, exec .flitBoundary s = .next t ∧ t.port p = v)) ∧
  (∀ (s : State) (p c : Nat) (v : Port), s.ev.n = p → isPort p = true → v = s.port p → v.state = .up → c < 4 → v.ready c = true → (v.chan c).allowance = 0 →
    v.control = [] → v.resend = [] → (∀ d, d < 4 → d ≠ c → v.ready d = false) →
    ∃ t, exec .flitBoundary s = .next t ∧ (t.port p).sent = v.sent ∧ (t.port p).stall.toList.getD c 0 = v.stall.toList.getD c 0 + BitVec.ofNat 64 s.ev.m) ∧
  (∀ (s : State) (p : Nat) (v : Port), s.ev.n = p → isPort p = true → v = s.port p →
    let c := s.ev.k % 4
    let x := v.chan c
    let w := { v with rxBad := false, rxSeq := BitVec.ofNat 16 s.ev.m, control := v.control ++ [Control.ack (BitVec.ofNat 16 s.ev.m)] }
    (v.state = .down ∨ (v.rxBad = true ∧ s.ev.flag = false) ∨
      (kindDefined s.ev.pkt.kind.toNat = true ∧ s.ev.pkt.len ≤ 64 ∧ portSlots p < x.held + flitsOf s.ev.pkt) → exec .packetReceive s = .next s) ∧
    (v.state ≠ .down → (v.rxBad = false ∨ s.ev.flag = true) →
      (kindDefined s.ev.pkt.kind.toNat = true → s.ev.pkt.len ≤ 64 → x.held + flitsOf s.ev.pkt ≤ portSlots p →
        exec .packetReceive s = .next (s.setPort p (w.setChan c { x with ingress := x.ingress ++ [s.ev.pkt], held := x.held + flitsOf s.ev.pkt }))) ∧
      (kindDefined s.ev.pkt.kind.toNat = false ∨ 64 < s.ev.pkt.len → exec .packetReceive s =
        .next (s.setPort p { w.setChan c { x with freed := x.freed + flitsOf s.ev.pkt } with proterr := v.proterr + BitVec.ofNat 64 (flitsOf s.ev.pkt) }))) ∧
    exec .flitCrcError s = .next (if v.state = .down ∨ (v.rxBad = true ∧ s.ev.flag = false) then s else
      s.setPort p { v with rxBad := true, control := v.control ++ [.replay (BitVec.ofNat 16 s.ev.m)] }) ∧
    (∃ t, exec .allowanceReturn s = .next t ∧ ∀ d, d < 4 → ((t.port p).chan d).allowance = (v.chan d).allowance + bitsOf s.ev.word (16 * d + 15) (16 * d) ∧
      ((t.port p).chan d).egress = (v.chan d).egress ∧ ((t.port p).chan d).ingress = (v.chan d).ingress) ∧
    exec .allowanceReturnSend s = .next (if 64 ≤ v.freedSlots then s.setPort p (returnAllowance v) else s) ∧
    exec .allowanceReturnTimeout s = .next (if v.freedSlots = 0 then s else s.setPort p (returnAllowance v)) ∧
    ((returnAllowance v).control = v.control ++ [.allowance (v.chans.toList.map (fun c => c.freed))] ∧ (returnAllowance v).freedSlots = 0) ∧
    (s.ev.flag = false ∨ v.nrz = false → exec .stripeChange s = .next (s.setPort p { v with rxMask := BitVec.ofNat 16 (bitsOf s.ev.word 15 0) })) ∧
    (s.ev.flag = true → v.nrz = true → exec .stripeChange s =
      .next (marginFails (s.setPort p { v with rxMask := BitVec.ofNat 16 (bitsOf s.ev.word 15 0) }) p (BitVec.ofNat 16 s.ev.m))) ∧
    (let q := BitVec.ofNat 16 (bitsOf s.ev.word 15 0)
     let again := fun (n : Nat) => s.setPort p { v with resend := v.replay.dropWhile (fun f => f.1 != q), retries := v.retries + 1, replayOf := q, replayRuns := n }
     (v.replayRuns = 0 ∨ v.replayOf ≠ q → exec .replayRequest s = .next (again 1)) ∧
     (v.replayRuns ≠ 0 → v.replayOf = q → v.replayRuns ≠ 16 → exec .replayRequest s = .next (again (v.replayRuns + 1))) ∧
     (v.replayOf = q → v.replayRuns = 16 → exec .replayRequest s = .next (marginFails (again 0) p v.active))) ∧
    (∀ a f b, v.replay = a ++ f :: b → f.1 = BitVec.ofNat 16 (bitsOf s.ev.word 15 0) → (∀ g ∈ a, g.1 ≠ f.1) → exec .acknowledge s = .next (s.setPort p { v with replay := b })) ∧
    ((∀ f ∈ v.replay, f.1 ≠ BitVec.ofNat 16 (bitsOf s.ev.word 15 0)) → exec .acknowledge s = .next s) ∧
    (v.state = .up → ∃ t, exec .modeChange s = .next t ∧ (t.port p).state = .retrain ∧ (t.port p).nrz = s.ev.flag ∧ (t.port p).fallbacks = v.fallbacks + 1 ∧
      (t.port p).waking = false ∧ (t.port p).failed = (if s.ev.flag then v.failed else 0)) ∧
    (v.state ≠ .up → exec .modeChange s = .next s) ∧
    (let d := identityOf s.ev.word
     (v.state = .relock → v.peer = some d → exec .identity s = .next s) ∧
     ((v.state ≠ .relock ∨ v.peer ≠ some d) → ∃ t, exec .identity s = .next t ∧ (t.port p).peer = some d ∧ ∀ c, c < 4 → ((t.port p).chan c).allowance = d.2.2.toNat)) ∧
    exec .unknownControlFlit s = .next (s.setPort p { v with proterr := v.proterr + 1 }))

/-- R34 to R42, R44, R45, R69: a port's states and commands. The event's `n` is the port. The model's choices: the order of a command's
fields and CMDERR 2 before 4 (log 69), when a drain ends (log 83), wakes, fallbacks, FAILED and handbacks (log 85), slots and
replay flits across Down and a changed identity (log 131), and a grid that runs past its window (log 133). -/
def Obligations.LinkStates : Prop :=
  (∀ (s : State) (p : Nat),
    let v := s.port p
    let t := goDown s p
    (t.port p).state = .down ∧ (t.port p).control = [] ∧ (t.port p).replay = [] ∧ (∀ c, c < 4 → ((t.port p).chan c).egress = []) ∧ (∀ q, q ≠ p → t.port q = s.port q) ∧
    t.fabric.router = s.fabric.router ++ (v.chans.toList.flatMap (fun c => c.egress)).filter (fun e => e.2.kind != 0x0B)) ∧
  (∀ (s : State) (p : Nat) (v : Port), s.ev.n = p → isPort p = true → v = s.port p →
    (v.state = .training →
      let ok := BitVec.ofNat 16 (bitsOf s.ev.word 15 0) &&& membersOf p
      (ok ≠ 0 → ∃ t, exec .trainingComplete s = .next t ∧ (t.port p).state = .up ∧ (t.port p).active = lowestPower ok ∧ (t.port p).failed = membersOf p &&& ~~~ok ∧
        (t.port p).parked = 0 ∧ (t.port p).nrz = false ∧
        (t.port p).sent = v.sent ++ [.control (lowestPower ok) v.seq (.identity (BitVec.ofNat 16 (ownId s)) p (portSlots p)) v.stripeSeq] ∧ (∀ c, c < 4 → ((t.port p).chan c).allowance = bitsOf s.ev.word 63 48)) ∧
      (ok = 0 → exec .trainingComplete s = .next s) ∧ exec .trainingFail s = .next (goDown s p)) ∧
    (v.state = .retrain → exec .retrainComplete s = .next (s.setPort p { v with state := .up }) ∧ exec .retrainFail s = .next (goDown s p)) ∧
    (v.state ≠ .training → exec .trainingComplete s = .next s ∧ exec .trainingFail s = .next s) ∧
    (v.state ≠ .retrain → exec .retrainComplete s = .next s ∧ exec .retrainFail s = .next s) ∧
    (v.state = .up → v.nrz = false → ∃ t, exec .laneMarginFailure s = .next t ∧ (t.port p).state = .retrain ∧ (t.port p).nrz = true ∧
      (t.port p).fallbacks = v.fallbacks + 1 ∧ (t.port p).failed = v.failed) ∧
    (v.state = .up → v.nrz = true →
      let failed := v.failed ||| (BitVec.ofNat 16 (bitsOf s.ev.word 15 0) &&& membersOf p)
      let mask := lowestPower (membersOf p &&& ~~~failed)
      ∃ t, exec .laneMarginFailure s = .next t ∧ (t.port p).failed = failed ∧ (mask = 0 → (t.port p).state = .down) ∧
        (mask ≠ 0 → (t.port p).state = .up ∧ (t.port p).control = (if mask = v.active then v.control else v.control ++ [.stripe mask .fallback]))) ∧
    (v.state = .up → exec .signalLost s = .next (goDark s p false) ∧ ((goDark s p false).port p).state = (if v.darklim = 0 then .down else .dark)) ∧
    (v.state = .up → v.announce = true → v.replay = [] → (∀ c ∈ v.chans.toList, c.sentOfHead = 0) → exec .announceDarkEnter s = .next (goDark s p true)) ∧
    (v.announce = false → exec .announceDarkEnter s = .next s) ∧
    (v.state = .dark → exec .signalLost s = .next (s.setPort p { v with sigLost := true }) ∧
      (v.sigLost = true → ∃ t, exec .signalReturn s = .next t ∧ (t.port p).state = .relock ∧ (t.port p).darkcyc = v.darkcyc ∧
        (t.port p).sent = v.sent ++ [.control v.active v.seq (.identity (BitVec.ofNat 16 (ownId s)) p (portSlots p)) v.stripeSeq]) ∧
      (v.sigLost = false → exec .signalReturn s = .next s) ∧
      ∃ t, exec .darkTimerExpiry s = .next t ∧ (t.port p).state = .down ∧
        ∀ d, v.darkSince = some d → (t.port p).darkcyc = v.darkcyc + (Config.cycleAt s.steps - Config.cycleAt d)) ∧
    (v.state = .relock → (∃ t, exec .relockComplete s = .next t ∧ (t.port p).state = .up ∧ (t.port p).drained = false ∧
        (∀ d, v.darkSince = some d → (t.port p).darkcyc = v.darkcyc + (Config.cycleAt s.steps - Config.cycleAt d)) ∧
        t.fabric.dstat &&& BitVec.ofNat 80 (2 ^ p) = 0 ∧ (v.newPeer = false → t.fabric.router = s.fabric.router) ∧
        (v.newPeer = true → ∀ c, c < 4 → ((t.port p).chan c).egress = [])) ∧
      ∃ t, exec .relockFail s = .next t ∧ (t.port p).state = .down) ∧
    (v.state ≠ .relock → exec .relockComplete s = .next s ∧ exec .relockFail s = .next s)) ∧
  (∀ (s : State) (p : Nat) (v : Port), s.ev.n = p → isPort p = true → v = s.port p →
    let err := fun (n : Nat) => s.setPort p { v with cmderr := n }
    exec .lnkCmdReserved s = .next (err 1) ∧
    (v.state ≠ .up → ∀ i ∈ [Instr.lnkCmdPark, .lnkCmdWake, .lnkCmdRetrainPam4, .lnkCmdForceNrz, .lnkCmdAnnounceDark], exec i s = .next (err 3)) ∧
    (v.state = .up →
      (isLocalPort p = true → exec .lnkCmdPark s = .next (err 5) ∧ exec .lnkCmdWake s = .next (err 5)) ∧
      (isLocalPort p = false →
        (v.waking = true ∨ v.parkWait = true → exec .lnkCmdPark s = .next (err 2)) ∧
        (v.waking = false → v.parkWait = false → v.keepOk = false → exec .lnkCmdPark s = .next (err 4)) ∧
        (v.waking = false → v.parkWait = false → v.keepOk = true → exec .lnkCmdPark s = .next (if v.active = v.keep then err 0 else
          s.setPort p { v with cmderr := 0, control := v.control ++ [.stripe v.keep .park], parkWait := true })) ∧
        (exec .lnkCmdWake s = .next (if v.waking then err 0 else if v.parkWait then s.setPort p { v with cmderr := 0, wakeAfterPark := true }
          else if v.parked = 0 then err 0 else s.setPort p { v with cmderr := 0, waking := true, wakes := v.wakes + 1 }))) ∧
      (v.nrz = false → exec .lnkCmdRetrainPam4 s = .next (err 0)) ∧ (v.nrz = true → exec .lnkCmdForceNrz s = .next (err 0)) ∧
      (v.nrz = true → ∃ t, exec .lnkCmdRetrainPam4 s = .next t ∧ (t.port p).state = .retrain ∧ (t.port p).nrz = false ∧ (t.port p).failed = 0) ∧
      (v.nrz = false → ∃ t, exec .lnkCmdForceNrz s = .next t ∧ (t.port p).state = .retrain ∧ (t.port p).nrz = true) ∧
      exec .lnkCmdAnnounceDark s = .next (s.setPort p { v with cmderr := 0, announce := true })) ∧
    (∃ t, exec .lnkEnClear s = .next t ∧ (t.port p).state = .down ∧ (t.port p).en = false) ∧
    exec .lnkEnSet s = .next (s.setPort p { v with en := true, state := if v.state = .down then .training else v.state }) ∧
    (v.state = .up → isLocalPort p = false → v.idlepark = true → v.depth = 0 → v.waking = false → v.parkWait = false → v.keepOk = true →
      exec .idleParkExpiry s = .next (startPark s p)) ∧
    (v.idlepark = false → exec .idleParkExpiry s = .next s) ∧
    (v.state = .up → isLocalPort p = false → v.wakeen = true → max 1 v.wakedepth.toNat ≤ v.depth → exec .wakeDepthTrigger s = .next (startWake s p)) ∧
    (v.depth < max 1 v.wakedepth.toNat → exec .wakeDepthTrigger s = .next s) ∧
    (v.state = .up → v.waking = true → v.wakeWait = false →
      let lost := BitVec.ofNat 16 (bitsOf s.ev.word 15 0) &&& v.parked &&& ~~~v.failed
      exec .wakeStripeChange s = .next (s.setPort p { v with
        failed := v.failed ||| lost, parked := v.parked &&& ~~~lost, wakeWait := true, control := v.control ++ [.stripe v.active .wake] })) ∧
    (v.waking = false ∨ v.wakeWait = true → exec .wakeStripeChange s = .next s) ∧
    (∀ m, let t := stripeSent s p m .wake
      (t.port p).active = lowestPower (membersOf p &&& ~~~v.failed) ∧ (t.port p).failed = v.failed ∧ (t.port p).waking = false ∧ (t.port p).stripes = v.stripes + 1) ∧
    (∀ m, let t := stripeSent s p m .park
      (t.port p).active = m ∧ (t.port p).parked = membersOf p &&& ~~~m ∧ (t.port p).parkWait = false ∧ (t.port p).stripes = v.stripes + 1)) ∧
  (∀ s : State,
    (s.grid.int = 0 ∨ inWindows s.grid.base 10304 = false → exec .gridCapture s = .next s) ∧
    (s.grid.int ≠ 0 → inWindows s.grid.base 10304 = true → s.ev.flag = true → exec .gridCapture s = .next { s with grid := { s.grid with skipped := s.grid.skipped + 1 } }) ∧
    (s.grid.int ≠ 0 → inWindows s.grid.base 10304 = true → s.ev.flag = false →
      let b := s.grid.base
      let image := (List.range 80).flatMap (fun p => if isPort p then wordsBytes ((s.port p).counters s.steps) else natBytes 128 0)
      let cycles := natBytes 8 (Config.cycleAt s.steps).toNat ++ natBytes 8 s.grid.skipped.toNat ++ natBytes 40 0
      let t := windowStore (windowStore (windowStore s b image) (b + 10248) cycles) (b + 10240) (natBytes 8 (s.grid.seq + 1).toNat)
      exec .gridCapture s = .next { t with grid := { t.grid with seq := s.grid.seq + 1, skipped := 0 } } ∧
        image.length = 10240 ∧ cycles.length = 56 ∧ t.ports = s.ports ∧ t.fabric = s.fabric ∧ t.grid = s.grid ∧
        ∀ k, (∀ r ∈ windowKeys s b.toNat 10304, k < r.1 ∨ r.1 + r.2 ≤ k) → memGet t.mem k = memGet s.mem k))

/-- R50 to R57, R61, R63 to R69, R79, R80. The model's choices: where a forward of this device's own is taken (log 77), how failures of a
forward are told (log 79), what a peer request is refused with (log 80), retries (log 82), when a rank sees that copies differ (log 88), and that a
request which times out leaves its stream (log 134). -/
def Obligations.FabricEvents : Prop :=
  (∀ (s : State) (pk : Packet) (rest : List Packet), s.ev.flag = true → s.fabric.inject = pk :: rest →
    (pk.dest.toNat = ownId s → exec .packetInject s = .next { s with fabric := { s.fabric with inject := rest, deliver := s.fabric.deliver ++ [pk] } }) ∧
    (pk.dest.toNat ≠ ownId s → s.fabric.adapt = false → exec .packetInject s = .next { s with fabric := { s.fabric with
      inject := rest, router := s.fabric.router ++ [(0, { pk with gen := s.fabric.cur, esc := false, hops := 0, body := if hasVia pk.kind.toNat then setBits pk.body 346 335 0 else pk.body })],
      geninj := s.fabric.geninj.setIfInBounds (if s.fabric.cur then 1 else 0) (s.fabric.geninj.toList.getD (if s.fabric.cur then 1 else 0) 0 + 1) } })) ∧
  (∀ (s : State) (f : Far), s.ev.flag = false → s.far.find? (fun g => g.id == s.ev.n) = some f →
    (mayLeave s f = false → exec .packetInject s = .next s) ∧
    (mayLeave s f = true → ∃ t, exec .packetInject s = .next t ∧ t.mem = s.mem ∧ t.threads = s.threads ∧ t.fabric.requests.length = s.fabric.requests.length + 1 ∧
      (∃ g ∈ t.far, g.id = f.id ∧ g.tag.isSome = true ∧ (f.pieces.length ≤ 1 → g.sent = true) ∧
        g.pieces = f.pieces.modify (f.pieces.findIdx (fun p => !p.sent)) (fun p => { p with sent := true })) ∧ t.far.length = s.far.length ∧
      (∃ r ∈ t.fabric.requests, r.access = some f.id ∧ r.ctx = f.ctx ∧ r.piece = f.pieces.findIdx (fun p => !p.sent) ∧ r.pkt.kind = (farPacket s f).kind ∧ r.pkt.dest = BitVec.ofNat 16 (f.dev - 1)))) ∧
  (∀ (s : State) (i : Nat) (pk : Packet) (rest : List (Nat × Packet)), s.ev.n = 0 → s.fabric.router = (i, pk) :: rest → pViaV pk = false →
    let t := { s with fabric := { s.fabric with router := rest } }
    (pk.dest.toNat = ownId s → exec .routePacket s = .next { countEject t pk with fabric := { (countEject t pk).fabric with deliver := s.fabric.deliver ++ [pk] } }) ∧
    (pk.dest.toNat ≠ ownId s → routeOf t pk i = none → exec .routePacket s = .next (terminate { t with fabric := { t.fabric with noroute := s.fabric.noroute + 1 } } pk)) ∧
    (∀ p, pk.dest.toNat ≠ ownId s → routeOf t pk i = some (p, false) →
      (pk.hops = 63 → exec .routePacket s = .next (terminate { t with fabric := { t.fabric with hopdrop := s.fabric.hopdrop + 1 } } pk)) ∧
      (pk.hops ≠ 63 → let c := channelOf t pk p
        exec .routePacket s = .next (t.setPort p ((t.port p).setChan c { (t.port p).chan c with egress := ((t.port p).chan c).egress ++ [(i, pk)] }))))) ∧
  (∀ (s t : State) (pk : Packet) (i : Nat), isPort s.ev.n = true → s.ev.k < 3 → takeInput s (s.ev.n + 1) s.ev.k = some (t, pk, i) →
    (pk.dest.toNat ≠ ownId s → escapePort s pk.gen pk.dest.toNat = none → exec .deadlockEscape s = .next s) ∧
    (pk.dest.toNat = ownId s ∨ (escapePort s pk.gen pk.dest.toNat).isSome = true → exec .deadlockEscape s = .next (routePacket { t with fabric := { t.fabric with escmoves := t.fabric.escmoves + 1 } } { pk with esc := true } i))) ∧
  (∀ s : State, 3 ≤ s.ev.k → exec .deadlockEscape s = .next s) ∧
  (∀ (s : State) (pk : Packet), s.fabric.deliver.find? (fun p => sequenced p.kind.toNat) = some pk →
    let key := (pk.origin, pk.job, BitVec.ofNat 4 (pk.seq.toNat / 4096))
    let old := s.fabric.order.filter (fun p => p.1 != key)
    (s.fabric.order.find? (fun p => p.1 == key) = none →
      (pFirst pk = true → s.fabric.order.length < 4096 → ∃ t, exec .sequencedPacketArrival s = .next t ∧ t.fabric.serve = s.fabric.serve ++ [pk] ∧
        t.fabric.order = (key, { expected := seqNumber pk + 1, held := [] }) :: old) ∧
      (pFirst pk = false → ∃ t, exec .sequencedPacketArrival s = .next t ∧ t.fabric.serve = s.fabric.serve ∧ t.fabric.ordretry = s.fabric.ordretry + 1)) ∧
    (∀ e, s.fabric.order.find? (fun p => p.1 == key) = some (key, e) →
      (e.held = [] → (pFirst pk = true ∨ seqNumber pk = e.expected) → ∃ t, exec .sequencedPacketArrival s = .next t ∧ t.fabric.serve = s.fabric.serve ++ [pk] ∧
        t.fabric.order = (key, { expected := seqNumber pk + 1, held := [] }) :: old) ∧
      (pFirst pk = false → seqNumber pk ≠ e.expected →
        (2048 < (seqNumber pk - e.expected).toNat → ∃ t, exec .sequencedPacketArrival s = .next t ∧ t.fabric.serve = s.fabric.serve ∧ t.fabric.ordretry = s.fabric.ordretry + 1) ∧
        ((seqNumber pk - e.expected).toNat ≤ 2048 → s.fabric.order = [(key, e)] → e.held = [] → ∃ t, exec .sequencedPacketArrival s = .next t ∧
          t.fabric.serve = s.fabric.serve ∧ t.fabric.order = [(key, { e with held := [pk] })])))) ∧
  (∀ (s : State) (r : Request), requestOf s s.ev.n = some r → (r.retry = false → exec .retryResend s = .next s) ∧
    (r.retry = true → r.again = true → s.fabric.adapt = false → r.pkt.dest.toNat ≠ ownId s → ∃ t, exec .retryResend s = .next t ∧
      t.fabric.router.length = s.fabric.router.length + 1 ∧ t.mem = s.mem ∧ t.far = s.far)) ∧
  (∀ (s : State) (pk : Packet) (i : Instr) (k : Nat), (i, k) ∈ [(Instr.read, 1), (Instr.write, 3), (Instr.atomic, 5)] →
    (nextServed s k s.ev.n = none → exec i s = .next s) ∧
    (nextServed s k s.ev.n = some pk → (meets s pk = .waits → exec i s = .next s) ∧ ∀ e, meets s pk = .status e → exec i s = .next (refuse s pk e))) ∧
  (∀ (s : State) (pk : Packet) (c : Nat), meets s pk = .ctx c → s.replay = [] → tablesWait s c (pAddr pk) (pSize pk) = false →
    (nextServed s 1 s.ev.n = some pk →
      (∀ e, requestKeys s c pk [rightPRD] = .error e → exec .read s = .next (refuseAt s c pk e)) ∧
      (∀ ks, requestKeys s c pk [rightPRD] = .ok ks → (inletAt s c (pAddr pk)).isSome = true → exec .read s = .next (refuse s pk 0x11)) ∧
      (∀ ks bs, requestKeys s c pk [rightPRD] = .ok ks → inletAt s c (pAddr pk) = none → ks.any (fun k => homeWaits s k.1 k.2) = false → readKeys s ks = .ok bs →
        exec .read s = .next (reply (served s pk) pk 0 bs))) ∧
    (nextServed s 3 s.ev.n = some pk →
      (∀ e, requestKeys s c pk [rightPWR] = .error e → exec .write s = .next (refuseAt s c pk e)) ∧
      (∀ ks t, requestKeys s c pk [rightPWR] = .ok ks → inletAt s c (pAddr pk) = none → ks.any (fun k => homeWaits s k.1 k.2) = false →
        writeKeys s ks (pk.data.take (pSize pk)) = .ok t → exec .write s = .next (reply (served t pk) pk 0))) ∧
    (nextServed s 5 s.ev.n = some pk →
      (amoOfCode (pbits pk 333 330) = none → exec .atomic s = .next (refuse s pk 0x01)) ∧
      (∀ e, (amoOfCode (pbits pk 333 330)).isSome = true → requestKeys s c pk [rightPRD, rightPWR] = .error e → exec .atomic s = .next (refuseAt s c pk e)) ∧
      (∀ op ks bs, amoOfCode (pbits pk 333 330) = some op → op ≠ .cas → requestKeys s c pk [rightPRD, rightPWR] = .ok ks → inletAt s c (pAddr pk) = none →
        ks.any (fun k => homeWaits s k.1 k.2) = false → readKeys s ks = .ok bs →
        let n := pSize pk
        exec .atomic s = .next (reply (served (putKeys s ks (natBytes n (op.apply n (leNat bs) (leNat (pk.data.take n)) (leNat ((pk.data.drop n).take n))))) pk) pk 0 (natBytes n (leNat bs)))))) ∧
  (∀ (s t : State) (pk : Packet) (r : Request) (f : Far) (p : Piece) (i : Instr) (k : Nat), (i, k) ∈ [(Instr.readData, 2), (Instr.writeAcknowledge, 4), (Instr.atomicResult, 6)] →
    takeDelivered s k = some (t, pk) → requestOf t (pTag pk) = some r → r.access = some f.id → t.far.find? (fun g => g.id == f.id) = some f → f.pieces = [p] → r.piece = 0 → f.own = false →
    let got := fun (t : State) (f : Far) (bs : List Byte) => if f.gives then deliverData t f bs else dropFar t f.id
    let g := { f with data := spliceBytes f.length p.pos f.data (pk.data.take p.len), pieces := [{ p with done := true }] }
    (pStatus pk = 0x3F → exec i s = .next { t with fabric := { t.fabric with requests := t.fabric.requests.map (fun q =>
      if pTag q.pkt == pTag pk then { q with retry := true } else q) } }) ∧
    (pStatus pk ≠ 0 → pStatus pk ≠ 0x3F → exec i s = .next (failFar (acknowledged t r) f (pStatus pk % 128))) ∧
    (pStatus pk = 0 →
      (f.kind = .load → exec i s = .next (got (acknowledged t r) g g.data)) ∧
      (f.kind = .store → exec i s = .next (got (acknowledged t r) f [])) ∧
      (∀ x c sc, f.kind = .atomic .add x c sc → exec i s = .next (got (atomicDone (acknowledged t r) f .add x c p.len (leNat (pk.data.take p.len))) f (pk.data.take p.len))))) ∧
  (∀ (s : State) (r : Request) (f : Far), s.ev.flag = false → requestOf s s.ev.n = some r → r.access = some f.id → s.far.find? (fun g => g.id == f.id) = some f →
    exec .peerTimeout s = .next (failFar (acknowledged s r) f 0x30)) ∧
  (∀ (s : State) (c : CollRank), s.ev.flag = true → s.coll.find? (fun c => c.id == s.ev.n && c.awaits) = some c → exec .peerTimeout s = .next (failWaiting s c.job c.collid s.ev.k)) ∧
  (∀ s : State, s.ev.flag = true → s.coll.find? (fun c => c.id == s.ev.n && c.awaits) = none → exec .peerTimeout s = .next s) ∧
  (∀ (s : State) (d : Delivery) (ks : List (Nat × Nat)) (bs : List Byte), s.ev.flag = true → s.fabric.deliveries[s.ev.n]? = some d →
    (s.fabric.deliveries.take s.ev.n).any (fun e => e.adev == d.adev && e.atag == d.atag && e.done < e.bytes && e.unit ≤ d.unit) = false → d.done < d.bytes →
    let n := d.unitBytes
    tablesWait s d.ctx (d.src + d.done) n = false → hubKeys s d.ctx (d.src + d.done) n [rightFSRC] = .ok ks → s.replay = [] → ks.any (fun k => homeWaits s k.1 k.2) = false → readKeys s ks = .ok bs →
    ∃ t p, exec .forwardRequest s = .next t ∧ t.mem = s.mem ∧ p.kind = 8 ∧ p.dest = d.cdev ∧ p.data = flitPad bs ∧
      (if d.cdev.toNat = ownId s then t.fabric.deliver = s.fabric.deliver ++ [p] else t.fabric.inject = s.fabric.inject ++ [p]) ∧
      t.fabric.deliveries = s.fabric.deliveries.set s.ev.n { d with done := d.done + n, unit := d.unit + 1 }) ∧
  (∀ (s : State) (pk : Packet) (c : Nat) (ks : List (Nat × Nat)), s.ev.flag = false → s.ev.k ≠ 1 → nextServed s 7 s.ev.n = some pk → meets s pk = .ctx c → pbits pk 225 225 = 0 →
    tablesWait s c (pAddr pk) (pbits pk 329 304) = false → hubKeys s c (pAddr pk) (pbits pk 329 304) [rightFSRC] = .ok ks →
    ∃ t d, exec .forwardRequest s = .next t ∧ t.mem = s.mem ∧ t.fabric.deliveries = s.fabric.deliveries.filter (fun e => !(e.adev.toNat == pk.origin.toNat && e.atag.toNat == pTag pk)) ++ [d] ∧ d.adev = pk.origin ∧ d.src = pAddr pk ∧ d.dst = pbits pk 287 240 ∧
      d.cdev.toNat = pbits pk 303 288 ∧ d.bytes = pbits pk 329 304 ∧ d.ring = pbits pk 239 234 ∧ d.ctx = c ∧ d.done = 0 ∧ d.unit = 0 ∧ d.member = none) ∧
  (∀ (s t u : State) (pk : Packet) (c : Nat) (ks : List (Nat × Nat)), takeDelivered s 8 = some (t, pk) → jobCtx s pk.job = some c →
    (s.ctx c).save ≠ .stopping → (s.ctx c).save ≠ .writing → (s.ctx c).save ≠ .restoring → ringsWait s c [pbits pk 239 234] = false → hubKeys s c (pAddr pk) (pSize pk) [rightFDST] = .ok ks →
    tablesWait s c (pAddr pk) (pSize pk) = false → s.replay = [] → ks.any (fun k => homeWaits s k.1 k.2) = false →
    let a := arrivalOf s (BitVec.ofNat 16 (pbits pk 303 288)) (BitVec.ofNat 16 (pbits pk 287 272))
    a.told = false → a.fail = none → writeKeys t ks (pk.data.take (pSize pk)) = .ok u →
    let n := pbits pk 271 258
    let a1 := { a with ring := some (pbits pk 239 234), first := if n = 0 then some (pAddr pk) else a.first,
                       total := if pbits pk 257 257 = 1 then some (n + 1) else a.total, got := tset a.got n (pSize pk) }
    (a1.total = none → exec .forwardData s = .next (setArrival u a1 true)) ∧
    (∀ m, a1.total = some m → a1.upTo m = false → exec .forwardData s = .next (setArrival u a1 true)) ∧
    (∀ m d x, a1.total = some m → a1.upTo m = true → a1.first = some d → a1.member = some x → exec .forwardData s =
      .next (setArrival (ringRecord u c (pbits pk 239 234) a1.adev.toNat a1.atag.toNat x 0 (a1.run 0 (a1.got.length + 1)) (BitVec.ofNat 64 d)) { a1 with told := true } false))) ∧
  (∀ (s t : State) (pk : Packet) (r : Request) (f : Far) (x : Bool), takeDelivered s 9 = some (t, pk) → requestOf t (pTag pk) = some r → r.pkt.kind = 7 → r.pkt.dest.toNat = pk.origin.toNat →
    r.access = some f.id → t.far.find? (fun g => g.id == f.id) = some f → f.kind = .forward x → f.dev ≠ 0 → (∀ d ∈ t.fabric.deliveries, d.atag.toNat ≠ pTag pk) →
    pbits pk 303 288 = pk.origin.toNat → pbits pk 271 258 = 0 → (∀ c, jobCtx s pk.job = some c → ringsWait s c (List.range 64) = false) →
    let u := acknowledged t r
    (pStatus pk = 0 → exec .forwardStatus s = .next (deliverData { u with fabric := { u.fabric with forwards := tset u.fabric.forwards (pTag pk) f } } f (natBytes 8 0))) ∧
    (pStatus pk ≠ 0 → pStatus pk ≠ 0x3F → (∀ m, (destsOf t f m).contains (ownId t) = false) → exec .forwardStatus s = .next (failFar u f (pStatus pk % 128)))) ∧
  (∀ s : State, (isPort s.ev.n = false → exec .fabricDrain s = .next s) ∧
    (isPort s.ev.n = true → ∃ t, exec .fabricDrain s = .next t ∧ (t.port s.ev.n).drained = true ∧ ∀ c, c < 4 → ∃ m, m.kind = 0x0B ∧
      ((t.port s.ev.n).chan c).egress = ((s.port s.ev.n).chan c).egress ++ [(0, m)])) ∧
  (∀ (s : State) (pk : Packet) (rest : List Packet),
    let v := s.port s.ev.n
    let c := s.ev.k % 4
    isPort s.ev.n = true → (v.chan c).ingress = pk :: rest → pk.kind = 0x0B →
    ∃ t, exec .drainMarker s = .next t ∧ ((t.port s.ev.n).chan c).ingress = rest ∧
      (v.markers ||| BitVec.ofNat 4 (2 ^ c) ≠ 15 → (t.port s.ev.n).markers = v.markers ||| BitVec.ofNat 4 (2 ^ c) ∧ t.fabric = s.fabric) ∧
      (v.markers ||| BitVec.ofNat 4 (2 ^ c) = 15 → (t.port s.ev.n).markers = 0 ∧ t.fabric.dstat = s.fabric.dstat ||| BitVec.ofNat 80 (2 ^ s.ev.n))) ∧
  (∀ (s t : State) (pk : Packet), s.ev.flag = true → takeDelivered s 0x0C = some (t, pk) → heldArrival ((collTarget s pk).bind (fun c => s.launch c.launch)) = false →
    (∀ u, collDeliver t pk = some u → exec .collective s = .next u) ∧ (collDeliver t pk = none → exec .collective s = .next s)) ∧
  (∀ (s : State) (c : CollRank) (u : UnitFor), s.ev.flag = false → s.coll.find? (fun c => c.id == s.ev.n) = some c → collUnit s c = some u → c.log = 0 →
    (∀ k, c.phase = 4 → launchKey s u.launch u.core (c.word 6) 8 = .ok k → s.replay = [] → homeWaits s k 8 = false → homeFails s k 8 false = none →
      ∃ t, exec .collective s = .next t ∧ t.mem = (memWrite s k (natBytes 8 (if c.code = 0 then 1 else 2 ^ 63 + c.code))).mem ∧ ∀ x ∈ t.coll, x.id = c.id → x.phase = 5) ∧
    (c.phase = 1 → collDiffers s c (s.ev.k == 1) = false → c.out = none → c.op = 2 ∨ c.op = 5 → parentOf c.table c.rank = 0xFFFF →
      exec .collective s = .next (if (childrenOf c.table c.rank).all (fun k => c.whole 0 k) then setColl s { c with out := some c.rootOut } else s)) ∧
    (c.phase = 3 → collDiffers s c (s.ev.k == 1) = false → c.out = none →
      exec .collective s = .next (if (List.range c.nrank).all (fun q => c.whole 2 q) then setColl s { c with out := some c.allOut } else s)) ∧
    (c.phase ≤ 3 → collDiffers s c (s.ev.k == 1) = true → exec .collective s = .next (failInstance s c.job c.collid 0x23 (ownId s))))

/-- R12 to R15, R18 to R22, R42, R87, R153, R159, R161, R162. The model's choices: when an invalidation drops entries (log 62), the layout of
the recovery image and record (log 104), which record a recovered run takes (log 130), what a trip clears (log
107), and attestation before ready (log 126). -/
def Obligations.PackageAndMemoryEvents : Prop :=
  (∀ s : State,
    let b := s.ev.boot
    let f := flashOf s b
    let c := f.configRecord
    let step := if !b.romOk then 1 else if !recordOk c s.pkg.counter b then 2 else if !imageOk c f.firmware then 3 else if b.stackOk != 0xFF then 4 else if b.dieOk != 0xF then 6
      else if !b.counterOk then 7 else 0
    let which := if step = 4 then 0xFF - b.stackOk.toNat else if step = 6 then 0xF - b.dieOk.toNat else 0
    let counter := max s.pkg.counter (recordWord c 1)
    ∃ t, exec .matins s = .next t ∧ t.threads = [] ∧ t.mem = [] ∧ t.cores = [] ∧ t.ctxs = [] ∧ t.launches = [] ∧ t.far = [] ∧ t.pkg.flash = f ∧
      (step ≠ 0 → t.outputs = s.outputs ++ [.bootFailure step which] ∧ t.pkg.counter = s.pkg.counter ∧ t.pkg.power = (if step = 3 then .waitImage else .stopped step)) ∧
      (step = 0 → t.outputs = s.outputs ++ (if s.pkg.counter < counter then [Output.counterWrite counter] else []) ++ [.ready] ∧ t.pkg.power = .ready ∧ t.fabric.id = b.deviceId ∧
        t.fabric.lfsr = 0x1D872B41 ^^^ (b.deviceId.zeroExtend 32 <<< 16) ∧ t.pkg.pwrlim = recordWord c 3 ∧ t.pkg.counter = counter ∧ t.pkg.features = BitVec.ofNat 32 (recordWord c 4))) ∧
  (∀ s : State, ∃ t, exec .powerRemoval s = .next t ∧ t.pkg.power = .off ∧ t.pkg.boot.secret = [] ∧ t.threads = [] ∧ t.mem = [] ∧ t.cores = [] ∧ t.ctxs = []) ∧
  (∀ s : State, (s.pkg.power ≠ .waitImage → exec .firmwareRecoveryImage s = .next s) ∧
    (s.pkg.power = .waitImage → (s.ev.flag = true → s.ev.image.sideband = false → exec .firmwareRecoveryImage s = .next { s with outputs := s.outputs ++ [.busy] }) ∧
      (s.ev.flag = false →
        let i := if s.ev.image.sideband then s.ev.image else windowImage s s.ev.k
        (imageOk s.pkg.flash.configRecord i = true → exec .firmwareRecoveryImage s = .next (matins { s with
          pkg := { s.pkg with flash := { s.pkg.flash with firmware := i } }, outputs := s.outputs ++ [.flashWrite i] } { s.pkg.boot with flash := none })) ∧
        (imageOk s.pkg.flash.configRecord i = false → exec .firmwareRecoveryImage s =
          .next (if s.ev.image.sideband then s else { s with pkg := { s.pkg with window := [] } }))))) ∧
  (∀ (s : State) (n : BitVec 256), n = BitVec.ofNat 256 (leNat (s.ev.bytes.take 32)) →
    (s.pkg.power ≠ .ready → exec .attestationRequest s = .next s) ∧
    (s.pkg.power = .ready → (∀ m, s.pkg.signing = some m → exec .attestationRequest s = .next { s with pkg := { s.pkg with queue := s.pkg.queue ++ [n] } }) ∧
      (s.pkg.signing = none → ∃ t rnd, exec .attestationRequest s = .next t ∧ t.pkg = { s.pkg with signing := some n } ∧ t.mem = s.mem ∧
        t.outputs = s.outputs ++ [.attestation (attestReport s.pkg n) (mldsaSign s.pkg.seed rnd (attestReport s.pkg n))])) ∧
    (s.pkg.signing = none → exec .attestationQueuedServe s = .next s) ∧
    (∀ m, s.pkg.signing = some m → (s.pkg.queue = [] → exec .attestationQueuedServe s = .next { s with pkg := { s.pkg with signing := none } }) ∧
      (∀ q r, s.pkg.queue = q :: r → ∃ t rnd, exec .attestationQueuedServe s = .next t ∧ t.pkg.signing = some q ∧ t.pkg.queue = r ∧
        t.outputs = s.outputs ++ [.attestation (attestReport s.pkg q) (mldsaSign s.pkg.seed rnd (attestReport s.pkg q))]))) ∧
  (∀ s : State, ∃ t, exec .powerSample s = .next t ∧ t.mem = s.mem ∧ t.threads = s.threads ∧ ∀ d, d < 4 →
    (t.die d).fraction = (if s.pkg.thermal = .hot then 8 else if s.pkg.pwrlim < s.ev.k then max 8 ((s.die d).fraction - 1)
      else if s.ev.k * 20 ≤ s.pkg.pwrlim * 19 then min 16 ((s.die d).fraction + 1) else (s.die d).fraction) ∧
    (t.die d).thrcyc = (if (s.die d).fraction < 16 then (s.die d).thrcyc + s.ev.word else (s.die d).thrcyc)) ∧
  (∀ s : State,
    let hot := fun (x : Int) => ∃ t ∈ s.ev.readings.temps, x ≤ t
    ∃ t, exec .monitorRefresh s = .next t ∧
      (hot 880 → t.pkg.power = .off ∧ t.pkg.boot.secret = [] ∧ t.mem = [] ∧ t.threads = [] ∧ t.outputs = s.outputs ++ [.trip]) ∧
      (¬hot 880 → t.mem = s.mem ∧ t.pkg.power = s.pkg.power ∧ (∀ c, c < 256 → (t.cluster c).temp = BitVec.ofInt 16 (s.ev.readings.temps.getD c 0)) ∧
        (s.pkg.thermal = .normal → (hot 800 → t.pkg.thermal = .hot ∧ t.outputs = s.outputs ++ [.warning true] ∧ ∀ d, d < 4 → (t.die d).fraction = 8) ∧
          (¬hot 800 → hot 760 → t.pkg.thermal = .warm ∧ t.outputs = s.outputs ++ [.warning true]) ∧ (¬hot 760 → ¬hot 800 → t.pkg.thermal = .normal ∧ t.outputs = s.outputs)) ∧
        (s.pkg.thermal = .warm → (hot 800 → t.pkg.thermal = .hot ∧ t.outputs = s.outputs ∧ ∀ d, d < 4 → (t.die d).fraction = 8) ∧
          (¬hot 800 → ¬hot 736 → t.pkg.thermal = .normal ∧ t.outputs = s.outputs ++ [.warning false]) ∧ (¬hot 800 → hot 736 → t.pkg.thermal = .warm ∧ t.outputs = s.outputs)) ∧
        (s.pkg.thermal = .hot → t.outputs = s.outputs ∧ (hot 776 → t.pkg.thermal = .hot) ∧ (¬hot 776 → t.pkg.thermal = .warm)))) ∧
  (∀ s : State, s.ev.k = 0 → s.pkg.power ≠ .waitImage → (∀ q ∈ s.posted, hostFn q ≠ 0) →
    (0x10000000 ≤ s.ev.n → exec .registerWrite s = .next s) ∧
    (s.ev.n < 0x10000000 → s.ev.m = 8 → s.ev.n % 8 = 0 → exec .registerWrite s =
      .next (if s.ev.flag then { (readReg s s.ev.n).1 with outputs := (readReg s s.ev.n).1.outputs ++ [.hostRead (natBytes 8 (readReg s s.ev.n).2.toNat)] } else regWrite s s.ev.n s.ev.word)) ∧
    (s.ev.n < 0x10000000 → ¬(s.ev.m = 8 ∧ s.ev.n % 8 = 0) → s.ev.flag = false →
      exec .registerWrite s = .next (writeFault s 0 { dev := ownId s, agent := 8, code := 0x11, addr := BitVec.ofNat 64 (regBase + s.ev.n) })) ∧
    (∃ t, readReg s s.ev.n = (t, regRead t s.ev.n) ∧ t.threads = s.threads ∧ t.mem = s.mem ∧ t.pkg = s.pkg ∧ t.ctxs = s.ctxs)) ∧
  (∀ s : State, 0 < s.ev.k → s.ev.k < 64 → s.ev.n = 0 → s.ev.flag = false → s.pkg.power ≠ .waitImage → (∀ q ∈ s.posted, hostFn q ≠ s.ev.k) →
    exec .registerWrite s = .next (doorbellWrite s s.ev.k s.ev.word)) ∧
  (∀ s : State, s.ev.k = 0 → s.pkg.power = .waitImage → (∀ q ∈ s.posted, hostFn q ≠ 0) → s.ev.n + s.ev.m ≤ 0x4000000 →
    (s.ev.flag = true → exec .registerWrite s =
      .next { s with outputs := s.outputs ++ [.hostRead ((List.range s.ev.m).map (fun i => tget s.pkg.window (s.ev.n + i) (0 : Byte)))] }) ∧
    (s.ev.flag = false → s.ev.m = 8 → ∃ t, exec .registerWrite s = .next t ∧ t.mem = s.mem ∧
      ∀ i, i < 8 → tget t.pkg.window (s.ev.n + i) (0 : Byte) = BitVec.ofNat 8 (s.ev.word.toNat / 2 ^ (8 * i)))) ∧
  (∀ (s : State) (w : Walk), s.xlt.walks[s.ev.n]? = some w →
    (walkRuns s s.ev.n w = false → exec .tlbWalkComplete s = .next s) ∧
    (∀ e, walkRuns s s.ev.n w = true → s.xlt.wait = [] → walkTables s w.ctx (w.vpage * 0x10000) = .ok e → ∃ t, exec .tlbWalkComplete s = .next t ∧ t.xlt.walks = s.xlt.walks.eraseIdx s.ev.n ∧ t.mem = s.mem ∧
      (∀ g ∈ w.cores, e ∈ tget t.xlt.micro g []) ∧ (∀ g ∈ w.cores, e ∈ tget t.xlt.cluster (clusterOfCore g) []) ∧ e ∈ tget t.xlt.die w.die []) ∧
    (∀ c, walkRuns s s.ev.n w = true → s.xlt.wait = [] → walkTables s w.ctx (w.vpage * 0x10000) = .error c → ∃ t, exec .tlbWalkComplete s = .next t ∧ t.xlt.walks = s.xlt.walks.eraseIdx s.ev.n ∧
      t.xlt.failed = s.xlt.failed ++ w.tids.map (fun x => (x, w.ctx, w.vpage, c)))) ∧
  (∀ s : State, ∃ t, exec .xltInv s = .next t ∧ t.mem = s.mem ∧
    (let v : Inv := { all := bitOf s.ev.word 63, ctx := bitsOf s.ev.word 53 48, vpage := bitsOf s.ev.word 47 16, walks := s.xlt.walks.length, mark := s.nextId }
     t.xlt.invs = s.xlt.invs ++ [v] ∧ (∀ p ∈ t.xlt.micro, ∀ e ∈ p.2, v.hits e = false) ∧ (∀ p ∈ t.xlt.cluster, ∀ e ∈ p.2, v.hits e = false) ∧
     (∀ p ∈ t.xlt.die, ∀ e ∈ p.2, v.hits e = false))) ∧
  (∀ (s : State) (v : Inv), s.xlt.invs = [v] →
    (v.walks ≠ 0 ∨ s.far.any (fun f => f.under v) = true → exec .xltInvComplete s = .next s) ∧
    (v.walks = 0 → s.far.any (fun f => f.under v) = false → ∃ t, exec .xltInvComplete s = .next t ∧ t.xlt.invs = [] ∧ t.xlt.done = s.xlt.done + 1 ∧
      ∀ p ∈ t.xlt.micro, ∀ e ∈ p.2, v.hits e = false)) ∧
  (∀ s : State, (256 ≤ s.ev.n → exec .spadHash s = .next s ∧ exec .spadGate s = .next s) ∧
    (s.ev.n < 256 →
      let k := s.cluster s.ev.n
      let m : BitVec 6 × BitVec 6 := (BitVec.ofNat 6 (bitsOf s.ev.word 5 0), BitVec.ofNat 6 (bitsOf s.ev.word 13 8))
      (clusterUsed s s.ev.n = true → exec .spadHash s = .next (s.setCluster s.ev.n { k with pend := some m })) ∧
      (clusterUsed s s.ev.n = false → exec .spadHash s = .next (s.setCluster s.ev.n { k with
        m1 := m.1, m2 := m.2, pend := none, epoch := if k.m1 = m.1 ∧ k.m2 = m.2 then k.epoch else k.epoch + 1 })))) ∧
  (∀ s : State, s.ev.n < 256 →
    let k := s.cluster s.ev.n
    let offs := s.ev.word &&& ~~~k.gate
    let wakes := k.gate &&& ~~~s.ev.word &&& k.off
    let inUse := s.launches.any (fun l => l.holds s && (l.inCluster s.ev.n).isSome && l.spu != 0)
    (offs ≠ 0 → inUse = true → exec .spadGate s = .next s) ∧
    (offs = 0 ∨ inUse = false → ∃ t, exec .spadGate s = .next t ∧ (t.cluster s.ev.n).gate = s.ev.word ∧
      (t.cluster s.ev.n).off = (k.off ||| BitVec.ofNat 64 (idleBits 64 (offs &&& ~~~k.wake).toNat (bankQueued s s.ev.n))) &&& ~~~wakes ∧ (t.cluster s.ev.n).wake = k.wake ||| wakes ∧
      (k.epoch = 0 → ∀ o, o < 0x400000 → bitOf wakes (spadBank k o) = true → memGet t.mem (spadKey s s.ev.n o) = 0))) ∧
  (∀ s : State, s.ev.n < 4 →
    let k := s.die s.ev.n
    let x : BitVec 10 := BitVec.ofNat 10 s.ev.word.toNat
    let offs := x &&& ~~~k.gate
    let wakes := k.gate &&& ~~~x &&& k.off
    let inUse := (setBitsOf 10 offs.toNat).any (fun g => segmentUsed s (sramBase + s.ev.n * 0x40000000 + g * 0x4000000))
    (inUse = true → exec .dsramGate s = .next s) ∧
    (inUse = false → ∃ t, exec .dsramGate s = .next t ∧ (t.die s.ev.n).gate = x ∧ 
      (t.die s.ev.n).off = (k.off ||| BitVec.ofNat 10 (idleBits 10 (offs &&& ~~~k.wake).toNat (segmentQueued s s.ev.n))) &&& ~~~wakes ∧
      (t.die s.ev.n).wake = k.wake ||| wakes ∧
      ∀ g o, g < 10 → bitOf wakes g = true → o < 0x4000000 → memGet t.mem (sramBase + s.ev.n * 0x40000000 + g * 0x4000000 + o) = 0)) ∧
  (∀ s : State, s.ev.flag = false → s.replay = [] →
    let k := s.cluster s.ev.n
    let b : Word := BitVec.ofNat 64 (2 ^ (s.ev.k % 64))
    ∃ t, exec .bankWakeComplete s = .next t ∧ t.mem = s.mem ∧ (t.cluster s.ev.n).gate = k.gate ∧ (t.cluster s.ev.n).wake = k.wake &&& ~~~b ∧
      (t.cluster s.ev.n).off = (if k.gate &&& b = 0 then k.off else k.off ||| b)) ∧
  (∀ s : State, s.ev.flag = true → s.replay = [] →
    let k := s.die s.ev.n
    let b : BitVec 10 := BitVec.ofNat 10 (2 ^ (s.ev.k % 10))
    ∃ t, exec .bankWakeComplete s = .next t ∧ t.mem = s.mem ∧ (t.die s.ev.n).gate = k.gate ∧ (t.die s.ev.n).wake = k.wake &&& ~~~b ∧
      (t.die s.ev.n).off = (if k.gate &&& b = 0 then k.off else k.off ||| b))
end

