-- ==== Sys2Proof/Laws/Exec.lean ====
section
/-! SUPPORT. Laws/Exec.lean: which meaning each instruction and event has, one equation a constructor, so that no proof unfolds the whole of
exec. -/
namespace Sys2Proof.Machine

theorem exec_lui (d : Reg) (i : BitVec 20) (s : State) : exec (.lui d i) s = execLui d i s := rfl
theorem exec_auipc (d : Reg) (i : BitVec 20) (s : State) : exec (.auipc d i) s = execAuipc d i s := rfl
theorem exec_jal (d : Reg) (i : BitVec 20) (s : State) : exec (.jal d i) s = execJal d i s := rfl
theorem exec_jalr (d : Reg) (a : Reg) (i : BitVec 12) (s : State) : exec (.jalr d a i) s = execJalr d a i s := rfl
theorem exec_beq (a : Reg) (b : Reg) (i : BitVec 12) (s : State) : exec (.beq a b i) s = execBeq a b i s := rfl
theorem exec_bne (a : Reg) (b : Reg) (i : BitVec 12) (s : State) : exec (.bne a b i) s = execBne a b i s := rfl
theorem exec_blt (a : Reg) (b : Reg) (i : BitVec 12) (s : State) : exec (.blt a b i) s = execBlt a b i s := rfl
theorem exec_bge (a : Reg) (b : Reg) (i : BitVec 12) (s : State) : exec (.bge a b i) s = execBge a b i s := rfl
theorem exec_bltu (a : Reg) (b : Reg) (i : BitVec 12) (s : State) : exec (.bltu a b i) s = execBltu a b i s := rfl
theorem exec_bgeu (a : Reg) (b : Reg) (i : BitVec 12) (s : State) : exec (.bgeu a b i) s = execBgeu a b i s := rfl
theorem exec_lb (d : Reg) (a : Reg) (i : BitVec 12) (s : State) : exec (.lb d a i) s = execLb d a i s := rfl
theorem exec_lh (d : Reg) (a : Reg) (i : BitVec 12) (s : State) : exec (.lh d a i) s = execLh d a i s := rfl
theorem exec_lw (d : Reg) (a : Reg) (i : BitVec 12) (s : State) : exec (.lw d a i) s = execLw d a i s := rfl
theorem exec_ld (d : Reg) (a : Reg) (i : BitVec 12) (s : State) : exec (.ld d a i) s = execLd d a i s := rfl
theorem exec_lbu (d : Reg) (a : Reg) (i : BitVec 12) (s : State) : exec (.lbu d a i) s = execLbu d a i s := rfl
theorem exec_lhu (d : Reg) (a : Reg) (i : BitVec 12) (s : State) : exec (.lhu d a i) s = execLhu d a i s := rfl
theorem exec_lwu (d : Reg) (a : Reg) (i : BitVec 12) (s : State) : exec (.lwu d a i) s = execLwu d a i s := rfl
theorem exec_sb (b : Reg) (a : Reg) (i : BitVec 12) (s : State) : exec (.sb b a i) s = execSb b a i s := rfl
theorem exec_sh (b : Reg) (a : Reg) (i : BitVec 12) (s : State) : exec (.sh b a i) s = execSh b a i s := rfl
theorem exec_sw (b : Reg) (a : Reg) (i : BitVec 12) (s : State) : exec (.sw b a i) s = execSw b a i s := rfl
theorem exec_sd (b : Reg) (a : Reg) (i : BitVec 12) (s : State) : exec (.sd b a i) s = execSd b a i s := rfl
theorem exec_fence (d : Reg) (a : Reg) (m : BitVec 4) (p : BitVec 4) (sl : BitVec 4) (s : State) : exec (.fence d a m p sl) s = execFence d a m p sl s := rfl
theorem exec_fenceTso (d : Reg) (a : Reg) (s : State) : exec (.fenceTso d a) s = execFenceTso d a s := rfl
theorem exec_addi (d : Reg) (a : Reg) (i : BitVec 12) (s : State) : exec (.addi d a i) s = execAddi d a i s := rfl
theorem exec_slti (d : Reg) (a : Reg) (i : BitVec 12) (s : State) : exec (.slti d a i) s = execSlti d a i s := rfl
theorem exec_sltiu (d : Reg) (a : Reg) (i : BitVec 12) (s : State) : exec (.sltiu d a i) s = execSltiu d a i s := rfl
theorem exec_xori (d : Reg) (a : Reg) (i : BitVec 12) (s : State) : exec (.xori d a i) s = execXori d a i s := rfl
theorem exec_ori (d : Reg) (a : Reg) (i : BitVec 12) (s : State) : exec (.ori d a i) s = execOri d a i s := rfl
theorem exec_andi (d : Reg) (a : Reg) (i : BitVec 12) (s : State) : exec (.andi d a i) s = execAndi d a i s := rfl
theorem exec_slli (d : Reg) (a : Reg) (sl : BitVec 6) (s : State) : exec (.slli d a sl) s = execSlli d a sl s := rfl
theorem exec_srli (d : Reg) (a : Reg) (sl : BitVec 6) (s : State) : exec (.srli d a sl) s = execSrli d a sl s := rfl
theorem exec_srai (d : Reg) (a : Reg) (sl : BitVec 6) (s : State) : exec (.srai d a sl) s = execSrai d a sl s := rfl
theorem exec_clz (d : Reg) (a : Reg) (s : State) : exec (.clz d a) s = execClz d a s := rfl
theorem exec_ctz (d : Reg) (a : Reg) (s : State) : exec (.ctz d a) s = execCtz d a s := rfl
theorem exec_cpop (d : Reg) (a : Reg) (s : State) : exec (.cpop d a) s = execCpop d a s := rfl
theorem exec_sextB (d : Reg) (a : Reg) (s : State) : exec (.sextB d a) s = execSextB d a s := rfl
theorem exec_sextH (d : Reg) (a : Reg) (s : State) : exec (.sextH d a) s = execSextH d a s := rfl
theorem exec_rori (d : Reg) (a : Reg) (sl : BitVec 6) (s : State) : exec (.rori d a sl) s = execRori d a sl s := rfl
theorem exec_orcB (d : Reg) (a : Reg) (s : State) : exec (.orcB d a) s = execOrcB d a s := rfl
theorem exec_rev8 (d : Reg) (a : Reg) (s : State) : exec (.rev8 d a) s = execRev8 d a s := rfl
theorem exec_addiw (d : Reg) (a : Reg) (i : BitVec 12) (s : State) : exec (.addiw d a i) s = execAddiw d a i s := rfl
theorem exec_slliw (d : Reg) (a : Reg) (sl : BitVec 5) (s : State) : exec (.slliw d a sl) s = execSlliw d a sl s := rfl
theorem exec_slliUw (d : Reg) (a : Reg) (sl : BitVec 6) (s : State) : exec (.slliUw d a sl) s = execSlliUw d a sl s := rfl
theorem exec_srliw (d : Reg) (a : Reg) (sl : BitVec 5) (s : State) : exec (.srliw d a sl) s = execSrliw d a sl s := rfl
theorem exec_sraiw (d : Reg) (a : Reg) (sl : BitVec 5) (s : State) : exec (.sraiw d a sl) s = execSraiw d a sl s := rfl
theorem exec_roriw (d : Reg) (a : Reg) (sl : BitVec 5) (s : State) : exec (.roriw d a sl) s = execRoriw d a sl s := rfl
theorem exec_clzw (d : Reg) (a : Reg) (s : State) : exec (.clzw d a) s = execClzw d a s := rfl
theorem exec_ctzw (d : Reg) (a : Reg) (s : State) : exec (.ctzw d a) s = execCtzw d a s := rfl
theorem exec_cpopw (d : Reg) (a : Reg) (s : State) : exec (.cpopw d a) s = execCpopw d a s := rfl
theorem exec_add (d : Reg) (a : Reg) (b : Reg) (s : State) : exec (.add d a b) s = execAdd d a b s := rfl
theorem exec_sll (d : Reg) (a : Reg) (b : Reg) (s : State) : exec (.sll d a b) s = execSll d a b s := rfl
theorem exec_slt (d : Reg) (a : Reg) (b : Reg) (s : State) : exec (.slt d a b) s = execSlt d a b s := rfl
theorem exec_sltu (d : Reg) (a : Reg) (b : Reg) (s : State) : exec (.sltu d a b) s = execSltu d a b s := rfl
theorem exec_xor (d : Reg) (a : Reg) (b : Reg) (s : State) : exec (.xor d a b) s = execXor d a b s := rfl
theorem exec_srl (d : Reg) (a : Reg) (b : Reg) (s : State) : exec (.srl d a b) s = execSrl d a b s := rfl
theorem exec_or (d : Reg) (a : Reg) (b : Reg) (s : State) : exec (.or d a b) s = execOr d a b s := rfl
theorem exec_and (d : Reg) (a : Reg) (b : Reg) (s : State) : exec (.and d a b) s = execAnd d a b s := rfl
theorem exec_sub (d : Reg) (a : Reg) (b : Reg) (s : State) : exec (.sub d a b) s = execSub d a b s := rfl
theorem exec_sra (d : Reg) (a : Reg) (b : Reg) (s : State) : exec (.sra d a b) s = execSra d a b s := rfl
theorem exec_andn (d : Reg) (a : Reg) (b : Reg) (s : State) : exec (.andn d a b) s = execAndn d a b s := rfl
theorem exec_orn (d : Reg) (a : Reg) (b : Reg) (s : State) : exec (.orn d a b) s = execOrn d a b s := rfl
theorem exec_xnor (d : Reg) (a : Reg) (b : Reg) (s : State) : exec (.xnor d a b) s = execXnor d a b s := rfl
theorem exec_mul (d : Reg) (a : Reg) (b : Reg) (s : State) : exec (.mul d a b) s = execMul d a b s := rfl
theorem exec_mulh (d : Reg) (a : Reg) (b : Reg) (s : State) : exec (.mulh d a b) s = execMulh d a b s := rfl
theorem exec_mulhsu (d : Reg) (a : Reg) (b : Reg) (s : State) : exec (.mulhsu d a b) s = execMulhsu d a b s := rfl
theorem exec_mulhu (d : Reg) (a : Reg) (b : Reg) (s : State) : exec (.mulhu d a b) s = execMulhu d a b s := rfl
theorem exec_div (d : Reg) (a : Reg) (b : Reg) (s : State) : exec (.div d a b) s = execDiv d a b s := rfl
theorem exec_divu (d : Reg) (a : Reg) (b : Reg) (s : State) : exec (.divu d a b) s = execDivu d a b s := rfl
theorem exec_rem (d : Reg) (a : Reg) (b : Reg) (s : State) : exec (.rem d a b) s = execRem d a b s := rfl
theorem exec_remu (d : Reg) (a : Reg) (b : Reg) (s : State) : exec (.remu d a b) s = execRemu d a b s := rfl
theorem exec_sh1add (d : Reg) (a : Reg) (b : Reg) (s : State) : exec (.sh1add d a b) s = execSh1add d a b s := rfl
theorem exec_sh2add (d : Reg) (a : Reg) (b : Reg) (s : State) : exec (.sh2add d a b) s = execSh2add d a b s := rfl
theorem exec_sh3add (d : Reg) (a : Reg) (b : Reg) (s : State) : exec (.sh3add d a b) s = execSh3add d a b s := rfl
theorem exec_min (d : Reg) (a : Reg) (b : Reg) (s : State) : exec (.min d a b) s = execMin d a b s := rfl
theorem exec_minu (d : Reg) (a : Reg) (b : Reg) (s : State) : exec (.minu d a b) s = execMinu d a b s := rfl
theorem exec_max (d : Reg) (a : Reg) (b : Reg) (s : State) : exec (.max d a b) s = execMax d a b s := rfl
theorem exec_maxu (d : Reg) (a : Reg) (b : Reg) (s : State) : exec (.maxu d a b) s = execMaxu d a b s := rfl
theorem exec_rol (d : Reg) (a : Reg) (b : Reg) (s : State) : exec (.rol d a b) s = execRol d a b s := rfl
theorem exec_ror (d : Reg) (a : Reg) (b : Reg) (s : State) : exec (.ror d a b) s = execRor d a b s := rfl
theorem exec_addw (d : Reg) (a : Reg) (b : Reg) (s : State) : exec (.addw d a b) s = execAddw d a b s := rfl
theorem exec_sllw (d : Reg) (a : Reg) (b : Reg) (s : State) : exec (.sllw d a b) s = execSllw d a b s := rfl
theorem exec_srlw (d : Reg) (a : Reg) (b : Reg) (s : State) : exec (.srlw d a b) s = execSrlw d a b s := rfl
theorem exec_subw (d : Reg) (a : Reg) (b : Reg) (s : State) : exec (.subw d a b) s = execSubw d a b s := rfl
theorem exec_sraw (d : Reg) (a : Reg) (b : Reg) (s : State) : exec (.sraw d a b) s = execSraw d a b s := rfl
theorem exec_mulw (d : Reg) (a : Reg) (b : Reg) (s : State) : exec (.mulw d a b) s = execMulw d a b s := rfl
theorem exec_divw (d : Reg) (a : Reg) (b : Reg) (s : State) : exec (.divw d a b) s = execDivw d a b s := rfl
theorem exec_divuw (d : Reg) (a : Reg) (b : Reg) (s : State) : exec (.divuw d a b) s = execDivuw d a b s := rfl
theorem exec_remw (d : Reg) (a : Reg) (b : Reg) (s : State) : exec (.remw d a b) s = execRemw d a b s := rfl
theorem exec_remuw (d : Reg) (a : Reg) (b : Reg) (s : State) : exec (.remuw d a b) s = execRemuw d a b s := rfl
theorem exec_addUw (d : Reg) (a : Reg) (b : Reg) (s : State) : exec (.addUw d a b) s = execAddUw d a b s := rfl
theorem exec_zextH (d : Reg) (a : Reg) (s : State) : exec (.zextH d a) s = execZextH d a s := rfl
theorem exec_sh1addUw (d : Reg) (a : Reg) (b : Reg) (s : State) : exec (.sh1addUw d a b) s = execSh1addUw d a b s := rfl
theorem exec_sh2addUw (d : Reg) (a : Reg) (b : Reg) (s : State) : exec (.sh2addUw d a b) s = execSh2addUw d a b s := rfl
theorem exec_sh3addUw (d : Reg) (a : Reg) (b : Reg) (s : State) : exec (.sh3addUw d a b) s = execSh3addUw d a b s := rfl
theorem exec_rolw (d : Reg) (a : Reg) (b : Reg) (s : State) : exec (.rolw d a b) s = execRolw d a b s := rfl
theorem exec_rorw (d : Reg) (a : Reg) (b : Reg) (s : State) : exec (.rorw d a b) s = execRorw d a b s := rfl
theorem exec_amoaddW (d : Reg) (a : Reg) (b : Reg) (q : BitVec 1) (l : BitVec 1) (s : State) : exec (.amoaddW d a b q l) s = execAmoaddW d a b q l s := rfl
theorem exec_amoaddD (d : Reg) (a : Reg) (b : Reg) (q : BitVec 1) (l : BitVec 1) (s : State) : exec (.amoaddD d a b q l) s = execAmoaddD d a b q l s := rfl
theorem exec_amoswapW (d : Reg) (a : Reg) (b : Reg) (q : BitVec 1) (l : BitVec 1) (s : State) : exec (.amoswapW d a b q l) s = execAmoswapW d a b q l s := rfl
theorem exec_amoswapD (d : Reg) (a : Reg) (b : Reg) (q : BitVec 1) (l : BitVec 1) (s : State) : exec (.amoswapD d a b q l) s = execAmoswapD d a b q l s := rfl
theorem exec_amoxorW (d : Reg) (a : Reg) (b : Reg) (q : BitVec 1) (l : BitVec 1) (s : State) : exec (.amoxorW d a b q l) s = execAmoxorW d a b q l s := rfl
theorem exec_amoxorD (d : Reg) (a : Reg) (b : Reg) (q : BitVec 1) (l : BitVec 1) (s : State) : exec (.amoxorD d a b q l) s = execAmoxorD d a b q l s := rfl
theorem exec_amoorW (d : Reg) (a : Reg) (b : Reg) (q : BitVec 1) (l : BitVec 1) (s : State) : exec (.amoorW d a b q l) s = execAmoorW d a b q l s := rfl
theorem exec_amoorD (d : Reg) (a : Reg) (b : Reg) (q : BitVec 1) (l : BitVec 1) (s : State) : exec (.amoorD d a b q l) s = execAmoorD d a b q l s := rfl
theorem exec_amoandW (d : Reg) (a : Reg) (b : Reg) (q : BitVec 1) (l : BitVec 1) (s : State) : exec (.amoandW d a b q l) s = execAmoandW d a b q l s := rfl
theorem exec_amoandD (d : Reg) (a : Reg) (b : Reg) (q : BitVec 1) (l : BitVec 1) (s : State) : exec (.amoandD d a b q l) s = execAmoandD d a b q l s := rfl
theorem exec_amominW (d : Reg) (a : Reg) (b : Reg) (q : BitVec 1) (l : BitVec 1) (s : State) : exec (.amominW d a b q l) s = execAmominW d a b q l s := rfl
theorem exec_amominD (d : Reg) (a : Reg) (b : Reg) (q : BitVec 1) (l : BitVec 1) (s : State) : exec (.amominD d a b q l) s = execAmominD d a b q l s := rfl
theorem exec_amomaxW (d : Reg) (a : Reg) (b : Reg) (q : BitVec 1) (l : BitVec 1) (s : State) : exec (.amomaxW d a b q l) s = execAmomaxW d a b q l s := rfl
theorem exec_amomaxD (d : Reg) (a : Reg) (b : Reg) (q : BitVec 1) (l : BitVec 1) (s : State) : exec (.amomaxD d a b q l) s = execAmomaxD d a b q l s := rfl
theorem exec_amominuW (d : Reg) (a : Reg) (b : Reg) (q : BitVec 1) (l : BitVec 1) (s : State) : exec (.amominuW d a b q l) s = execAmominuW d a b q l s := rfl
theorem exec_amominuD (d : Reg) (a : Reg) (b : Reg) (q : BitVec 1) (l : BitVec 1) (s : State) : exec (.amominuD d a b q l) s = execAmominuD d a b q l s := rfl
theorem exec_amomaxuW (d : Reg) (a : Reg) (b : Reg) (q : BitVec 1) (l : BitVec 1) (s : State) : exec (.amomaxuW d a b q l) s = execAmomaxuW d a b q l s := rfl
theorem exec_amomaxuD (d : Reg) (a : Reg) (b : Reg) (q : BitVec 1) (l : BitVec 1) (s : State) : exec (.amomaxuD d a b q l) s = execAmomaxuD d a b q l s := rfl
theorem exec_csrrw (d : Reg) (a : Reg) (c : BitVec 12) (s : State) : exec (.csrrw d a c) s = execCsrrw d a c s := rfl
theorem exec_csrrs (d : Reg) (a : Reg) (c : BitVec 12) (s : State) : exec (.csrrs d a c) s = execCsrrs d a c s := rfl
theorem exec_csrrc (d : Reg) (a : Reg) (c : BitVec 12) (s : State) : exec (.csrrc d a c) s = execCsrrc d a c s := rfl
theorem exec_csrrwi (d : Reg) (c : BitVec 12) (u : BitVec 5) (s : State) : exec (.csrrwi d c u) s = execCsrrwi d c u s := rfl
theorem exec_csrrsi (d : Reg) (c : BitVec 12) (u : BitVec 5) (s : State) : exec (.csrrsi d c u) s = execCsrrsi d c u s := rfl
theorem exec_csrrci (d : Reg) (c : BitVec 12) (u : BitVec 5) (s : State) : exec (.csrrci d c u) s = execCsrrci d c u s := rfl
theorem exec_vl (d : Reg) (a : Reg) (i : BitVec 12) (s : State) : exec (.vl d a i) s = execVl d a i s := rfl
theorem exec_vlTr (d : Reg) (a : Reg) (z : BitVec 2) (sl : BitVec 10) (s : State) : exec (.vlTr d a z sl) s = execVlTr d a z sl s := rfl
theorem exec_vs (b : Reg) (a : Reg) (i : BitVec 12) (s : State) : exec (.vs b a i) s = execVs b a i s := rfl
theorem exec_vadd (d : Reg) (a : Reg) (b : Reg) (t : BitVec 3) (s : State) : exec (.vadd d a b t) s = execVadd d a b t s := rfl
theorem exec_vsub (d : Reg) (a : Reg) (b : Reg) (t : BitVec 3) (s : State) : exec (.vsub d a b t) s = execVsub d a b t s := rfl
theorem exec_vmul (d : Reg) (a : Reg) (b : Reg) (t : BitVec 3) (s : State) : exec (.vmul d a b t) s = execVmul d a b t s := rfl
theorem exec_vmulh (d : Reg) (a : Reg) (b : Reg) (u : BitVec 1) (t : BitVec 3) (s : State) : exec (.vmulh d a b u t) s = execVmulh d a b u t s := rfl
theorem exec_vmac (d : Reg) (a : Reg) (b : Reg) (u : BitVec 1) (t : BitVec 3) (s : State) : exec (.vmac d a b u t) s = execVmac d a b u t s := rfl
theorem exec_vmin (d : Reg) (a : Reg) (b : Reg) (u : BitVec 1) (t : BitVec 3) (s : State) : exec (.vmin d a b u t) s = execVmin d a b u t s := rfl
theorem exec_vmax (d : Reg) (a : Reg) (b : Reg) (u : BitVec 1) (t : BitVec 3) (s : State) : exec (.vmax d a b u t) s = execVmax d a b u t s := rfl
theorem exec_vabs (d : Reg) (a : Reg) (t : BitVec 3) (s : State) : exec (.vabs d a t) s = execVabs d a t s := rfl
theorem exec_vand (d : Reg) (a : Reg) (b : Reg) (s : State) : exec (.vand d a b) s = execVand d a b s := rfl
theorem exec_vor (d : Reg) (a : Reg) (b : Reg) (s : State) : exec (.vor d a b) s = execVor d a b s := rfl
theorem exec_vxor (d : Reg) (a : Reg) (b : Reg) (s : State) : exec (.vxor d a b) s = execVxor d a b s := rfl
theorem exec_vsll (d : Reg) (a : Reg) (b : Reg) (t : BitVec 3) (s : State) : exec (.vsll d a b t) s = execVsll d a b t s := rfl
theorem exec_vsrl (d : Reg) (a : Reg) (b : Reg) (t : BitVec 3) (s : State) : exec (.vsrl d a b t) s = execVsrl d a b t s := rfl
theorem exec_vsra (d : Reg) (a : Reg) (b : Reg) (t : BitVec 3) (s : State) : exec (.vsra d a b t) s = execVsra d a b t s := rfl
theorem exec_vcmpEq (d : Reg) (a : Reg) (b : Reg) (t : BitVec 3) (s : State) : exec (.vcmpEq d a b t) s = execVcmpEq d a b t s := rfl
theorem exec_vcmpNe (d : Reg) (a : Reg) (b : Reg) (t : BitVec 3) (s : State) : exec (.vcmpNe d a b t) s = execVcmpNe d a b t s := rfl
theorem exec_vcmpLt (d : Reg) (a : Reg) (b : Reg) (u : BitVec 1) (t : BitVec 3) (s : State) : exec (.vcmpLt d a b u t) s = execVcmpLt d a b u t s := rfl
theorem exec_vcmpLe (d : Reg) (a : Reg) (b : Reg) (u : BitVec 1) (t : BitVec 3) (s : State) : exec (.vcmpLe d a b u t) s = execVcmpLe d a b u t s := rfl
theorem exec_vfadd (d : Reg) (a : Reg) (b : Reg) (t : BitVec 3) (s : State) : exec (.vfadd d a b t) s = execVfadd d a b t s := rfl
theorem exec_vfsub (d : Reg) (a : Reg) (b : Reg) (t : BitVec 3) (s : State) : exec (.vfsub d a b t) s = execVfsub d a b t s := rfl
theorem exec_vfmul (d : Reg) (a : Reg) (b : Reg) (t : BitVec 3) (s : State) : exec (.vfmul d a b t) s = execVfmul d a b t s := rfl
theorem exec_vfma (d : Reg) (a : Reg) (b : Reg) (t : BitVec 3) (s : State) : exec (.vfma d a b t) s = execVfma d a b t s := rfl
theorem exec_vfmin (d : Reg) (a : Reg) (b : Reg) (t : BitVec 3) (s : State) : exec (.vfmin d a b t) s = execVfmin d a b t s := rfl
theorem exec_vfmax (d : Reg) (a : Reg) (b : Reg) (t : BitVec 3) (s : State) : exec (.vfmax d a b t) s = execVfmax d a b t s := rfl
theorem exec_vdot (d : Reg) (a : Reg) (b : Reg) (u : BitVec 1) (t : BitVec 3) (s : State) : exec (.vdot d a b u t) s = execVdot d a b u t s := rfl
theorem exec_vredsum (d : Reg) (a : Reg) (u : BitVec 1) (t : BitVec 3) (s : State) : exec (.vredsum d a u t) s = execVredsum d a u t s := rfl
theorem exec_vredmax (d : Reg) (a : Reg) (u : BitVec 1) (t : BitVec 3) (s : State) : exec (.vredmax d a u t) s = execVredmax d a u t s := rfl
theorem exec_vredmin (d : Reg) (a : Reg) (u : BitVec 1) (t : BitVec 3) (s : State) : exec (.vredmin d a u t) s = execVredmin d a u t s := rfl
theorem exec_vrcp (d : Reg) (a : Reg) (t : BitVec 3) (s : State) : exec (.vrcp d a t) s = execVrcp d a t s := rfl
theorem exec_vrsqrt (d : Reg) (a : Reg) (t : BitVec 3) (s : State) : exec (.vrsqrt d a t) s = execVrsqrt d a t s := rfl
theorem exec_vexp2 (d : Reg) (a : Reg) (t : BitVec 3) (s : State) : exec (.vexp2 d a t) s = execVexp2 d a t s := rfl
theorem exec_vlog2 (d : Reg) (a : Reg) (t : BitVec 3) (s : State) : exec (.vlog2 d a t) s = execVlog2 d a t s := rfl
theorem exec_vtanh (d : Reg) (a : Reg) (t : BitVec 3) (s : State) : exec (.vtanh d a t) s = execVtanh d a t s := rfl
theorem exec_verf (d : Reg) (a : Reg) (t : BitVec 3) (s : State) : exec (.verf d a t) s = execVerf d a t s := rfl
theorem exec_vperm (d : Reg) (a : Reg) (b : Reg) (t : BitVec 3) (s : State) : exec (.vperm d a b t) s = execVperm d a b t s := rfl
theorem exec_vzip (d : Reg) (a : Reg) (b : Reg) (t : BitVec 3) (s : State) : exec (.vzip d a b t) s = execVzip d a b t s := rfl
theorem exec_vunzip (d : Reg) (a : Reg) (b : Reg) (t : BitVec 3) (s : State) : exec (.vunzip d a b t) s = execVunzip d a b t s := rfl
theorem exec_vbcast (d : Reg) (a : Reg) (t : BitVec 3) (s : State) : exec (.vbcast d a t) s = execVbcast d a t s := rfl
theorem exec_vext (d : Reg) (a : Reg) (i : BitVec 5) (t : BitVec 3) (s : State) : exec (.vext d a i t) s = execVext d a i t s := rfl
theorem exec_vins (d : Reg) (a : Reg) (i : BitVec 5) (t : BitVec 3) (s : State) : exec (.vins d a i t) s = execVins d a i t s := rfl
theorem exec_vmv (d : Reg) (a : Reg) (s : State) : exec (.vmv d a) s = execVmv d a s := rfl
theorem exec_vmxEnc (d : Reg) (a : Reg) (sl : BitVec 1) (e : BitVec 5) (t : BitVec 3) (s : State) : exec (.vmxEnc d a sl e t) s = execVmxEnc d a sl e t s := rfl
theorem exec_vmxDec (d : Reg) (a : Reg) (e : BitVec 5) (t : BitVec 3) (s : State) : exec (.vmxDec d a e t) s = execVmxDec d a e t s := rfl
theorem exec_vsel (d : Reg) (a : Reg) (b : Reg) (c : BitVec 5) (t : BitVec 3) (s : State) : exec (.vsel d a b c t) s = execVsel d a b c t s := rfl
theorem exec_vcvt (d : Reg) (a : Reg) (t : BitVec 5) (sl : BitVec 1) (u : BitVec 5) (m : BitVec 3) (s : State) : exec (.vcvt d a t sl u m) s = execVcvt d a t sl u m s := rfl
theorem exec_vtabEnc (d : Reg) (a : Reg) (sl : BitVec 1) (u : BitVec 5) (s : State) : exec (.vtabEnc d a sl u) s = execVtabEnc d a sl u s := rfl
theorem exec_vtabDec (d : Reg) (a : Reg) (t : BitVec 5) (s : State) : exec (.vtabDec d a t) s = execVtabDec d a t s := rfl
theorem exec_ldAcq (d : Reg) (a : Reg) (s : State) : exec (.ldAcq d a) s = execLdAcq d a s := rfl
theorem exec_sdRel (a : Reg) (b : Reg) (s : State) : exec (.sdRel a b) s = execSdRel a b s := rfl
theorem exec_amoScSwap (d : Reg) (a : Reg) (b : Reg) (w : BitVec 1) (s : State) : exec (.amoScSwap d a b w) s = execAmoScSwap d a b w s := rfl
theorem exec_amoScAdd (d : Reg) (a : Reg) (b : Reg) (w : BitVec 1) (s : State) : exec (.amoScAdd d a b w) s = execAmoScAdd d a b w s := rfl
theorem exec_amoScMin (d : Reg) (a : Reg) (b : Reg) (u : BitVec 1) (w : BitVec 1) (s : State) : exec (.amoScMin d a b u w) s = execAmoScMin d a b u w s := rfl
theorem exec_amoScMax (d : Reg) (a : Reg) (b : Reg) (u : BitVec 1) (w : BitVec 1) (s : State) : exec (.amoScMax d a b u w) s = execAmoScMax d a b u w s := rfl
theorem exec_amoScCas (d : Reg) (a : Reg) (b : Reg) (w : BitVec 1) (s : State) : exec (.amoScCas d a b w) s = execAmoScCas d a b w s := rfl
theorem exec_fenceS (d : Reg) (sl : BitVec 3) (k : BitVec 2) (s : State) : exec (.fenceS d sl k) s = execFenceS d sl k s := rfl
theorem exec_depJoin (d : Reg) (a : Reg) (v : BitVec 1) (w : BitVec 1) (s : State) : exec (.depJoin d a v w) s = execDepJoin d a v w s := rfl
theorem exec_depClr (d : Reg) (a : Reg) (v : BitVec 1) (s : State) : exec (.depClr d a v) s = execDepClr d a v s := rfl
theorem exec_depWait (a : Reg) (w : BitVec 1) (s : State) : exec (.depWait a w) s = execDepWait a w s := rfl
theorem exec_waitAddr (d : Reg) (a : Reg) (b : Reg) (o : BitVec 7) (s : State) : exec (.waitAddr d a b o) s = execWaitAddr d a b o s := rfl
theorem exec_barInit (a : Reg) (b : Reg) (s : State) : exec (.barInit a b) s = execBarInit a b s := rfl
theorem exec_barArrive (a : Reg) (s : State) : exec (.barArrive a) s = execBarArrive a s := rfl
theorem exec_barWait (a : Reg) (s : State) : exec (.barWait a) s = execBarWait a s := rfl
theorem exec_waitAny (d : Reg) (a : Reg) (b : Reg) (s : State) : exec (.waitAny d a b) s = execWaitAny d a b s := rfl
theorem exec_rdFwd (d : Reg) (a : Reg) (b : Reg) (s : State) : exec (.rdFwd d a b) s = execRdFwd d a b s := rfl
theorem exec_rdCast (d : Reg) (a : Reg) (b : Reg) (s : State) : exec (.rdCast d a b) s = execRdCast d a b s := rfl
theorem exec_peerErr (d : Reg) (a : Reg) (s : State) : exec (.peerErr d a) s = execPeerErr d a s := rfl
theorem exec_peerId (d : Reg) (a : Reg) (s : State) : exec (.peerId d a) s = execPeerId d a s := rfl
theorem exec_peerClr (a : Reg) (s : State) : exec (.peerClr a) s = execPeerClr a s := rfl
theorem exec_tsGet (d : Reg) (s : State) : exec (.tsGet d) s = execTsGet d s := rfl
theorem exec_widGet (d : Reg) (s : State) : exec (.widGet d) s = execWidGet d s := rfl
theorem exec_nodeCh (d : Reg) (a : Reg) (b : Reg) (s : State) : exec (.nodeCh d a b) s = execNodeCh d a b s := rfl
theorem exec_callAt (a : Reg) (b : Reg) (s : State) : exec (.callAt a b) s = execCallAt a b s := rfl
theorem exec_msgWait (a : Reg) (b : Reg) (s : State) : exec (.msgWait a b) s = execMsgWait a b s := rfl
theorem exec_taskPush (a : Reg) (s : State) : exec (.taskPush a) s = execTaskPush a s := rfl
theorem exec_taskPop (d : Reg) (s : State) : exec (.taskPop d) s = execTaskPop d s := rfl
theorem exec_taskSplit (d : Reg) (a : Reg) (s : State) : exec (.taskSplit d a) s = execTaskSplit d a s := rfl
theorem exec_taskSteal (d : Reg) (a : Reg) (s : State) : exec (.taskSteal d a) s = execTaskSteal d a s := rfl
theorem exec_taskCnt (d : Reg) (s : State) : exec (.taskCnt d) s = execTaskCnt d s := rfl
theorem exec_follow (a : Reg) (s : State) : exec (.follow a) s = execFollow a s := rfl
theorem exec_engPush (a : Reg) (s : State) : exec (.engPush a) s = execEngPush a s := rfl
theorem exec_engQfence (i : BitVec 5) (s : State) : exec (.engQfence i) s = execEngQfence i s := rfl
theorem exec_engWait (i : BitVec 5) (s : State) : exec (.engWait i) s = execEngWait i s := rfl
theorem exec_engStat (d : Reg) (i : BitVec 5) (s : State) : exec (.engStat d i) s = execEngStat d i s := rfl
theorem exec_engSave (a : Reg) (s : State) : exec (.engSave a) s = execEngSave a s := rfl
theorem exec_engResume (a : Reg) (s : State) : exec (.engResume a) s = execEngResume a s := rfl
theorem exec_accTake (i : BitVec 5) (s : State) : exec (.accTake i) s = execAccTake i s := rfl
theorem exec_accGive (i : BitVec 5) (s : State) : exec (.accGive i) s = execAccGive i s := rfl
theorem exec_shpLd (a : Reg) (i : BitVec 5) (s : State) : exec (.shpLd a i) s = execShpLd a i s := rfl
theorem exec_shpSt (a : Reg) (i : BitVec 5) (s : State) : exec (.shpSt a i) s = execShpSt a i s := rfl
theorem exec_shpEvict (i : BitVec 5) (s : State) : exec (.shpEvict i) s = execShpEvict i s := rfl
theorem exec_tblLd (a : Reg) (s : State) : exec (.tblLd a) s = execTblLd a s := rfl
theorem exec_vaccLd (d : Reg) (a : Reg) (s : State) : exec (.vaccLd d a) s = execVaccLd d a s := rfl
theorem exec_vaccSt (a : Reg) (b : Reg) (s : State) : exec (.vaccSt a b) s = execVaccSt a b s := rfl
theorem exec_rkCfg (a : Reg) (s : State) : exec (.rkCfg a) s = execRkCfg a s := rfl
theorem exec_rkSend (a : Reg) (b : Reg) (s : State) : exec (.rkSend a b) s = execRkSend a b s := rfl
theorem exec_rkFold (sl : BitVec 3) (s : State) : exec (.rkFold sl) s = execRkFold sl s := rfl
theorem exec_rkStat (d : Reg) (sl : BitVec 3) (s : State) : exec (.rkStat d sl) s = execRkStat d sl s := rfl
theorem exec_rkDrain (sl : BitVec 3) (s : State) : exec (.rkDrain sl) s = execRkDrain sl s := rfl
theorem exec_rkGrad (a : Reg) (b : Reg) (sl : BitVec 3) (s : State) : exec (.rkGrad a b sl) s = execRkGrad a b sl s := rfl
theorem exec_rkWgrad (a : Reg) (b : Reg) (sl : BitVec 3) (s : State) : exec (.rkWgrad a b sl) s = execRkWgrad a b sl s := rfl
theorem exec_waveCfg (a : Reg) (sl : BitVec 3) (s : State) : exec (.waveCfg a sl) s = execWaveCfg a sl s := rfl
theorem exec_waveCloseInstr (sl : BitVec 3) (s : State) : exec (.waveCloseInstr sl) s = execWaveCloseInstr sl s := rfl
theorem exec_waveWait (sl : BitVec 3) (s : State) : exec (.waveWait sl) s = execWaveWait sl s := rfl
theorem exec_trCfg (a : Reg) (s : State) : exec (.trCfg a) s = execTrCfg a s := rfl
theorem exec_trDesc (a : Reg) (s : State) : exec (.trDesc a) s = execTrDesc a s := rfl
theorem exec_trPath (d : Reg) (a : Reg) (s : State) : exec (.trPath d a) s = execTrPath d a s := rfl
theorem exec_trBwd (d : Reg) (a : Reg) (b : Reg) (s : State) : exec (.trBwd d a b) s = execTrBwd d a b s := rfl
theorem exec_collGo (a : Reg) (s : State) : exec (.collGo a) s = execCollGo a s := rfl
theorem exec_collWait (a : Reg) (s : State) : exec (.collWait a) s = execCollWait a s := rfl
theorem exec_collStat (d : Reg) (a : Reg) (s : State) : exec (.collStat d a) s = execCollStat d a s := rfl
theorem exec_strmCfg (a : Reg) (u : BitVec 2) (s : State) : exec (.strmCfg a u) s = execStrmCfg a u s := rfl
theorem exec_frep (a : Reg) (l : BitVec 4) (m : BitVec 4) (n : BitVec 4) (s : State) : exec (.frep a l m n) s = execFrep a l m n s := rfl
theorem exec_strmBind (u : BitVec 2) (s : State) : exec (.strmBind u) s = execStrmBind u s := rfl
theorem exec_strmEnd (u : BitVec 2) (s : State) : exec (.strmEnd u) s = execStrmEnd u s := rfl
theorem exec_ctxSave (a : Reg) (s : State) : exec (.ctxSave a) s = execCtxSave a s := rfl
theorem exec_ctxLoad (d : Reg) (a : Reg) (s : State) : exec (.ctxLoad d a) s = execCtxLoad d a s := rfl
theorem exec_sleep (a : Reg) (s : State) : exec (.sleep a) s = execSleep a s := rfl
theorem exec_dbgMark (a : Reg) (s : State) : exec (.dbgMark a) s = execDbgMark a s := rfl
theorem exec_compressedInstruction (p : BitVec 16) (s : State) : exec (.compressedInstruction p) s = execCompressedInstruction p s := rfl
theorem exec_ecall (s : State) : exec .ecall s = execEcall s := rfl
theorem exec_ebreak (s : State) : exec .ebreak s = execEbreak s := rfl
theorem exec_suspend (s : State) : exec .suspend s = execSuspend s := rfl
theorem exec_yield (s : State) : exec .yield s = execYield s := rfl
theorem exec_exit (s : State) : exec .exit s = execExit s := rfl
theorem exec_followEnd (s : State) : exec .followEnd s = execFollowEnd s := rfl
theorem exec_rkEnc (s : State) : exec .rkEnc s = execRkEnc s := rfl
theorem exec_trapRet (s : State) : exec .trapRet s = execTrapRet s := rfl
theorem exec_icacheInv (s : State) : exec .icacheInv s = execIcacheInv s := rfl
theorem exec_dbgStop (s : State) : exec .dbgStop s = execDbgStop s := rfl
theorem exec_matins (s : State) : exec .matins s = execMatins s := rfl
theorem exec_firmwareRecoveryImage (s : State) : exec .firmwareRecoveryImage s = execFirmwareRecoveryImage s := rfl
theorem exec_attestationRequest (s : State) : exec .attestationRequest s = execAttestationRequest s := rfl
theorem exec_attestationQueuedServe (s : State) : exec .attestationQueuedServe s = execAttestationQueuedServe s := rfl
theorem exec_powerSample (s : State) : exec .powerSample s = execPowerSample s := rfl
theorem exec_monitorRefresh (s : State) : exec .monitorRefresh s = execMonitorRefresh s := rfl
theorem exec_mdroopRead (s : State) : exec .mdroopRead s = execMdroopRead s := rfl
theorem exec_registerWrite (s : State) : exec .registerWrite s = execRegisterWrite s := rfl
theorem exec_flitBoundary (s : State) : exec .flitBoundary s = execFlitBoundary s := rfl
theorem exec_packetReceive (s : State) : exec .packetReceive s = execPacketReceive s := rfl
theorem exec_flitCrcError (s : State) : exec .flitCrcError s = execFlitCrcError s := rfl
theorem exec_allowanceReturn (s : State) : exec .allowanceReturn s = execAllowanceReturn s := rfl
theorem exec_allowanceReturnSend (s : State) : exec .allowanceReturnSend s = execAllowanceReturnSend s := rfl
theorem exec_allowanceReturnTimeout (s : State) : exec .allowanceReturnTimeout s = execAllowanceReturnTimeout s := rfl
theorem exec_stripeChange (s : State) : exec .stripeChange s = execStripeChange s := rfl
theorem exec_replayRequest (s : State) : exec .replayRequest s = execReplayRequest s := rfl
theorem exec_acknowledge (s : State) : exec .acknowledge s = execAcknowledge s := rfl
theorem exec_modeChange (s : State) : exec .modeChange s = execModeChange s := rfl
theorem exec_identity (s : State) : exec .identity s = execIdentity s := rfl
theorem exec_unknownControlFlit (s : State) : exec .unknownControlFlit s = execUnknownControlFlit s := rfl
theorem exec_laneMarginFailure (s : State) : exec .laneMarginFailure s = execLaneMarginFailure s := rfl
theorem exec_trainingComplete (s : State) : exec .trainingComplete s = execTrainingComplete s := rfl
theorem exec_trainingFail (s : State) : exec .trainingFail s = execTrainingFail s := rfl
theorem exec_retrainComplete (s : State) : exec .retrainComplete s = execRetrainComplete s := rfl
theorem exec_retrainFail (s : State) : exec .retrainFail s = execRetrainFail s := rfl
theorem exec_signalLost (s : State) : exec .signalLost s = execSignalLost s := rfl
theorem exec_announceDarkEnter (s : State) : exec .announceDarkEnter s = execAnnounceDarkEnter s := rfl
theorem exec_signalReturn (s : State) : exec .signalReturn s = execSignalReturn s := rfl
theorem exec_darkTimerExpiry (s : State) : exec .darkTimerExpiry s = execDarkTimerExpiry s := rfl
theorem exec_relockComplete (s : State) : exec .relockComplete s = execRelockComplete s := rfl
theorem exec_relockFail (s : State) : exec .relockFail s = execRelockFail s := rfl
theorem exec_lnkCmdPark (s : State) : exec .lnkCmdPark s = execLnkCmdPark s := rfl
theorem exec_lnkCmdWake (s : State) : exec .lnkCmdWake s = execLnkCmdWake s := rfl
theorem exec_lnkCmdRetrainPam4 (s : State) : exec .lnkCmdRetrainPam4 s = execLnkCmdRetrainPam4 s := rfl
theorem exec_lnkCmdForceNrz (s : State) : exec .lnkCmdForceNrz s = execLnkCmdForceNrz s := rfl
theorem exec_lnkCmdAnnounceDark (s : State) : exec .lnkCmdAnnounceDark s = execLnkCmdAnnounceDark s := rfl
theorem exec_lnkCmdReserved (s : State) : exec .lnkCmdReserved s = execLnkCmdReserved s := rfl
theorem exec_lnkEnSet (s : State) : exec .lnkEnSet s = execLnkEnSet s := rfl
theorem exec_lnkEnClear (s : State) : exec .lnkEnClear s = execLnkEnClear s := rfl
theorem exec_idleParkExpiry (s : State) : exec .idleParkExpiry s = execIdleParkExpiry s := rfl
theorem exec_wakeDepthTrigger (s : State) : exec .wakeDepthTrigger s = execWakeDepthTrigger s := rfl
theorem exec_wakeStripeChange (s : State) : exec .wakeStripeChange s = execWakeStripeChange s := rfl
theorem exec_gridCapture (s : State) : exec .gridCapture s = execGridCapture s := rfl
theorem exec_packetInject (s : State) : exec .packetInject s = execPacketInject s := rfl
theorem exec_routePacket (s : State) : exec .routePacket s = execRoutePacket s := rfl
theorem exec_deadlockEscape (s : State) : exec .deadlockEscape s = execDeadlockEscape s := rfl
theorem exec_sequencedPacketArrival (s : State) : exec .sequencedPacketArrival s = execSequencedPacketArrival s := rfl
theorem exec_retryResend (s : State) : exec .retryResend s = execRetryResend s := rfl
theorem exec_read (s : State) : exec .read s = execRead s := rfl
theorem exec_write (s : State) : exec .write s = execWrite s := rfl
theorem exec_atomic (s : State) : exec .atomic s = execAtomic s := rfl
theorem exec_readData (s : State) : exec .readData s = execReadData s := rfl
theorem exec_writeAcknowledge (s : State) : exec .writeAcknowledge s = execWriteAcknowledge s := rfl
theorem exec_atomicResult (s : State) : exec .atomicResult s = execAtomicResult s := rfl
theorem exec_peerTimeout (s : State) : exec .peerTimeout s = execPeerTimeout s := rfl
theorem exec_forwardRequest (s : State) : exec .forwardRequest s = execForwardRequest s := rfl
theorem exec_forwardData (s : State) : exec .forwardData s = execForwardData s := rfl
theorem exec_forwardStatus (s : State) : exec .forwardStatus s = execForwardStatus s := rfl
theorem exec_drainMarker (s : State) : exec .drainMarker s = execDrainMarker s := rfl
theorem exec_fabricDrain (s : State) : exec .fabricDrain s = execFabricDrain s := rfl
theorem exec_taskRecord (s : State) : exec .taskRecord s = execTaskRecord s := rfl
theorem exec_returnMessage (s : State) : exec .returnMessage s = execReturnMessage s := rfl
theorem exec_parkedRecordPlace (s : State) : exec .parkedRecordPlace s = execParkedRecordPlace s := rfl
theorem exec_collective (s : State) : exec .collective s = execCollective s := rfl
theorem exec_lwmAnnounce (s : State) : exec .lwmAnnounce s = execLwmAnnounce s := rfl
theorem exec_commit (s : State) : exec .commit s = execCommit s := rfl
theorem exec_replayCheck (s : State) : exec .replayCheck s = execReplayCheck s := rfl
theorem exec_bar2Access (s : State) : exec .bar2Access s = execBar2Access s := rfl
theorem exec_ctxCreate (s : State) : exec .ctxCreate s = execCtxCreate s := rfl
theorem exec_ctxDestroy (s : State) : exec .ctxDestroy s = execCtxDestroy s := rfl
theorem exec_ctxRetrySave (s : State) : exec .ctxRetrySave s = execCtxRetrySave s := rfl
theorem exec_ctxCmdReserved (s : State) : exec .ctxCmdReserved s = execCtxCmdReserved s := rfl
theorem exec_doorbell (s : State) : exec .doorbell s = execDoorbell s := rfl
theorem exec_launchAccept (s : State) : exec .launchAccept s = execLaunchAccept s := rfl
theorem exec_hostIrq (s : State) : exec .hostIrq s = execHostIrq s := rfl
theorem exec_cplGo (s : State) : exec .cplGo s = execCplGo s := rfl
theorem exec_cplQuiesceComplete (s : State) : exec .cplQuiesceComplete s = execCplQuiesceComplete s := rfl
theorem exec_cplCopyComplete (s : State) : exec .cplCopyComplete s = execCplCopyComplete s := rfl
theorem exec_cplCopyError (s : State) : exec .cplCopyError s = execCplCopyError s := rfl
theorem exec_cplBoundExceeded (s : State) : exec .cplBoundExceeded s = execCplBoundExceeded s := rfl
theorem exec_cplSealComplete (s : State) : exec .cplSealComplete s = execCplSealComplete s := rfl
theorem exec_cplRestore (s : State) : exec .cplRestore s = execCplRestore s := rfl
theorem exec_cplRestoreComplete (s : State) : exec .cplRestoreComplete s = execCplRestoreComplete s := rfl
theorem exec_cplHoldRelease (s : State) : exec .cplHoldRelease s = execCplHoldRelease s := rfl
theorem exec_twilightFreeze (s : State) : exec .twilightFreeze s = execTwilightFreeze s := rfl
theorem exec_twilightRead (s : State) : exec .twilightRead s = execTwilightRead s := rfl
theorem exec_sidebandDump (s : State) : exec .sidebandDump s = execSidebandDump s := rfl
theorem exec_xltInv (s : State) : exec .xltInv s = execXltInv s := rfl
theorem exec_xltInvComplete (s : State) : exec .xltInvComplete s = execXltInvComplete s := rfl
theorem exec_tlbWalkComplete (s : State) : exec .tlbWalkComplete s = execTlbWalkComplete s := rfl
theorem exec_spadHash (s : State) : exec .spadHash s = execSpadHash s := rfl
theorem exec_spadGate (s : State) : exec .spadGate s = execSpadGate s := rfl
theorem exec_dsramGate (s : State) : exec .dsramGate s = execDsramGate s := rfl
theorem exec_bankWakeComplete (s : State) : exec .bankWakeComplete s = execBankWakeComplete s := rfl
theorem exec_launchAdmit (s : State) : exec .launchAdmit s = execLaunchAdmit s := rfl
theorem exec_poolTopup (s : State) : exec .poolTopup s = execPoolTopup s := rfl
theorem exec_dispatchPlace (s : State) : exec .dispatchPlace s = execDispatchPlace s := rfl
theorem exec_recordPickup (s : State) : exec .recordPickup s = execRecordPickup s := rfl
theorem exec_balance (s : State) : exec .balance s = execBalance s := rfl
theorem exec_launchComplete (s : State) : exec .launchComplete s = execLaunchComplete s := rfl
theorem exec_farLoadData (s : State) : exec .farLoadData s = execFarLoadData s := rfl
theorem exec_deferredExecute (s : State) : exec .deferredExecute s = execDeferredExecute s := rfl
theorem exec_asyncTrapDelivery (s : State) : exec .asyncTrapDelivery s = execAsyncTrapDelivery s := rfl
theorem exec_ctxStopped (s : State) : exec .ctxStopped s = execCtxStopped s := rfl
theorem exec_ctxSaveWritten (s : State) : exec .ctxSaveWritten s = execCtxSaveWritten s := rfl
theorem exec_ctxSaveFail (s : State) : exec .ctxSaveFail s = execCtxSaveFail s := rfl
theorem exec_ctxRestoreStart (s : State) : exec .ctxRestoreStart s = execCtxRestoreStart s := rfl
theorem exec_ctxRestoreDone (s : State) : exec .ctxRestoreDone s = execCtxRestoreDone s := rfl
theorem exec_queueWriteback (s : State) : exec .queueWriteback s = execQueueWriteback s := rfl
theorem exec_entryStart (s : State) : exec .entryStart s = execEntryStart s := rfl
theorem exec_entryOvertake (s : State) : exec .entryOvertake s = execEntryOvertake s := rfl
theorem exec_entryAge (s : State) : exec .entryAge s = execEntryAge s := rfl
theorem exec_mma (s : State) : exec .mma s = execMma s := rfl
theorem exec_mmaz (s : State) : exec .mmaz s = execMmaz s := rfl
theorem exec_azero (s : State) : exec .azero s = execAzero s := rfl
theorem exec_aload (s : State) : exec .aload s = execAload s := rfl
theorem exec_astore (s : State) : exec .astore s = execAstore s := rfl
theorem exec_queueFence (s : State) : exec .queueFence s = execQueueFence s := rfl
theorem exec_copy (s : State) : exec .copy s = execCopy s := rfl
theorem exec_decomp (s : State) : exec .decomp s = execDecomp s := rfl
theorem exec_compr (s : State) : exec .compr s = execCompr s := rfl
theorem exec_gather (s : State) : exec .gather s = execGather s := rfl
theorem exec_scatter (s : State) : exec .scatter s = execScatter s := rfl
theorem exec_fill (s : State) : exec .fill s = execFill s := rfl
theorem exec_nzscan (s : State) : exec .nzscan s = execNzscan s := rfl
theorem exec_signal (s : State) : exec .signal s = execSignal s := rfl
theorem exec_inletStore (s : State) : exec .inletStore s = execInletStore s := rfl
theorem exec_waveTick (s : State) : exec .waveTick s = execWaveTick s := rfl
theorem exec_barrierArrival (s : State) : exec .barrierArrival s = execBarrierArrival s := rfl
theorem exec_waitWake (s : State) : exec .waitWake s = execWaitWake s := rfl
theorem exec_waitAnyTimeout (s : State) : exec .waitAnyTimeout s = execWaitAnyTimeout s := rfl
theorem exec_sleepExpiry (s : State) : exec .sleepExpiry s = execSleepExpiry s := rfl
theorem exec_breakpointMatch (s : State) : exec .breakpointMatch s = execBreakpointMatch s := rfl
theorem exec_debugResume (s : State) : exec .debugResume s = execDebugResume s := rfl
theorem exec_sampleTick (s : State) : exec .sampleTick s = execSampleTick s := rfl
theorem exec_rplGo (s : State) : exec .rplGo s = execRplGo s := rfl
theorem exec_accessPerformedAtHome (s : State) : exec .accessPerformedAtHome s = execAccessPerformedAtHome s := rfl
theorem exec_powerRemoval (s : State) : exec .powerRemoval s = execPowerRemoval s := rfl

end Sys2Proof.Machine
end

