-- ==== Sys2Proof/Laws/Tab.lean ====
section
/-! SUPPORT. Laws/Tab.lean: a sparse table read back after a write, and one write over another. -/
namespace Sys2Proof.Machine

@[simp] theorem tget_tset_same {α : Type} (t : Tab α) (k : Nat) (v d : α) : tget (tset t k v) k d = v := by
  induction t with
  | nil => simp [tset, tget]
  | cons p r ih =>
    obtain ⟨k', v'⟩ := p
    simp only [tset]
    split
    · simp [tget]
    · split
      · simp [tget]
      · rename_i h _
        simp [tget, h, ih]

theorem tget_tset_ne {α : Type} (t : Tab α) (k j : Nat) (v d : α) (h : j ≠ k) : tget (tset t k v) j d = tget t j d := by
  induction t with
  | nil => simp [tset, tget, Ne.symm h]
  | cons p r ih =>
    obtain ⟨k', v'⟩ := p
    simp only [tset]
    split
    · rename_i e
      subst e
      simp [tget, Ne.symm h]
    · split
      · simp [tget, Ne.symm h]
      · simp [tget, ih]

theorem tget_tset {α : Type} (t : Tab α) (k j : Nat) (v d : α) : tget (tset t k v) j d = if j = k then v else tget t j d := by
  split
  · rename_i h
    subst h
    simp
  · rename_i h
    exact tget_tset_ne t k j v d h

@[simp] theorem tset_tset {α : Type} (t : Tab α) (k : Nat) (v w : α) : tset (tset t k v) k w = tset t k w := by
  induction t with
  | nil => simp [tset]
  | cons p r ih =>
    obtain ⟨k', v'⟩ := p
    simp only [tset]
    split
    · simp [tset]
    · split
      · simp [tset]
      · rename_i h1 h2
        simp [tset, h1, h2, ih]

end Sys2Proof.Machine
end

