-- ==== Sys2Proof/Laws/State.lean ====
section
/-! SUPPORT. Laws/State.lean: what each update of the state gives each of its fields, and the records read back after a write. -/
namespace Sys2Proof.Machine

/-! ### setThread -/

@[simp] theorem State.setThread_threads (s : State) (tid : Nat) (t : Thread) : (s.setThread tid t).threads = tset s.threads tid t := rfl
@[simp] theorem State.setThread_cores (s : State) (tid : Nat) (t : Thread) : (s.setThread tid t).cores = s.cores := rfl
@[simp] theorem State.setThread_clusters (s : State) (tid : Nat) (t : Thread) : (s.setThread tid t).clusters = s.clusters := rfl
@[simp] theorem State.setThread_dies (s : State) (tid : Nat) (t : Thread) : (s.setThread tid t).dies = s.dies := rfl
@[simp] theorem State.setThread_mem (s : State) (tid : Nat) (t : Thread) : (s.setThread tid t).mem = s.mem := rfl
@[simp] theorem State.setThread_poison (s : State) (tid : Nat) (t : Thread) : (s.setThread tid t).poison = s.poison := rfl
@[simp] theorem State.setThread_replay (s : State) (tid : Nat) (t : Thread) : (s.setThread tid t).replay = s.replay := rfl
@[simp] theorem State.setThread_far (s : State) (tid : Nat) (t : Thread) : (s.setThread tid t).far = s.far := rfl
@[simp] theorem State.setThread_xlt (s : State) (tid : Nat) (t : Thread) : (s.setThread tid t).xlt = s.xlt := rfl
@[simp] theorem State.setThread_launches (s : State) (tid : Nat) (t : Thread) : (s.setThread tid t).launches = s.launches := rfl
@[simp] theorem State.setThread_nextSeq (s : State) (tid : Nat) (t : Thread) : (s.setThread tid t).nextSeq = s.nextSeq := rfl
@[simp] theorem State.setThread_ctxs (s : State) (tid : Nat) (t : Thread) : (s.setThread tid t).ctxs = s.ctxs := rfl
@[simp] theorem State.setThread_devBarriers (s : State) (tid : Nat) (t : Thread) : (s.setThread tid t).devBarriers = s.devBarriers := rfl
@[simp] theorem State.setThread_barSent (s : State) (tid : Nat) (t : Thread) : (s.setThread tid t).barSent = s.barSent := rfl
@[simp] theorem State.setThread_ports (s : State) (tid : Nat) (t : Thread) : (s.setThread tid t).ports = s.ports := rfl
@[simp] theorem State.setThread_fabric (s : State) (tid : Nat) (t : Thread) : (s.setThread tid t).fabric = s.fabric := rfl
@[simp] theorem State.setThread_coll (s : State) (tid : Nat) (t : Thread) : (s.setThread tid t).coll = s.coll := rfl
@[simp] theorem State.setThread_staged (s : State) (tid : Nat) (t : Thread) : (s.setThread tid t).staged = s.staged := rfl
@[simp] theorem State.setThread_grid (s : State) (tid : Nat) (t : Thread) : (s.setThread tid t).grid = s.grid := rfl
@[simp] theorem State.setThread_cpl (s : State) (tid : Nat) (t : Thread) : (s.setThread tid t).cpl = s.cpl := rfl
@[simp] theorem State.setThread_pkg (s : State) (tid : Nat) (t : Thread) : (s.setThread tid t).pkg = s.pkg := rfl
@[simp] theorem State.setThread_dbg (s : State) (tid : Nat) (t : Thread) : (s.setThread tid t).dbg = s.dbg := rfl
@[simp] theorem State.setThread_outputs (s : State) (tid : Nat) (t : Thread) : (s.setThread tid t).outputs = s.outputs := rfl
@[simp] theorem State.setThread_posted (s : State) (tid : Nat) (t : Thread) : (s.setThread tid t).posted = s.posted := rfl
@[simp] theorem State.setThread_cur (s : State) (tid : Nat) (t : Thread) : (s.setThread tid t).cur = s.cur := rfl
@[simp] theorem State.setThread_ilen (s : State) (tid : Nat) (t : Thread) : (s.setThread tid t).ilen = s.ilen := rfl
@[simp] theorem State.setThread_winRun (s : State) (tid : Nat) (t : Thread) : (s.setThread tid t).winRun = s.winRun := rfl
@[simp] theorem State.setThread_ev (s : State) (tid : Nat) (t : Thread) : (s.setThread tid t).ev = s.ev := rfl
@[simp] theorem State.setThread_pending (s : State) (tid : Nat) (t : Thread) : (s.setThread tid t).pending = s.pending := rfl
@[simp] theorem State.setThread_steps (s : State) (tid : Nat) (t : Thread) : (s.setThread tid t).steps = s.steps := rfl
@[simp] theorem State.setThread_freeCount (s : State) (tid : Nat) (t : Thread) : (s.setThread tid t).freeCount = s.freeCount := rfl
@[simp] theorem State.setThread_nextId (s : State) (tid : Nat) (t : Thread) : (s.setThread tid t).nextId = s.nextId := rfl
@[simp] theorem State.setThread_turn (s : State) (tid : Nat) (t : Thread) : (s.setThread tid t).turn = s.turn := rfl
@[simp] theorem State.setThread_wakes (s : State) (tid : Nat) (t : Thread) : (s.setThread tid t).wakes = s.wakes := rfl

/-! ### setTh -/

@[simp] theorem State.setTh_threads (s : State) (t : Thread) : (s.setTh t).threads = tset s.threads s.cur t := rfl
@[simp] theorem State.setTh_cores (s : State) (t : Thread) : (s.setTh t).cores = s.cores := rfl
@[simp] theorem State.setTh_clusters (s : State) (t : Thread) : (s.setTh t).clusters = s.clusters := rfl
@[simp] theorem State.setTh_dies (s : State) (t : Thread) : (s.setTh t).dies = s.dies := rfl
@[simp] theorem State.setTh_mem (s : State) (t : Thread) : (s.setTh t).mem = s.mem := rfl
@[simp] theorem State.setTh_poison (s : State) (t : Thread) : (s.setTh t).poison = s.poison := rfl
@[simp] theorem State.setTh_replay (s : State) (t : Thread) : (s.setTh t).replay = s.replay := rfl
@[simp] theorem State.setTh_far (s : State) (t : Thread) : (s.setTh t).far = s.far := rfl
@[simp] theorem State.setTh_xlt (s : State) (t : Thread) : (s.setTh t).xlt = s.xlt := rfl
@[simp] theorem State.setTh_launches (s : State) (t : Thread) : (s.setTh t).launches = s.launches := rfl
@[simp] theorem State.setTh_nextSeq (s : State) (t : Thread) : (s.setTh t).nextSeq = s.nextSeq := rfl
@[simp] theorem State.setTh_ctxs (s : State) (t : Thread) : (s.setTh t).ctxs = s.ctxs := rfl
@[simp] theorem State.setTh_devBarriers (s : State) (t : Thread) : (s.setTh t).devBarriers = s.devBarriers := rfl
@[simp] theorem State.setTh_barSent (s : State) (t : Thread) : (s.setTh t).barSent = s.barSent := rfl
@[simp] theorem State.setTh_ports (s : State) (t : Thread) : (s.setTh t).ports = s.ports := rfl
@[simp] theorem State.setTh_fabric (s : State) (t : Thread) : (s.setTh t).fabric = s.fabric := rfl
@[simp] theorem State.setTh_coll (s : State) (t : Thread) : (s.setTh t).coll = s.coll := rfl
@[simp] theorem State.setTh_staged (s : State) (t : Thread) : (s.setTh t).staged = s.staged := rfl
@[simp] theorem State.setTh_grid (s : State) (t : Thread) : (s.setTh t).grid = s.grid := rfl
@[simp] theorem State.setTh_cpl (s : State) (t : Thread) : (s.setTh t).cpl = s.cpl := rfl
@[simp] theorem State.setTh_pkg (s : State) (t : Thread) : (s.setTh t).pkg = s.pkg := rfl
@[simp] theorem State.setTh_dbg (s : State) (t : Thread) : (s.setTh t).dbg = s.dbg := rfl
@[simp] theorem State.setTh_outputs (s : State) (t : Thread) : (s.setTh t).outputs = s.outputs := rfl
@[simp] theorem State.setTh_posted (s : State) (t : Thread) : (s.setTh t).posted = s.posted := rfl
@[simp] theorem State.setTh_cur (s : State) (t : Thread) : (s.setTh t).cur = s.cur := rfl
@[simp] theorem State.setTh_ilen (s : State) (t : Thread) : (s.setTh t).ilen = s.ilen := rfl
@[simp] theorem State.setTh_winRun (s : State) (t : Thread) : (s.setTh t).winRun = s.winRun := rfl
@[simp] theorem State.setTh_ev (s : State) (t : Thread) : (s.setTh t).ev = s.ev := rfl
@[simp] theorem State.setTh_pending (s : State) (t : Thread) : (s.setTh t).pending = s.pending := rfl
@[simp] theorem State.setTh_steps (s : State) (t : Thread) : (s.setTh t).steps = s.steps := rfl
@[simp] theorem State.setTh_freeCount (s : State) (t : Thread) : (s.setTh t).freeCount = s.freeCount := rfl
@[simp] theorem State.setTh_nextId (s : State) (t : Thread) : (s.setTh t).nextId = s.nextId := rfl
@[simp] theorem State.setTh_turn (s : State) (t : Thread) : (s.setTh t).turn = s.turn := rfl
@[simp] theorem State.setTh_wakes (s : State) (t : Thread) : (s.setTh t).wakes = s.wakes := rfl

/-! ### setCore -/

@[simp] theorem State.setCore_threads (s : State) (g : Nat) (c : Core) : (s.setCore g c).threads = s.threads := rfl
@[simp] theorem State.setCore_cores (s : State) (g : Nat) (c : Core) : (s.setCore g c).cores = tset s.cores g c := rfl
@[simp] theorem State.setCore_clusters (s : State) (g : Nat) (c : Core) : (s.setCore g c).clusters = s.clusters := rfl
@[simp] theorem State.setCore_dies (s : State) (g : Nat) (c : Core) : (s.setCore g c).dies = s.dies := rfl
@[simp] theorem State.setCore_mem (s : State) (g : Nat) (c : Core) : (s.setCore g c).mem = s.mem := rfl
@[simp] theorem State.setCore_poison (s : State) (g : Nat) (c : Core) : (s.setCore g c).poison = s.poison := rfl
@[simp] theorem State.setCore_replay (s : State) (g : Nat) (c : Core) : (s.setCore g c).replay = s.replay := rfl
@[simp] theorem State.setCore_far (s : State) (g : Nat) (c : Core) : (s.setCore g c).far = s.far := rfl
@[simp] theorem State.setCore_xlt (s : State) (g : Nat) (c : Core) : (s.setCore g c).xlt = s.xlt := rfl
@[simp] theorem State.setCore_launches (s : State) (g : Nat) (c : Core) : (s.setCore g c).launches = s.launches := rfl
@[simp] theorem State.setCore_nextSeq (s : State) (g : Nat) (c : Core) : (s.setCore g c).nextSeq = s.nextSeq := rfl
@[simp] theorem State.setCore_ctxs (s : State) (g : Nat) (c : Core) : (s.setCore g c).ctxs = s.ctxs := rfl
@[simp] theorem State.setCore_devBarriers (s : State) (g : Nat) (c : Core) : (s.setCore g c).devBarriers = s.devBarriers := rfl
@[simp] theorem State.setCore_barSent (s : State) (g : Nat) (c : Core) : (s.setCore g c).barSent = s.barSent := rfl
@[simp] theorem State.setCore_ports (s : State) (g : Nat) (c : Core) : (s.setCore g c).ports = s.ports := rfl
@[simp] theorem State.setCore_fabric (s : State) (g : Nat) (c : Core) : (s.setCore g c).fabric = s.fabric := rfl
@[simp] theorem State.setCore_coll (s : State) (g : Nat) (c : Core) : (s.setCore g c).coll = s.coll := rfl
@[simp] theorem State.setCore_staged (s : State) (g : Nat) (c : Core) : (s.setCore g c).staged = s.staged := rfl
@[simp] theorem State.setCore_grid (s : State) (g : Nat) (c : Core) : (s.setCore g c).grid = s.grid := rfl
@[simp] theorem State.setCore_cpl (s : State) (g : Nat) (c : Core) : (s.setCore g c).cpl = s.cpl := rfl
@[simp] theorem State.setCore_pkg (s : State) (g : Nat) (c : Core) : (s.setCore g c).pkg = s.pkg := rfl
@[simp] theorem State.setCore_dbg (s : State) (g : Nat) (c : Core) : (s.setCore g c).dbg = s.dbg := rfl
@[simp] theorem State.setCore_outputs (s : State) (g : Nat) (c : Core) : (s.setCore g c).outputs = s.outputs := rfl
@[simp] theorem State.setCore_posted (s : State) (g : Nat) (c : Core) : (s.setCore g c).posted = s.posted := rfl
@[simp] theorem State.setCore_cur (s : State) (g : Nat) (c : Core) : (s.setCore g c).cur = s.cur := rfl
@[simp] theorem State.setCore_ilen (s : State) (g : Nat) (c : Core) : (s.setCore g c).ilen = s.ilen := rfl
@[simp] theorem State.setCore_winRun (s : State) (g : Nat) (c : Core) : (s.setCore g c).winRun = s.winRun := rfl
@[simp] theorem State.setCore_ev (s : State) (g : Nat) (c : Core) : (s.setCore g c).ev = s.ev := rfl
@[simp] theorem State.setCore_pending (s : State) (g : Nat) (c : Core) : (s.setCore g c).pending = s.pending := rfl
@[simp] theorem State.setCore_steps (s : State) (g : Nat) (c : Core) : (s.setCore g c).steps = s.steps := rfl
@[simp] theorem State.setCore_freeCount (s : State) (g : Nat) (c : Core) : (s.setCore g c).freeCount = s.freeCount := rfl
@[simp] theorem State.setCore_nextId (s : State) (g : Nat) (c : Core) : (s.setCore g c).nextId = s.nextId := rfl
@[simp] theorem State.setCore_turn (s : State) (g : Nat) (c : Core) : (s.setCore g c).turn = s.turn := rfl
@[simp] theorem State.setCore_wakes (s : State) (g : Nat) (c : Core) : (s.setCore g c).wakes = s.wakes := rfl

/-! ### setCo -/

@[simp] theorem State.setCo_threads (s : State) (c : Core) : (s.setCo c).threads = s.threads := rfl
@[simp] theorem State.setCo_cores (s : State) (c : Core) : (s.setCo c).cores = tset s.cores s.myCore c := rfl
@[simp] theorem State.setCo_clusters (s : State) (c : Core) : (s.setCo c).clusters = s.clusters := rfl
@[simp] theorem State.setCo_dies (s : State) (c : Core) : (s.setCo c).dies = s.dies := rfl
@[simp] theorem State.setCo_mem (s : State) (c : Core) : (s.setCo c).mem = s.mem := rfl
@[simp] theorem State.setCo_poison (s : State) (c : Core) : (s.setCo c).poison = s.poison := rfl
@[simp] theorem State.setCo_replay (s : State) (c : Core) : (s.setCo c).replay = s.replay := rfl
@[simp] theorem State.setCo_far (s : State) (c : Core) : (s.setCo c).far = s.far := rfl
@[simp] theorem State.setCo_xlt (s : State) (c : Core) : (s.setCo c).xlt = s.xlt := rfl
@[simp] theorem State.setCo_launches (s : State) (c : Core) : (s.setCo c).launches = s.launches := rfl
@[simp] theorem State.setCo_nextSeq (s : State) (c : Core) : (s.setCo c).nextSeq = s.nextSeq := rfl
@[simp] theorem State.setCo_ctxs (s : State) (c : Core) : (s.setCo c).ctxs = s.ctxs := rfl
@[simp] theorem State.setCo_devBarriers (s : State) (c : Core) : (s.setCo c).devBarriers = s.devBarriers := rfl
@[simp] theorem State.setCo_barSent (s : State) (c : Core) : (s.setCo c).barSent = s.barSent := rfl
@[simp] theorem State.setCo_ports (s : State) (c : Core) : (s.setCo c).ports = s.ports := rfl
@[simp] theorem State.setCo_fabric (s : State) (c : Core) : (s.setCo c).fabric = s.fabric := rfl
@[simp] theorem State.setCo_coll (s : State) (c : Core) : (s.setCo c).coll = s.coll := rfl
@[simp] theorem State.setCo_staged (s : State) (c : Core) : (s.setCo c).staged = s.staged := rfl
@[simp] theorem State.setCo_grid (s : State) (c : Core) : (s.setCo c).grid = s.grid := rfl
@[simp] theorem State.setCo_cpl (s : State) (c : Core) : (s.setCo c).cpl = s.cpl := rfl
@[simp] theorem State.setCo_pkg (s : State) (c : Core) : (s.setCo c).pkg = s.pkg := rfl
@[simp] theorem State.setCo_dbg (s : State) (c : Core) : (s.setCo c).dbg = s.dbg := rfl
@[simp] theorem State.setCo_outputs (s : State) (c : Core) : (s.setCo c).outputs = s.outputs := rfl
@[simp] theorem State.setCo_posted (s : State) (c : Core) : (s.setCo c).posted = s.posted := rfl
@[simp] theorem State.setCo_cur (s : State) (c : Core) : (s.setCo c).cur = s.cur := rfl
@[simp] theorem State.setCo_ilen (s : State) (c : Core) : (s.setCo c).ilen = s.ilen := rfl
@[simp] theorem State.setCo_winRun (s : State) (c : Core) : (s.setCo c).winRun = s.winRun := rfl
@[simp] theorem State.setCo_ev (s : State) (c : Core) : (s.setCo c).ev = s.ev := rfl
@[simp] theorem State.setCo_pending (s : State) (c : Core) : (s.setCo c).pending = s.pending := rfl
@[simp] theorem State.setCo_steps (s : State) (c : Core) : (s.setCo c).steps = s.steps := rfl
@[simp] theorem State.setCo_freeCount (s : State) (c : Core) : (s.setCo c).freeCount = s.freeCount := rfl
@[simp] theorem State.setCo_nextId (s : State) (c : Core) : (s.setCo c).nextId = s.nextId := rfl
@[simp] theorem State.setCo_turn (s : State) (c : Core) : (s.setCo c).turn = s.turn := rfl
@[simp] theorem State.setCo_wakes (s : State) (c : Core) : (s.setCo c).wakes = s.wakes := rfl

/-! ### setCluster -/

@[simp] theorem State.setCluster_threads (s : State) (c : Nat) (v : Cluster) : (s.setCluster c v).threads = s.threads := rfl
@[simp] theorem State.setCluster_cores (s : State) (c : Nat) (v : Cluster) : (s.setCluster c v).cores = s.cores := rfl
@[simp] theorem State.setCluster_clusters (s : State) (c : Nat) (v : Cluster) : (s.setCluster c v).clusters = tset s.clusters c v := rfl
@[simp] theorem State.setCluster_dies (s : State) (c : Nat) (v : Cluster) : (s.setCluster c v).dies = s.dies := rfl
@[simp] theorem State.setCluster_mem (s : State) (c : Nat) (v : Cluster) : (s.setCluster c v).mem = s.mem := rfl
@[simp] theorem State.setCluster_poison (s : State) (c : Nat) (v : Cluster) : (s.setCluster c v).poison = s.poison := rfl
@[simp] theorem State.setCluster_replay (s : State) (c : Nat) (v : Cluster) : (s.setCluster c v).replay = s.replay := rfl
@[simp] theorem State.setCluster_far (s : State) (c : Nat) (v : Cluster) : (s.setCluster c v).far = s.far := rfl
@[simp] theorem State.setCluster_xlt (s : State) (c : Nat) (v : Cluster) : (s.setCluster c v).xlt = s.xlt := rfl
@[simp] theorem State.setCluster_launches (s : State) (c : Nat) (v : Cluster) : (s.setCluster c v).launches = s.launches := rfl
@[simp] theorem State.setCluster_nextSeq (s : State) (c : Nat) (v : Cluster) : (s.setCluster c v).nextSeq = s.nextSeq := rfl
@[simp] theorem State.setCluster_ctxs (s : State) (c : Nat) (v : Cluster) : (s.setCluster c v).ctxs = s.ctxs := rfl
@[simp] theorem State.setCluster_devBarriers (s : State) (c : Nat) (v : Cluster) : (s.setCluster c v).devBarriers = s.devBarriers := rfl
@[simp] theorem State.setCluster_barSent (s : State) (c : Nat) (v : Cluster) : (s.setCluster c v).barSent = s.barSent := rfl
@[simp] theorem State.setCluster_ports (s : State) (c : Nat) (v : Cluster) : (s.setCluster c v).ports = s.ports := rfl
@[simp] theorem State.setCluster_fabric (s : State) (c : Nat) (v : Cluster) : (s.setCluster c v).fabric = s.fabric := rfl
@[simp] theorem State.setCluster_coll (s : State) (c : Nat) (v : Cluster) : (s.setCluster c v).coll = s.coll := rfl
@[simp] theorem State.setCluster_staged (s : State) (c : Nat) (v : Cluster) : (s.setCluster c v).staged = s.staged := rfl
@[simp] theorem State.setCluster_grid (s : State) (c : Nat) (v : Cluster) : (s.setCluster c v).grid = s.grid := rfl
@[simp] theorem State.setCluster_cpl (s : State) (c : Nat) (v : Cluster) : (s.setCluster c v).cpl = s.cpl := rfl
@[simp] theorem State.setCluster_pkg (s : State) (c : Nat) (v : Cluster) : (s.setCluster c v).pkg = s.pkg := rfl
@[simp] theorem State.setCluster_dbg (s : State) (c : Nat) (v : Cluster) : (s.setCluster c v).dbg = s.dbg := rfl
@[simp] theorem State.setCluster_outputs (s : State) (c : Nat) (v : Cluster) : (s.setCluster c v).outputs = s.outputs := rfl
@[simp] theorem State.setCluster_posted (s : State) (c : Nat) (v : Cluster) : (s.setCluster c v).posted = s.posted := rfl
@[simp] theorem State.setCluster_cur (s : State) (c : Nat) (v : Cluster) : (s.setCluster c v).cur = s.cur := rfl
@[simp] theorem State.setCluster_ilen (s : State) (c : Nat) (v : Cluster) : (s.setCluster c v).ilen = s.ilen := rfl
@[simp] theorem State.setCluster_winRun (s : State) (c : Nat) (v : Cluster) : (s.setCluster c v).winRun = s.winRun := rfl
@[simp] theorem State.setCluster_ev (s : State) (c : Nat) (v : Cluster) : (s.setCluster c v).ev = s.ev := rfl
@[simp] theorem State.setCluster_pending (s : State) (c : Nat) (v : Cluster) : (s.setCluster c v).pending = s.pending := rfl
@[simp] theorem State.setCluster_steps (s : State) (c : Nat) (v : Cluster) : (s.setCluster c v).steps = s.steps := rfl
@[simp] theorem State.setCluster_freeCount (s : State) (c : Nat) (v : Cluster) : (s.setCluster c v).freeCount = s.freeCount := rfl
@[simp] theorem State.setCluster_nextId (s : State) (c : Nat) (v : Cluster) : (s.setCluster c v).nextId = s.nextId := rfl
@[simp] theorem State.setCluster_turn (s : State) (c : Nat) (v : Cluster) : (s.setCluster c v).turn = s.turn := rfl
@[simp] theorem State.setCluster_wakes (s : State) (c : Nat) (v : Cluster) : (s.setCluster c v).wakes = s.wakes := rfl

/-! ### setDie -/

@[simp] theorem State.setDie_threads (s : State) (d : Nat) (v : Die) : (s.setDie d v).threads = s.threads := rfl
@[simp] theorem State.setDie_cores (s : State) (d : Nat) (v : Die) : (s.setDie d v).cores = s.cores := rfl
@[simp] theorem State.setDie_clusters (s : State) (d : Nat) (v : Die) : (s.setDie d v).clusters = s.clusters := rfl
@[simp] theorem State.setDie_dies (s : State) (d : Nat) (v : Die) : (s.setDie d v).dies = tset s.dies d v := rfl
@[simp] theorem State.setDie_mem (s : State) (d : Nat) (v : Die) : (s.setDie d v).mem = s.mem := rfl
@[simp] theorem State.setDie_poison (s : State) (d : Nat) (v : Die) : (s.setDie d v).poison = s.poison := rfl
@[simp] theorem State.setDie_replay (s : State) (d : Nat) (v : Die) : (s.setDie d v).replay = s.replay := rfl
@[simp] theorem State.setDie_far (s : State) (d : Nat) (v : Die) : (s.setDie d v).far = s.far := rfl
@[simp] theorem State.setDie_xlt (s : State) (d : Nat) (v : Die) : (s.setDie d v).xlt = s.xlt := rfl
@[simp] theorem State.setDie_launches (s : State) (d : Nat) (v : Die) : (s.setDie d v).launches = s.launches := rfl
@[simp] theorem State.setDie_nextSeq (s : State) (d : Nat) (v : Die) : (s.setDie d v).nextSeq = s.nextSeq := rfl
@[simp] theorem State.setDie_ctxs (s : State) (d : Nat) (v : Die) : (s.setDie d v).ctxs = s.ctxs := rfl
@[simp] theorem State.setDie_devBarriers (s : State) (d : Nat) (v : Die) : (s.setDie d v).devBarriers = s.devBarriers := rfl
@[simp] theorem State.setDie_barSent (s : State) (d : Nat) (v : Die) : (s.setDie d v).barSent = s.barSent := rfl
@[simp] theorem State.setDie_ports (s : State) (d : Nat) (v : Die) : (s.setDie d v).ports = s.ports := rfl
@[simp] theorem State.setDie_fabric (s : State) (d : Nat) (v : Die) : (s.setDie d v).fabric = s.fabric := rfl
@[simp] theorem State.setDie_coll (s : State) (d : Nat) (v : Die) : (s.setDie d v).coll = s.coll := rfl
@[simp] theorem State.setDie_staged (s : State) (d : Nat) (v : Die) : (s.setDie d v).staged = s.staged := rfl
@[simp] theorem State.setDie_grid (s : State) (d : Nat) (v : Die) : (s.setDie d v).grid = s.grid := rfl
@[simp] theorem State.setDie_cpl (s : State) (d : Nat) (v : Die) : (s.setDie d v).cpl = s.cpl := rfl
@[simp] theorem State.setDie_pkg (s : State) (d : Nat) (v : Die) : (s.setDie d v).pkg = s.pkg := rfl
@[simp] theorem State.setDie_dbg (s : State) (d : Nat) (v : Die) : (s.setDie d v).dbg = s.dbg := rfl
@[simp] theorem State.setDie_outputs (s : State) (d : Nat) (v : Die) : (s.setDie d v).outputs = s.outputs := rfl
@[simp] theorem State.setDie_posted (s : State) (d : Nat) (v : Die) : (s.setDie d v).posted = s.posted := rfl
@[simp] theorem State.setDie_cur (s : State) (d : Nat) (v : Die) : (s.setDie d v).cur = s.cur := rfl
@[simp] theorem State.setDie_ilen (s : State) (d : Nat) (v : Die) : (s.setDie d v).ilen = s.ilen := rfl
@[simp] theorem State.setDie_winRun (s : State) (d : Nat) (v : Die) : (s.setDie d v).winRun = s.winRun := rfl
@[simp] theorem State.setDie_ev (s : State) (d : Nat) (v : Die) : (s.setDie d v).ev = s.ev := rfl
@[simp] theorem State.setDie_pending (s : State) (d : Nat) (v : Die) : (s.setDie d v).pending = s.pending := rfl
@[simp] theorem State.setDie_steps (s : State) (d : Nat) (v : Die) : (s.setDie d v).steps = s.steps := rfl
@[simp] theorem State.setDie_freeCount (s : State) (d : Nat) (v : Die) : (s.setDie d v).freeCount = s.freeCount := rfl
@[simp] theorem State.setDie_nextId (s : State) (d : Nat) (v : Die) : (s.setDie d v).nextId = s.nextId := rfl
@[simp] theorem State.setDie_turn (s : State) (d : Nat) (v : Die) : (s.setDie d v).turn = s.turn := rfl
@[simp] theorem State.setDie_wakes (s : State) (d : Nat) (v : Die) : (s.setDie d v).wakes = s.wakes := rfl

/-! ### setCtx -/

@[simp] theorem State.setCtx_threads (s : State) (c : Nat) (v : Ctx) : (s.setCtx c v).threads = s.threads := rfl
@[simp] theorem State.setCtx_cores (s : State) (c : Nat) (v : Ctx) : (s.setCtx c v).cores = s.cores := rfl
@[simp] theorem State.setCtx_clusters (s : State) (c : Nat) (v : Ctx) : (s.setCtx c v).clusters = s.clusters := rfl
@[simp] theorem State.setCtx_dies (s : State) (c : Nat) (v : Ctx) : (s.setCtx c v).dies = s.dies := rfl
@[simp] theorem State.setCtx_mem (s : State) (c : Nat) (v : Ctx) : (s.setCtx c v).mem = s.mem := rfl
@[simp] theorem State.setCtx_poison (s : State) (c : Nat) (v : Ctx) : (s.setCtx c v).poison = s.poison := rfl
@[simp] theorem State.setCtx_replay (s : State) (c : Nat) (v : Ctx) : (s.setCtx c v).replay = s.replay := rfl
@[simp] theorem State.setCtx_far (s : State) (c : Nat) (v : Ctx) : (s.setCtx c v).far = s.far := rfl
@[simp] theorem State.setCtx_xlt (s : State) (c : Nat) (v : Ctx) : (s.setCtx c v).xlt = s.xlt := rfl
@[simp] theorem State.setCtx_launches (s : State) (c : Nat) (v : Ctx) : (s.setCtx c v).launches = s.launches := rfl
@[simp] theorem State.setCtx_nextSeq (s : State) (c : Nat) (v : Ctx) : (s.setCtx c v).nextSeq = s.nextSeq := rfl
@[simp] theorem State.setCtx_ctxs (s : State) (c : Nat) (v : Ctx) : (s.setCtx c v).ctxs = tset s.ctxs c v := rfl
@[simp] theorem State.setCtx_devBarriers (s : State) (c : Nat) (v : Ctx) : (s.setCtx c v).devBarriers = s.devBarriers := rfl
@[simp] theorem State.setCtx_barSent (s : State) (c : Nat) (v : Ctx) : (s.setCtx c v).barSent = s.barSent := rfl
@[simp] theorem State.setCtx_ports (s : State) (c : Nat) (v : Ctx) : (s.setCtx c v).ports = s.ports := rfl
@[simp] theorem State.setCtx_fabric (s : State) (c : Nat) (v : Ctx) : (s.setCtx c v).fabric = s.fabric := rfl
@[simp] theorem State.setCtx_coll (s : State) (c : Nat) (v : Ctx) : (s.setCtx c v).coll = s.coll := rfl
@[simp] theorem State.setCtx_staged (s : State) (c : Nat) (v : Ctx) : (s.setCtx c v).staged = s.staged := rfl
@[simp] theorem State.setCtx_grid (s : State) (c : Nat) (v : Ctx) : (s.setCtx c v).grid = s.grid := rfl
@[simp] theorem State.setCtx_cpl (s : State) (c : Nat) (v : Ctx) : (s.setCtx c v).cpl = s.cpl := rfl
@[simp] theorem State.setCtx_pkg (s : State) (c : Nat) (v : Ctx) : (s.setCtx c v).pkg = s.pkg := rfl
@[simp] theorem State.setCtx_dbg (s : State) (c : Nat) (v : Ctx) : (s.setCtx c v).dbg = s.dbg := rfl
@[simp] theorem State.setCtx_outputs (s : State) (c : Nat) (v : Ctx) : (s.setCtx c v).outputs = s.outputs := rfl
@[simp] theorem State.setCtx_posted (s : State) (c : Nat) (v : Ctx) : (s.setCtx c v).posted = s.posted := rfl
@[simp] theorem State.setCtx_cur (s : State) (c : Nat) (v : Ctx) : (s.setCtx c v).cur = s.cur := rfl
@[simp] theorem State.setCtx_ilen (s : State) (c : Nat) (v : Ctx) : (s.setCtx c v).ilen = s.ilen := rfl
@[simp] theorem State.setCtx_winRun (s : State) (c : Nat) (v : Ctx) : (s.setCtx c v).winRun = s.winRun := rfl
@[simp] theorem State.setCtx_ev (s : State) (c : Nat) (v : Ctx) : (s.setCtx c v).ev = s.ev := rfl
@[simp] theorem State.setCtx_pending (s : State) (c : Nat) (v : Ctx) : (s.setCtx c v).pending = s.pending := rfl
@[simp] theorem State.setCtx_steps (s : State) (c : Nat) (v : Ctx) : (s.setCtx c v).steps = s.steps := rfl
@[simp] theorem State.setCtx_freeCount (s : State) (c : Nat) (v : Ctx) : (s.setCtx c v).freeCount = s.freeCount := rfl
@[simp] theorem State.setCtx_nextId (s : State) (c : Nat) (v : Ctx) : (s.setCtx c v).nextId = s.nextId := rfl
@[simp] theorem State.setCtx_turn (s : State) (c : Nat) (v : Ctx) : (s.setCtx c v).turn = s.turn := rfl
@[simp] theorem State.setCtx_wakes (s : State) (c : Nat) (v : Ctx) : (s.setCtx c v).wakes = s.wakes := rfl

/-! ### setLaunch -/

@[simp] theorem State.setLaunch_threads (s : State) (l : Launch) : (s.setLaunch l).threads = s.threads := rfl
@[simp] theorem State.setLaunch_cores (s : State) (l : Launch) : (s.setLaunch l).cores = s.cores := rfl
@[simp] theorem State.setLaunch_clusters (s : State) (l : Launch) : (s.setLaunch l).clusters = s.clusters := rfl
@[simp] theorem State.setLaunch_dies (s : State) (l : Launch) : (s.setLaunch l).dies = s.dies := rfl
@[simp] theorem State.setLaunch_mem (s : State) (l : Launch) : (s.setLaunch l).mem = s.mem := rfl
@[simp] theorem State.setLaunch_poison (s : State) (l : Launch) : (s.setLaunch l).poison = s.poison := rfl
@[simp] theorem State.setLaunch_replay (s : State) (l : Launch) : (s.setLaunch l).replay = s.replay := rfl
@[simp] theorem State.setLaunch_far (s : State) (l : Launch) : (s.setLaunch l).far = s.far := rfl
@[simp] theorem State.setLaunch_xlt (s : State) (l : Launch) : (s.setLaunch l).xlt = s.xlt := rfl
@[simp] theorem State.setLaunch_launches (s : State) (l : Launch) : (s.setLaunch l).launches = s.launches.map (fun l' => if l'.seq == l.seq then l else l') := rfl
@[simp] theorem State.setLaunch_nextSeq (s : State) (l : Launch) : (s.setLaunch l).nextSeq = s.nextSeq := rfl
@[simp] theorem State.setLaunch_ctxs (s : State) (l : Launch) : (s.setLaunch l).ctxs = s.ctxs := rfl
@[simp] theorem State.setLaunch_devBarriers (s : State) (l : Launch) : (s.setLaunch l).devBarriers = s.devBarriers := rfl
@[simp] theorem State.setLaunch_barSent (s : State) (l : Launch) : (s.setLaunch l).barSent = s.barSent := rfl
@[simp] theorem State.setLaunch_ports (s : State) (l : Launch) : (s.setLaunch l).ports = s.ports := rfl
@[simp] theorem State.setLaunch_fabric (s : State) (l : Launch) : (s.setLaunch l).fabric = s.fabric := rfl
@[simp] theorem State.setLaunch_coll (s : State) (l : Launch) : (s.setLaunch l).coll = s.coll := rfl
@[simp] theorem State.setLaunch_staged (s : State) (l : Launch) : (s.setLaunch l).staged = s.staged := rfl
@[simp] theorem State.setLaunch_grid (s : State) (l : Launch) : (s.setLaunch l).grid = s.grid := rfl
@[simp] theorem State.setLaunch_cpl (s : State) (l : Launch) : (s.setLaunch l).cpl = s.cpl := rfl
@[simp] theorem State.setLaunch_pkg (s : State) (l : Launch) : (s.setLaunch l).pkg = s.pkg := rfl
@[simp] theorem State.setLaunch_dbg (s : State) (l : Launch) : (s.setLaunch l).dbg = s.dbg := rfl
@[simp] theorem State.setLaunch_outputs (s : State) (l : Launch) : (s.setLaunch l).outputs = s.outputs := rfl
@[simp] theorem State.setLaunch_posted (s : State) (l : Launch) : (s.setLaunch l).posted = s.posted := rfl
@[simp] theorem State.setLaunch_cur (s : State) (l : Launch) : (s.setLaunch l).cur = s.cur := rfl
@[simp] theorem State.setLaunch_ilen (s : State) (l : Launch) : (s.setLaunch l).ilen = s.ilen := rfl
@[simp] theorem State.setLaunch_winRun (s : State) (l : Launch) : (s.setLaunch l).winRun = s.winRun := rfl
@[simp] theorem State.setLaunch_ev (s : State) (l : Launch) : (s.setLaunch l).ev = s.ev := rfl
@[simp] theorem State.setLaunch_pending (s : State) (l : Launch) : (s.setLaunch l).pending = s.pending := rfl
@[simp] theorem State.setLaunch_steps (s : State) (l : Launch) : (s.setLaunch l).steps = s.steps := rfl
@[simp] theorem State.setLaunch_freeCount (s : State) (l : Launch) : (s.setLaunch l).freeCount = s.freeCount := rfl
@[simp] theorem State.setLaunch_nextId (s : State) (l : Launch) : (s.setLaunch l).nextId = s.nextId := rfl
@[simp] theorem State.setLaunch_turn (s : State) (l : Launch) : (s.setLaunch l).turn = s.turn := rfl
@[simp] theorem State.setLaunch_wakes (s : State) (l : Launch) : (s.setLaunch l).wakes = s.wakes := rfl

/-! ### setPort -/

@[simp] theorem State.setPort_threads (s : State) (p : Nat) (v : Port) : (s.setPort p v).threads = s.threads := rfl
@[simp] theorem State.setPort_cores (s : State) (p : Nat) (v : Port) : (s.setPort p v).cores = s.cores := rfl
@[simp] theorem State.setPort_clusters (s : State) (p : Nat) (v : Port) : (s.setPort p v).clusters = s.clusters := rfl
@[simp] theorem State.setPort_dies (s : State) (p : Nat) (v : Port) : (s.setPort p v).dies = s.dies := rfl
@[simp] theorem State.setPort_mem (s : State) (p : Nat) (v : Port) : (s.setPort p v).mem = s.mem := rfl
@[simp] theorem State.setPort_poison (s : State) (p : Nat) (v : Port) : (s.setPort p v).poison = s.poison := rfl
@[simp] theorem State.setPort_replay (s : State) (p : Nat) (v : Port) : (s.setPort p v).replay = s.replay := rfl
@[simp] theorem State.setPort_far (s : State) (p : Nat) (v : Port) : (s.setPort p v).far = s.far := rfl
@[simp] theorem State.setPort_xlt (s : State) (p : Nat) (v : Port) : (s.setPort p v).xlt = s.xlt := rfl
@[simp] theorem State.setPort_launches (s : State) (p : Nat) (v : Port) : (s.setPort p v).launches = s.launches := rfl
@[simp] theorem State.setPort_nextSeq (s : State) (p : Nat) (v : Port) : (s.setPort p v).nextSeq = s.nextSeq := rfl
@[simp] theorem State.setPort_ctxs (s : State) (p : Nat) (v : Port) : (s.setPort p v).ctxs = s.ctxs := rfl
@[simp] theorem State.setPort_devBarriers (s : State) (p : Nat) (v : Port) : (s.setPort p v).devBarriers = s.devBarriers := rfl
@[simp] theorem State.setPort_barSent (s : State) (p : Nat) (v : Port) : (s.setPort p v).barSent = s.barSent := rfl
@[simp] theorem State.setPort_ports (s : State) (p : Nat) (v : Port) : (s.setPort p v).ports = tset s.ports p v := rfl
@[simp] theorem State.setPort_fabric (s : State) (p : Nat) (v : Port) : (s.setPort p v).fabric = s.fabric := rfl
@[simp] theorem State.setPort_coll (s : State) (p : Nat) (v : Port) : (s.setPort p v).coll = s.coll := rfl
@[simp] theorem State.setPort_staged (s : State) (p : Nat) (v : Port) : (s.setPort p v).staged = s.staged := rfl
@[simp] theorem State.setPort_grid (s : State) (p : Nat) (v : Port) : (s.setPort p v).grid = s.grid := rfl
@[simp] theorem State.setPort_cpl (s : State) (p : Nat) (v : Port) : (s.setPort p v).cpl = s.cpl := rfl
@[simp] theorem State.setPort_pkg (s : State) (p : Nat) (v : Port) : (s.setPort p v).pkg = s.pkg := rfl
@[simp] theorem State.setPort_dbg (s : State) (p : Nat) (v : Port) : (s.setPort p v).dbg = s.dbg := rfl
@[simp] theorem State.setPort_outputs (s : State) (p : Nat) (v : Port) : (s.setPort p v).outputs = s.outputs := rfl
@[simp] theorem State.setPort_posted (s : State) (p : Nat) (v : Port) : (s.setPort p v).posted = s.posted := rfl
@[simp] theorem State.setPort_cur (s : State) (p : Nat) (v : Port) : (s.setPort p v).cur = s.cur := rfl
@[simp] theorem State.setPort_ilen (s : State) (p : Nat) (v : Port) : (s.setPort p v).ilen = s.ilen := rfl
@[simp] theorem State.setPort_winRun (s : State) (p : Nat) (v : Port) : (s.setPort p v).winRun = s.winRun := rfl
@[simp] theorem State.setPort_ev (s : State) (p : Nat) (v : Port) : (s.setPort p v).ev = s.ev := rfl
@[simp] theorem State.setPort_pending (s : State) (p : Nat) (v : Port) : (s.setPort p v).pending = s.pending := rfl
@[simp] theorem State.setPort_steps (s : State) (p : Nat) (v : Port) : (s.setPort p v).steps = s.steps := rfl
@[simp] theorem State.setPort_freeCount (s : State) (p : Nat) (v : Port) : (s.setPort p v).freeCount = s.freeCount := rfl
@[simp] theorem State.setPort_nextId (s : State) (p : Nat) (v : Port) : (s.setPort p v).nextId = s.nextId := rfl
@[simp] theorem State.setPort_turn (s : State) (p : Nat) (v : Port) : (s.setPort p v).turn = s.turn := rfl
@[simp] theorem State.setPort_wakes (s : State) (p : Nat) (v : Port) : (s.setPort p v).wakes = s.wakes := rfl

/-! ### Records read back -/

theorem State.thread_setThread (s : State) (tid : Nat) (t : Thread) (k : Nat) : (s.setThread tid t).thread k = if k = tid then t else s.thread k := tget_tset _ _ _ _ _
@[simp] theorem State.thread_setThread_same (s : State) (tid : Nat) (t : Thread) : (s.setThread tid t).thread tid = t := tget_tset_same _ _ _ _
@[simp] theorem State.setThread_setThread_same (s : State) (tid : Nat) (t u : Thread) : (s.setThread tid t).setThread tid u = s.setThread tid u := by
  simp [State.setThread]
theorem State.core_setCore (s : State) (tid : Nat) (t : Core) (k : Nat) : (s.setCore tid t).core k = if k = tid then t else s.core k := tget_tset _ _ _ _ _
@[simp] theorem State.core_setCore_same (s : State) (tid : Nat) (t : Core) : (s.setCore tid t).core tid = t := tget_tset_same _ _ _ _
@[simp] theorem State.setCore_setCore_same (s : State) (tid : Nat) (t u : Core) : (s.setCore tid t).setCore tid u = s.setCore tid u := by
  simp [State.setCore]
theorem State.cluster_setCluster (s : State) (tid : Nat) (t : Cluster) (k : Nat) : (s.setCluster tid t).cluster k = if k = tid then t else s.cluster k := tget_tset _ _ _ _ _
@[simp] theorem State.cluster_setCluster_same (s : State) (tid : Nat) (t : Cluster) : (s.setCluster tid t).cluster tid = t := tget_tset_same _ _ _ _
@[simp] theorem State.setCluster_setCluster_same (s : State) (tid : Nat) (t u : Cluster) : (s.setCluster tid t).setCluster tid u = s.setCluster tid u := by
  simp [State.setCluster]
theorem State.die_setDie (s : State) (tid : Nat) (t : Die) (k : Nat) : (s.setDie tid t).die k = if k = tid then t else s.die k := tget_tset _ _ _ _ _
@[simp] theorem State.die_setDie_same (s : State) (tid : Nat) (t : Die) : (s.setDie tid t).die tid = t := tget_tset_same _ _ _ _
@[simp] theorem State.setDie_setDie_same (s : State) (tid : Nat) (t u : Die) : (s.setDie tid t).setDie tid u = s.setDie tid u := by
  simp [State.setDie]
theorem State.ctx_setCtx (s : State) (tid : Nat) (t : Ctx) (k : Nat) : (s.setCtx tid t).ctx k = if k = tid then t else s.ctx k := tget_tset _ _ _ _ _
@[simp] theorem State.ctx_setCtx_same (s : State) (tid : Nat) (t : Ctx) : (s.setCtx tid t).ctx tid = t := tget_tset_same _ _ _ _
@[simp] theorem State.setCtx_setCtx_same (s : State) (tid : Nat) (t u : Ctx) : (s.setCtx tid t).setCtx tid u = s.setCtx tid u := by
  simp [State.setCtx]
theorem State.port_setPort (s : State) (tid : Nat) (t : Port) (k : Nat) : (s.setPort tid t).port k = if k = tid then t else s.port k := tget_tset _ _ _ _ _
@[simp] theorem State.port_setPort_same (s : State) (tid : Nat) (t : Port) : (s.setPort tid t).port tid = t := tget_tset_same _ _ _ _
@[simp] theorem State.setPort_setPort_same (s : State) (tid : Nat) (t u : Port) : (s.setPort tid t).setPort tid u = s.setPort tid u := by
  simp [State.setPort]
@[simp] theorem State.core_setThread (s : State) (tid : Nat) (t : Thread) (k : Nat) : (s.setThread tid t).core k = s.core k := rfl
@[simp] theorem State.cluster_setThread (s : State) (tid : Nat) (t : Thread) (k : Nat) : (s.setThread tid t).cluster k = s.cluster k := rfl
@[simp] theorem State.die_setThread (s : State) (tid : Nat) (t : Thread) (k : Nat) : (s.setThread tid t).die k = s.die k := rfl
@[simp] theorem State.ctx_setThread (s : State) (tid : Nat) (t : Thread) (k : Nat) : (s.setThread tid t).ctx k = s.ctx k := rfl
@[simp] theorem State.port_setThread (s : State) (tid : Nat) (t : Thread) (k : Nat) : (s.setThread tid t).port k = s.port k := rfl
@[simp] theorem State.thread_setCore (s : State) (tid : Nat) (t : Core) (k : Nat) : (s.setCore tid t).thread k = s.thread k := rfl
@[simp] theorem State.cluster_setCore (s : State) (tid : Nat) (t : Core) (k : Nat) : (s.setCore tid t).cluster k = s.cluster k := rfl
@[simp] theorem State.die_setCore (s : State) (tid : Nat) (t : Core) (k : Nat) : (s.setCore tid t).die k = s.die k := rfl
@[simp] theorem State.ctx_setCore (s : State) (tid : Nat) (t : Core) (k : Nat) : (s.setCore tid t).ctx k = s.ctx k := rfl
@[simp] theorem State.port_setCore (s : State) (tid : Nat) (t : Core) (k : Nat) : (s.setCore tid t).port k = s.port k := rfl
@[simp] theorem State.thread_setCluster (s : State) (tid : Nat) (t : Cluster) (k : Nat) : (s.setCluster tid t).thread k = s.thread k := rfl
@[simp] theorem State.core_setCluster (s : State) (tid : Nat) (t : Cluster) (k : Nat) : (s.setCluster tid t).core k = s.core k := rfl
@[simp] theorem State.die_setCluster (s : State) (tid : Nat) (t : Cluster) (k : Nat) : (s.setCluster tid t).die k = s.die k := rfl
@[simp] theorem State.ctx_setCluster (s : State) (tid : Nat) (t : Cluster) (k : Nat) : (s.setCluster tid t).ctx k = s.ctx k := rfl
@[simp] theorem State.port_setCluster (s : State) (tid : Nat) (t : Cluster) (k : Nat) : (s.setCluster tid t).port k = s.port k := rfl
@[simp] theorem State.thread_setDie (s : State) (tid : Nat) (t : Die) (k : Nat) : (s.setDie tid t).thread k = s.thread k := rfl
@[simp] theorem State.core_setDie (s : State) (tid : Nat) (t : Die) (k : Nat) : (s.setDie tid t).core k = s.core k := rfl
@[simp] theorem State.cluster_setDie (s : State) (tid : Nat) (t : Die) (k : Nat) : (s.setDie tid t).cluster k = s.cluster k := rfl
@[simp] theorem State.ctx_setDie (s : State) (tid : Nat) (t : Die) (k : Nat) : (s.setDie tid t).ctx k = s.ctx k := rfl
@[simp] theorem State.port_setDie (s : State) (tid : Nat) (t : Die) (k : Nat) : (s.setDie tid t).port k = s.port k := rfl
@[simp] theorem State.thread_setCtx (s : State) (tid : Nat) (t : Ctx) (k : Nat) : (s.setCtx tid t).thread k = s.thread k := rfl
@[simp] theorem State.core_setCtx (s : State) (tid : Nat) (t : Ctx) (k : Nat) : (s.setCtx tid t).core k = s.core k := rfl
@[simp] theorem State.cluster_setCtx (s : State) (tid : Nat) (t : Ctx) (k : Nat) : (s.setCtx tid t).cluster k = s.cluster k := rfl
@[simp] theorem State.die_setCtx (s : State) (tid : Nat) (t : Ctx) (k : Nat) : (s.setCtx tid t).die k = s.die k := rfl
@[simp] theorem State.port_setCtx (s : State) (tid : Nat) (t : Ctx) (k : Nat) : (s.setCtx tid t).port k = s.port k := rfl
@[simp] theorem State.thread_setPort (s : State) (tid : Nat) (t : Port) (k : Nat) : (s.setPort tid t).thread k = s.thread k := rfl
@[simp] theorem State.core_setPort (s : State) (tid : Nat) (t : Port) (k : Nat) : (s.setPort tid t).core k = s.core k := rfl
@[simp] theorem State.cluster_setPort (s : State) (tid : Nat) (t : Port) (k : Nat) : (s.setPort tid t).cluster k = s.cluster k := rfl
@[simp] theorem State.die_setPort (s : State) (tid : Nat) (t : Port) (k : Nat) : (s.setPort tid t).die k = s.die k := rfl
@[simp] theorem State.ctx_setPort (s : State) (tid : Nat) (t : Port) (k : Nat) : (s.setPort tid t).ctx k = s.ctx k := rfl
@[simp] theorem State.th_setTh (s : State) (t : Thread) : (s.setTh t).th = t := State.thread_setThread_same _ _ _
@[simp] theorem State.setTh_setTh (s : State) (t u : Thread) : (s.setTh t).setTh u = s.setTh u := State.setThread_setThread_same s s.cur t u
@[simp] theorem State.co_setCo (s : State) (c : Core) : (s.setCo c).co = c := State.core_setCore_same _ _ _
@[simp] theorem State.th_setCo (s : State) (c : Core) : (s.setCo c).th = s.th := rfl
@[simp] theorem State.co_setTh (s : State) (t : Thread) : (s.setTh t).co = s.co := rfl
@[simp] theorem State.th_setCore (s : State) (g : Nat) (c : Core) : (s.setCore g c).th = s.th := rfl
@[simp] theorem State.th_setCtx (s : State) (c : Nat) (v : Ctx) : (s.setCtx c v).th = s.th := rfl
@[simp] theorem State.th_setCluster (s : State) (c : Nat) (v : Cluster) : (s.setCluster c v).th = s.th := rfl
@[simp] theorem State.th_setLaunch (s : State) (l : Launch) : (s.setLaunch l).th = s.th := rfl
@[simp] theorem State.myCore_setTh (s : State) (t : Thread) : (s.setTh t).myCore = s.myCore := rfl
@[simp] theorem State.thread_setTh (s : State) (t : Thread) (k : Nat) : (s.setTh t).thread k = if k = s.cur then t else s.thread k := tget_tset _ _ _ _ _

end Sys2Proof.Machine
end

