-- ==== Sys2Proof/Laws/Fetch.lean ====
section
/-! SUPPORT. Laws/Fetch.lean: a translation and a fetch leave the thread sets as they were. -/
namespace Sys2Proof.Machine

theorem tlbLookup_frame {s s' : State} {g c v : Nat} {e : TlbEntry} (h : tlbLookup s g c v = some (s', e)) :
    s'.threads = s.threads ∧ s'.cur = s.cur ∧ s'.mem = s.mem := by
  simp only [tlbLookup] at h
  split at h
  · simp only [Option.some.injEq, Prod.mk.injEq] at h
    obtain ⟨rfl, -⟩ := h
    exact ⟨rfl, rfl, rfl⟩
  · split at h
    · simp only [Option.some.injEq, Prod.mk.injEq] at h
      obtain ⟨rfl, -⟩ := h
      exact ⟨rfl, rfl, rfl⟩
    · split at h
      · simp only [Option.some.injEq, Prod.mk.injEq] at h
        obtain ⟨rfl, -⟩ := h
        exact ⟨rfl, rfl, rfl⟩
      · cases h
theorem xlateThread_frame {s s' : State} {tid c va : Nat} {e : TlbEntry} (h : xlateThread s tid c va = .hit s' e) :
    s'.threads = s.threads ∧ s'.cur = s.cur := by
  simp only [xlateThread, xlateOn] at h
  split at h
  · cases h
  · split at h
    · rename_i hl
      cases h
      exact ⟨(tlbLookup_frame hl).1, (tlbLookup_frame hl).2.1⟩
    · cases h

/-! ## Replay queues -/

theorem flushHub_frame (l b : List Arrived) (s : State) : (flushHub l b s).threads = s.threads ∧ (flushHub l b s).cur = s.cur := by
  induction l generalizing b s with
  | nil => exact ⟨rfl, rfl⟩
  | cons a r ih =>
    simp only [flushHub]
    split
    · split
      · exact ih _ _
      · exact ih _ _
    · exact ih _ _
theorem settleReplay_frame (s : State) : (settleReplay s).threads = s.threads ∧ (settleReplay s).cur = s.cur := by
  simp only [settleReplay]
  split
  · exact ⟨rfl, rfl⟩
  · exact flushHub_frame _ _ _
/-- Counting the words that enter the queues changes no thread set. -/
theorem countConflicts_frame (s : State) (k n : Nat) : (countConflicts s k n).threads = s.threads ∧ (countConflicts s k n).cur = s.cur := by
  simp only [countConflicts]
  induction wordsOf k n generalizing s with
  | nil => exact ⟨rfl, rfl⟩
  | cons w r ih =>
    simp only [List.foldl_cons]
    split
    · exact ⟨(ih _).1, (ih _).2⟩
    · exact ih s
theorem queueUp_frame (s : State) (w : Requester) (ks : List (Nat × Nat)) : (queueUp s w ks).threads = s.threads ∧ (queueUp s w ks).cur = s.cur := by
  have f : ∀ (l : List (Nat × Nat)) (s : State),
      (l.foldl (fun s k => countConflicts s k.1 k.2) s).threads = s.threads ∧ (l.foldl (fun s k => countConflicts s k.1 k.2) s).cur = s.cur := by
    intro l
    induction l with
    | nil => exact fun s => ⟨rfl, rfl⟩
    | cons k r ih =>
      intro s
      simp only [List.foldl_cons]
      exact ⟨(ih _).1.trans (countConflicts_frame s _ _).1, (ih _).2.trans (countConflicts_frame s _ _).2⟩
  simp only [queueUp]
  split
  · exact ⟨rfl, rfl⟩
  · exact f ks _
/-- An access that arrives changes no thread set. -/
theorem arrive_frame (s : State) (w : Requester) (ks : List (Nat × Nat)) : (arrive s w ks).1.threads = s.threads ∧ (arrive s w ks).1.cur = s.cur := by
  simp only [arrive]
  split
  · exact ⟨rfl, rfl⟩
  · split
    · exact ⟨(queueUp_frame _ _ _).1.trans (settleReplay_frame s).1, (queueUp_frame _ _ _).2.trans (settleReplay_frame s).2⟩
    · exact ⟨(flushHub_frame _ _ _).1.trans (settleReplay_frame s).1, (flushHub_frame _ _ _).2.trans (settleReplay_frame s).2⟩
/-- With no access in a queue and no home waking, an access does not wait. -/
theorem arrive_free {s : State} (w : Requester) (ks : List (Nat × Nat)) (h : s.replay.isEmpty = true) (hk : ks.any (fun k => homeWaits s k.1 k.2) = false) :
    arrive s w ks = (s, false) := by
  simp [arrive, h, hk]

theorem fetchParcel_frame {s s' : State} {a : Word} {p : BitVec 16} (h : fetchParcel s a = .ok s' p) :
    s'.threads = s.threads ∧ s'.cur = s.cur := by
  simp only [fetchParcel] at h
  split at h
  · split at h
    · cases h
    · cases h
    · rename_i hx
      have hf := xlateThread_frame hx
      split at h
      · split at h
        · cases h
          exact hf
        · split at h
          · cases h
          · rename_i ha
            have f := arrive_frame _ _ _ |>.imp (fun h1 => (congrArg (fun q => q.1.threads) ha).symm.trans h1)
              (fun h1 => (congrArg (fun q => q.1.cur) ha).symm.trans h1)
            split at h
            · cases h
            · cases h
              exact ⟨f.1.trans hf.1, f.2.trans hf.2⟩
      · cases h
  · cases h
theorem fetchInstr_frame {s s' : State} {a : Word} {d : Decoded} {n : Nat} (h : fetchInstr s a = .ok s' d n) :
    s'.threads = s.threads ∧ s'.cur = s.cur := by
  simp only [fetchInstr] at h
  split at h
  · cases h
  · cases h
  · rename_i h1
    have f1 := fetchParcel_frame h1
    split at h
    · split at h
      · cases h
      · cases h
      · rename_i h2
        have f2 := fetchParcel_frame h2
        split at h <;> cases h
        exact ⟨f2.1.trans f1.1, f2.2.trans f1.2⟩
    · split at h <;> cases h
      exact f1
theorem fetchInstr_th {s s' : State} {a : Word} {d : Decoded} {n : Nat} (h : fetchInstr s a = .ok s' d n) : s'.th = s.th := by
  have f := fetchInstr_frame h
  simp only [State.th, State.thread, f.1, f.2]

end Sys2Proof.Machine
end

