-- ==== Sys2Proof/Laws/Memory.lean ====
section
/-! SUPPORT. Laws/Memory.lean: reading a byte after writing one, and that every memory operation keeps the canonical form. -/
namespace Sys2Proof.Machine

/-! ## Reading back -/

theorem memGet_memPut_same (m : List Host.Cell) (k : Nat) (b : Byte) (h : Memory.wf m) : memGet (memPut m k b) k = b := by
  induction m with
  | nil => by_cases e : b = unlisted k <;> simp [memPut, memGet, e]
  | cons c r ih =>
    obtain ⟨k', b'⟩ := c
    have hr : ∀ c ∈ r, k' < c.1 := fun c hc => (List.pairwise_cons.mp h.1).1 c hc
    have none : ∀ (l : List Host.Cell), (∀ c ∈ l, k < c.1) → memGet l k = unlisted k := by
      intro l hl
      induction l with
      | nil => rfl
      | cons d q ihq =>
        have := hl d (List.mem_cons_self ..)
        simp only [memGet]
        rw [if_neg (by omega)]
        exact ihq (fun c hc => hl c (List.mem_cons_of_mem _ hc))
    simp only [memPut]
    split
    · rename_i hk
      split
      · rename_i e
        rw [e, none ((k', b') :: r)]
        intro c hc
        rcases List.mem_cons.mp hc with rfl | hc
        · exact hk
        · exact Nat.lt_trans hk (hr c hc)
      · simp [memGet]
    · split
      · rename_i e
        subst e
        split
        · rename_i e
          rw [e, none r hr]
        · simp [memGet]
      · rename_i h1 h2
        simp only [memGet]
        rw [if_neg (by omega)]
        exact ih ⟨(List.pairwise_cons.mp h.1).2, fun c hc => h.2 c (List.mem_cons_of_mem _ hc)⟩

theorem memGet_memPut_ne (m : List Host.Cell) (k j : Nat) (b : Byte) (h : j ≠ k) : memGet (memPut m k b) j = memGet m j := by
  induction m with
  | nil => by_cases e : b = unlisted k <;> simp [memPut, memGet, e, Ne.symm h]
  | cons c r ih =>
    obtain ⟨k', b'⟩ := c
    simp only [memPut]
    split
    · split
      · rfl
      · simp [memGet, Ne.symm h]
    · split
      · rename_i e
        subst e
        split <;> simp [memGet, Ne.symm h]
      · simp [memGet, ih]

/-! ## The canonical form -/

theorem mem_memPut (m : List Host.Cell) (k : Nat) (b : Byte) (c : Host.Cell) (h : c ∈ memPut m k b) : c ∈ m ∨ (c = (k, b) ∧ b ≠ unlisted k) := by
  induction m with
  | nil =>
    simp only [memPut] at h
    split at h
    · simp at h
    · exact .inr ⟨by simpa using h, ‹_›⟩
  | cons d r ih =>
    obtain ⟨k', b'⟩ := d
    simp only [memPut] at h
    split at h
    · split at h
      · exact .inl h
      · rcases List.mem_cons.mp h with h | h
        · exact .inr ⟨h, ‹_›⟩
        · exact .inl h
    · split at h
      · split at h
        · exact .inl (List.mem_cons_of_mem _ h)
        · rcases List.mem_cons.mp h with h | h
          · exact .inr ⟨h, ‹_›⟩
          · exact .inl (List.mem_cons_of_mem _ h)
      · rcases List.mem_cons.mp h with h | h
        · exact .inl (by rw [h]; exact List.mem_cons_self ..)
        · exact (ih h).imp (List.mem_cons_of_mem _) id

theorem Memory.wf_nil : Memory.wf [] := ⟨List.Pairwise.nil, by simp⟩

theorem Memory.wf_memPut (m : List Host.Cell) (k : Nat) (b : Byte) (h : Memory.wf m) : Memory.wf (memPut m k b) := by
  constructor
  · induction m with
    | nil => by_cases e : b = unlisted k <;> simp [memPut, e]
    | cons d r ih =>
      obtain ⟨k', b'⟩ := d
      have h1 := List.pairwise_cons.mp h.1
      have hr : Memory.wf r := ⟨h1.2, fun c hc => h.2 c (List.mem_cons_of_mem _ hc)⟩
      simp only [memPut]
      split
      · rename_i hk
        split
        · exact h.1
        · refine List.pairwise_cons.mpr ⟨?_, h.1⟩
          intro c hc
          rcases List.mem_cons.mp hc with rfl | hc
          · exact hk
          · exact Nat.lt_trans hk (h1.1 c hc)
      · split
        · rename_i e
          subst e
          split
          · exact h1.2
          · exact List.pairwise_cons.mpr ⟨h1.1, h1.2⟩
        · refine List.pairwise_cons.mpr ⟨?_, ih hr⟩
          intro c hc
          rcases mem_memPut r k b c hc with hc | ⟨rfl, _⟩
          · exact h1.1 c hc
          · simp only
            omega
  · intro c hc
    rcases mem_memPut m k b c hc with hc | ⟨rfl, hb⟩
    · exact h.2 c hc
    · exact hb

theorem Memory.wf_memPuts (bs : List Byte) (m : List Host.Cell) (k : Nat) (h : Memory.wf m) : Memory.wf (memPuts m k bs) := by
  induction bs generalizing m k with
  | nil => exact h
  | cons b r ih => exact ih _ _ (Memory.wf_memPut m k b h)

theorem Memory.wf_filter (m : List Host.Cell) (p : Host.Cell → Bool) (h : Memory.wf m) : Memory.wf (m.filter p) :=
  ⟨h.1.filter p, fun c hc => h.2 c (List.mem_filter.mp hc).1⟩

theorem Memory.wf_memZero (m : List Host.Cell) (k n : Nat) (h : Memory.wf m) : Memory.wf (memZero m k n) := by
  simp only [memZero]
  split
  · exact Memory.wf_filter m _ h
  · exact Memory.wf_memPuts _ m k h

theorem Memory.wf_memWrite (s : State) (k : Nat) (bs : List Byte) (h : Memory.wf s.mem) : Memory.wf (memWrite s k bs).mem :=
  Memory.wf_memPuts bs s.mem k h

/-! ## Several bytes -/

theorem memGet_memPuts_out (bs : List Byte) (m : List Host.Cell) (k j : Nat) (h : j < k ∨ k + bs.length ≤ j) :
    memGet (memPuts m k bs) j = memGet m j := by
  induction bs generalizing m k with
  | nil => rfl
  | cons b r ih =>
    simp only [List.length_cons] at h
    rw [memPuts, ih _ _ (by omega), memGet_memPut_ne _ _ _ _ (by omega)]

theorem memGets_memPuts_same (bs : List Byte) (m : List Host.Cell) (k : Nat) (h : Memory.wf m) : memGets (memPuts m k bs) k bs.length = bs := by
  induction bs generalizing m k with
  | nil => rfl
  | cons b r ih =>
    simp only [List.length_cons, memGets, memPuts]
    rw [ih _ _ (Memory.wf_memPut m k b h), memGet_memPuts_out r _ _ _ (.inl (by omega)), memGet_memPut_same m k b h]

theorem State.reset_memory_wf : Memory.wf State.reset.mem := Memory.wf_nil

end Sys2Proof.Machine
end

