-- ==== Sys2Proof/Laws/Quiet.lean ====
section
/-! SUPPORT. Laws/Quiet.lean: what the frames of Ops.lean do for a thread set that has nothing outstanding. -/
namespace Sys2Proof.Machine

/-! ## Masks -/

@[simp] theorem Mask.or_zero (m : Mask) : Mask.or m {} = m := by simp [Mask.or]
@[simp] theorem Mask.zero_or (m : Mask) : Mask.or {} m = m := by simp [Mask.or]
@[simp] theorem Mask.empty_or (m : Mask) : Mask.or { d := 0#16, j := 0#16 } m = m := Mask.zero_or m
@[simp] theorem Mask.or_empty (m : Mask) : Mask.or m { d := 0#16, j := 0#16 } = m := Mask.or_zero m

/-! ## What quiet says -/

theorem mem_tset {α : Type} (t : Tab α) (k : Nat) (v : α) (p : Nat × α) (h : p ∈ tset t k v) : p = (k, v) ∨ p ∈ t := by
  induction t with
  | nil => exact .inl (by simpa [tset] using h)
  | cons q r ih =>
    obtain ⟨k', v'⟩ := q
    simp only [tset] at h
    split at h
    · rcases List.mem_cons.mp h with h | h
      · exact .inl h
      · exact .inr (List.mem_cons_of_mem _ h)
    · split at h
      · rcases List.mem_cons.mp h with h | h
        · exact .inl h
        · exact .inr h
      · rcases List.mem_cons.mp h with h | h
        · exact .inr (by rw [h]; exact List.mem_cons_self ..)
        · exact (ih h).imp id (List.mem_cons_of_mem _)

theorem quiet_turn {s : State} (h : quiet s = true) : s.winRun = none := by
  simp only [quiet, Bool.and_eq_true] at h
  simpa using h.1.1.1.1.1.1.1.1
theorem quiet_window {s : State} (h : quiet s = true) : s.th.window = [] := by
  simp only [quiet, Bool.and_eq_true] at h
  simpa using h.1.1.1.1.1.1.1.2
theorem quiet_rep {s : State} (h : quiet s = true) : s.th.rep = none := by
  simp only [quiet, Bool.and_eq_true] at h
  simpa using h.1.1.1.1.1.1.2
theorem quiet_fol {s : State} (h : quiet s = true) : s.th.fol = none := by
  simp only [quiet, Bool.and_eq_true] at h
  simpa using h.1.1.1.1.1.2
theorem quiet_far {s : State} (h : quiet s = true) (f : Far) (hf : f ∈ s.far) : f.tid ≠ s.cur := by
  simp only [quiet, Bool.and_eq_true] at h
  simpa using List.all_eq_true.mp h.1.1.1.1.2 f hf
theorem quiet_alone {s : State} (h : quiet s = true) (p : Nat × Thread) (hp : p ∈ s.threads) (f : Following) (hf : p.2.fol = some f) :
    f.leader ≠ s.cur := by
  simp only [quiet, Bool.and_eq_true] at h
  have := List.all_eq_true.mp h.1.1.1.2 p hp
  rw [hf] at this
  simpa using this
theorem quiet_bound {s : State} (h : quiet s = true) (i : Nat) : boundUnit s i = none := by
  simp only [quiet, Bool.and_eq_true] at h
  by_cases hi : i < 4
  · simpa using List.all_eq_true.mp h.1.1.2 i (List.mem_range.mpr hi)
  · have : s.co.streams.toList.getD i none = none := by
      rw [List.getD_eq_default]
      simp
      omega
    simp only [boundUnit, this]
theorem quiet_bad {s : State} (h : quiet s = true) : s.th.bad = 0 := by
  simp only [quiet, Bool.and_eq_true] at h
  simpa using h.1.2
theorem quiet_misres {s : State} (h : quiet s = true) : s.th.misres = 0 := by
  simp only [quiet, Bool.and_eq_true] at h
  simpa using h.2
@[simp] theorem boundUnit_setTh (s : State) (t : Thread) (i : Nat) : boundUnit (s.setTh t) i = boundUnit s i := rfl

theorem quiet_entries {s : State} (h : quiet s = true) : s.th.entries = [] := by
  simp [Thread.entries, quiet_window h]
theorem quiet_farX {s : State} (h : quiet s = true) (r : Reg) : farPendX s s.cur r = false := by
  simp only [farPendX]
  rw [List.any_eq_false]
  intro f hf
  simp [quiet_far h f hf]
theorem quiet_farV {s : State} (h : quiet s = true) (r : Reg) : farPendV s s.cur r = false := by
  simp only [farPendV]
  rw [List.any_eq_false]
  intro f hf
  simp [quiet_far h f hf]
theorem quiet_regs {s : State} (h : quiet s = true) (rx wx : List Reg) : regsPend s rx wx = false := by
  simp [regsPend, quiet_farX h]
theorem quiet_pendStores {s : State} (h : quiet s = true) : pendStores s = [] := by
  simp [pendStores, quiet_bound h]
theorem quiet_acquire {s : State} (h : quiet s = true) : acquireOut s = false := by
  simp only [acquireOut]
  rw [List.any_eq_false]
  intro f hf
  simp [quiet_far h f hf]
/-- No access of a thread set that has nothing outstanding is held. -/
theorem quiet_access {s : State} (h : quiet s = true) (m : MemUse) : accessHeld s [] m = false := by
  have hr : releaseHeld s [] m = false := by
    simp only [releaseHeld, anyAccess, quiet_pendStores h, List.any_nil, Bool.or_false]
    rw [List.any_eq_false]
    intro f hf
    simp [quiet_far h f hf]
  simp [accessHeld, memHeld, anyAccess, quiet_pendStores h, quiet_acquire h, hr]
theorem quiet_blocked {s : State} (h : quiet s = true) (u : Use) : blockedBy s [] u = false := by
  simp [blockedBy, quiet_farX h, quiet_farV h, quiet_access h, localStoreHeld, anyAccess, quiet_pendStores h]
theorem quiet_readStream {s : State} (h : quiet s = true) (r : Reg) : isReadStream s r = false := by
  simp [isReadStream, quiet_bound h]
theorem quiet_inRep {s : State} (h : quiet s = true) : inRep s = false := by
  simp [inRep, quiet_rep h]

/-! ## Following -/

theorem tellFollowers_alone (s : State) (b : Broadcast) (h : ∀ p ∈ s.threads, ∀ f, p.2.fol = some f → f.leader ≠ s.cur) :
    tellFollowers s b = s := by
  unfold tellFollowers
  rw [if_neg]
  rw [Bool.not_eq_true, List.any_eq_false]
  intro p hp
  split
  · rename_i f hf
    simpa using h p hp f hf
  · simp
theorem detachFollowers_alone (s : State) (h : ∀ p ∈ s.threads, ∀ f, p.2.fol = some f → f.leader ≠ s.cur) :
    detachFollowers s s.cur = s := by
  unfold detachFollowers
  rw [if_neg]
  rw [Bool.not_eq_true, List.any_eq_false]
  intro p hp
  split
  · rename_i f hf
    simpa using h p hp f hf
  · simp
theorem alone_setTh {s : State} (h : quiet s = true) (t : Thread) (ht : t.fol = none) :
    ∀ p ∈ (s.setTh t).threads, ∀ f, p.2.fol = some f → f.leader ≠ (s.setTh t).cur := by
  intro p hp f hf
  rcases mem_tset _ _ _ _ hp with rfl | hp
  · simp [ht] at hf
  · exact quiet_alone h p hp f hf

/-! ## The frames -/

theorem checkRegs_quiet {s : State} (h : quiet s = true) (rx rv : List Reg) : checkRegs s rx rv = .ok s := by
  have : readErrors s rx rv = [] := by simp [readErrors, quiet_bad h]
  simp [checkRegs, this]

theorem checkUse_quiet {s : State} (h : quiet s = true) (u : Use) : checkUse s u = .ok s := by
  simp [checkUse, checkRegs_quiet h, checkResult, quiet_misres h, bind, Except.bind]

theorem streamReads_quiet {s : State} (h : ∀ i, boundUnit s i = none) (l : List Reg) : streamReads s l = .ok s := by
  simp only [streamReads]
  induction l.eraseDups with
  | nil => rfl
  | cons r l ih =>
    simp only [List.foldlM_cons, h, bind, Except.bind]
    exact ih
theorem streamWrites_quiet {s : State} (h : ∀ i, boundUnit s i = none) (l : List Reg) : streamWrites s l = .ok s := by
  simp only [streamWrites]
  induction l.eraseDups with
  | nil => rfl
  | cons r l ih =>
    simp only [List.foldlM_cons, h, bind, Except.bind]
    exact ih

/-- An effect that goes through and leaves the streams alone is what an instruction performs. -/
theorem perform_ok {s s2 : State} (h : quiet s = true) (u : Use) (eff : State → Eff) (he : eff s = .ok s2) (h2 : ∀ i, boundUnit s2 i = none) :
    perform s u eff = .ok s2 := by
  simp only [perform, streamReads_quiet (quiet_bound h)]
  simp only [bind, Except.bind, he, streamWrites_quiet h2]
theorem perform_stop {s : State} (h : quiet s = true) (u : Use) (eff : State → Eff) (x : Stop) (he : eff s = .error x) :
    perform s u eff = .error x := by
  have hr : (u.rv.any fun r => isReadStream s r) = false := by simp [quiet_readStream h]
  simp only [perform, streamReads_quiet (quiet_bound h)]
  cases x <;> simp [bind, Except.bind, he, hr]

/-- The end of an instruction whose effect is on the thread set's own record. -/
theorem finish_setTh {s : State} (h : quiet s = true) (t : Thread) (hf : t.fol = none) (hr : t.rep = none) (i : Instr) :
    finish (s.setTh t) i = s.setTh (t.past s.ilen) := by
  simp only [finish, counted, issued, State.th_setTh, State.setTh_setTh, hr, State.setTh_ilen]
  rw [tellFollowers_alone _ _ (alone_setTh h _ (by simpa using hf))]
  simp [Thread.past, Thread.wentTo, hr]
theorem finish_jump_setTh {s : State} (h : quiet s = true) (t : Thread) (hf : t.fol = none) (i : Instr) (a : Word) :
    finish (s.setTh t) i (some a) = s.setTh (t.wentTo a) := by
  simp only [finish, counted, issued, State.th_setTh, State.setTh_setTh]
  rw [tellFollowers_alone _ _ (alone_setTh h _ (by simpa using hf))]
  rfl
theorem finish_quiet {s : State} (h : quiet s = true) (i : Instr) : finish s i = s.setTh (s.th.past s.ilen) := by
  simp only [finish, counted, issued, State.th_setTh, State.setTh_setTh, quiet_rep h, State.setTh_ilen]
  rw [tellFollowers_alone _ _ (alone_setTh h _ (by simpa using quiet_fol h))]
  simp [Thread.past, Thread.wentTo, quiet_rep h]
theorem finish_jump {s : State} (h : quiet s = true) (i : Instr) (a : Word) : finish s i (some a) = s.setTh (s.th.wentTo a) := by
  simp only [finish, counted, issued, State.th_setTh, State.setTh_setTh]
  rw [tellFollowers_alone _ _ (alone_setTh h _ (by simpa using quiet_fol h))]
  rfl

theorem issueD_quiet {s : State} (h : quiet s = true) (i : Instr) (u : Use) (eff : Mask → State → Eff) :
    issueD i u eff s = settle i (perform s u (eff (useMask s u))) := by
  simp only [issueD, quiet_turn h, quiet_entries h, quiet_blocked h, checkUse_quiet h]
  rfl
theorem issueN_quiet {s : State} (h : quiet s = true) (i : Instr) (ban : Bool) (eff : State → Eff) : issueN i ban eff s = settle i (eff s) := by
  simp [issueN, quiet_entries h, quiet_inRep h]
theorem issueNR_quiet {s : State} (h : quiet s = true) (i : Instr) (ban : Bool) (rx wx : List Reg) (eff : State → Eff) :
    issueNR i ban rx wx eff s = settle i (eff s) := by
  simp only [issueNR, quiet_regs h, issueN_quiet h, checkRegs_quiet h]
  rfl
theorem issueB_quiet {s : State} (h : quiet s = true) (i : Instr) (rx wx : List Reg) (eff : State → State × Option Word) :
    issueB i rx wx eff s = .next (finish (eff s).1 i (eff s).2) := by
  simp [issueB, quiet_regs h, quiet_entries h, quiet_inRep h, checkRegs_quiet h]

@[simp] theorem Thread.putX_fol (t : Thread) (d : Reg) (v : Word) (m : Mask) : (t.putX d v m).fol = t.fol := by
  simp only [Thread.putX]; split <;> rfl
@[simp] theorem Thread.putX_rep (t : Thread) (d : Reg) (v : Word) (m : Mask) : (t.putX d v m).rep = t.rep := by
  simp only [Thread.putX]; split <;> rfl
@[simp] theorem Thread.putX_pc (t : Thread) (d : Reg) (v : Word) (m : Mask) : (t.putX d v m).pc = t.pc := by
  simp only [Thread.putX]; split <;> rfl

/-- An instruction that writes one x register. -/
theorem issueD_writeX {s : State} (h : quiet s = true) (i : Instr) (u : Use) (eff : Mask → State → Eff) (d : Reg) (m : Mask) (v : Word)
    (he : eff (useMask s u) s = .ok (wrX s m d v)) : issueD i u eff s = .next (afterX s d m v) := by
  rw [issueD_quiet h, perform_ok h u _ he (fun j => quiet_bound h j)]
  simp only [settle, wrX]
  rw [finish_setTh h _ (by simpa using quiet_fol h) (by simpa using quiet_rep h)]
  rfl
/-- An instruction that writes one v register. -/
theorem issueD_writeV {s : State} (h : quiet s = true) (i : Instr) (u : Use) (eff : Mask → State → Eff) (d : Reg) (m : Mask) (v : VWord)
    (he : eff (useMask s u) s = .ok (wrV s m d v)) : issueD i u eff s = .next (afterV s d m v) := by
  rw [issueD_quiet h, perform_ok h u _ he (fun j => quiet_bound h j)]
  simp only [settle, wrV]
  rw [finish_setTh h (s.th.putV d v m) (by simpa [Thread.putV] using quiet_fol h) (by simpa [Thread.putV] using quiet_rep h)]
  rfl
/-- A precise trap. -/
theorem issueD_trap {s : State} (h : quiet s = true) (i : Instr) (u : Use) (eff : Mask → State → Eff) (s2 : State) (c : Nat) (a : Word)
    (he : eff (useMask s u) s = .error (.trap s2 c a)) : issueD i u eff s = .next (takeTrap s2 c a) := by
  rw [issueD_quiet h, perform_stop h u _ _ he]
  rfl

end Sys2Proof.Machine
end

