-- ==== Sys2Proof/Laws/Access.lean ====
section
/-! SUPPORT. Laws/Access.lean: what the shared meanings of register forms, loads and stores do for a thread set with nothing
outstanding: a register form leaves afterX, a load at an own window the bytes there, a store afterStore. -/
namespace Sys2Proof.Machine

/-! ## Register forms -/

theorem aluRR_quiet {s : State} (h : quiet s = true) (i : Instr) (d a b : Reg) (f : Word → Word → Word) (v : Word) (hv : f (rdX s a) (rdX s b) = v) :
    aluRR i d a b f s = .next (afterX s d (masksOf s a b) v) := by
  subst hv
  exact issueD_writeX h i _ _ d _ _ (by simp [useMask, masksOf])

theorem aluRI_quiet {s : State} (h : quiet s = true) (i : Instr) (d a : Reg) (f : Word → Word) (v : Word) (hv : f (rdX s a) = v) :
    aluRI i d a f s = .next (afterX s d (maskOf s a) v) := by
  subst hv
  exact issueD_writeX h i _ _ d _ _ (by simp [useMask, maskOf])

/-! ## Own windows -/

theorem nearAt_key {s : State} {m : Mask} {a : Word} {n k : Nat} {r : Bool} (h : nearAt s m a n k r = true) :
    localKey s s.cur a n = .ok k ∧ localArrive s m k n = .ok s ∧ homeFails s k n r = none := by
  simp only [nearAt, Bool.and_eq_true] at h
  obtain ⟨⟨h1, h2⟩, h3⟩ := h
  split at h1
  · rename_i k' hk
    have : k' = k := by simpa using h1
    subst this
    refine ⟨hk, ?_, by simpa using h3⟩
    simp only [localFree, Bool.and_eq_true, beq_iff_eq, Bool.not_eq_true'] at h2
    have ha := arrive_free (s := s) (.thread s.cur s.pcNow) [(k', n)] h2.1.2 (by simpa using h2.2)
    simp [localArrive, h2.1.1.1, h2.1.1.2, ha]
  · cases h1

theorem localKey_own {s : State} {a : Word} {n k : Nat} (h : localKey s s.cur a n = .ok k) :
    (∃ o, decodeAddr s a = .ownTcm o) ∨ (∃ o, decodeAddr s a = .ownSpad o) := by
  simp only [localKey] at h
  split at h
  · cases h
  · split at h
    · rename_i o ho; exact .inl ⟨o, ho⟩
    · rename_i o ho; exact .inr ⟨o, ho⟩
    · cases h

theorem place_localKey {s : State} {a : Word} {n k : Nat} {rs : List Nat} (h : localKey s s.cur a n = .ok k) : place s a n rs = .ok (s, .near k) := by
  simp only [place]
  rcases localKey_own h with ⟨o, ho⟩ | ⟨o, ho⟩ <;> rw [ho] <;> simp [h]

/-! ## Loads -/

theorem loadEff_nearAt {s : State} {m : Mask} {a : Word} {n k : Nat} (d : Dest) (acq : Bool) (h : nearAt s m a n k true = true) :
    loadEff s m a n d acq = .ok (putDest s m d (memGets s.mem k n)) := by
  obtain ⟨h1, h2, h3⟩ := nearAt_key h
  simp only [loadEff, place_localKey h1, bind, Except.bind, localRead, h2, h3, memRead]

theorem useMask_load {s : State} (h : quiet s = true) (a : Reg) (u : Use) (hx : u.rx = [a]) (hv : u.rv = []) (hm : ∀ mu, u.mem = some mu → mu.store = false) : useMask s u = maskOf s a := by
  simp only [useMask, hx, hv, List.foldl, quiet_entries h, maskOf]
  cases hu : u.mem with
  | none => simp
  | some mu => simp [hm mu hu]

theorem scalarLoad_nearAt {s : State} (h : quiet s = true) (i : Instr) (d a : Reg) (off : BitVec 12) (n : Nat) (sg : Bool) (k : Nat)
   (hn : nearAt s (maskOf s a) (rdX s a + off.signExtend 64) n k true = true) :
   scalarLoad i d a off n sg s = .next (afterX s d (maskOf s a) (extendTo (8*n) sg (leNat (memGets s.mem k n)))) := by
  refine issueD_writeX h i _ _ d _ _ ?_
  rw [useMask_load h a _ rfl rfl (by rintro mu hm; cases hm; rfl)]
  exact loadEff_nearAt _ _ hn

theorem extendTo_signed (n v : Nat) (hn : 0 < n) : extendTo n true v = (BitVec.ofNat n v).signExtend 64 := by
  simp only [extendTo, toSigned, BitVec.signExtend, if_true]
  congr 1
  rw [BitVec.toInt_eq_toNat_cond, BitVec.toNat_ofNat]
  have : 2 ^ n = 2 * 2 ^ (n-1) := by cases n with | zero => omega | succ n => simp [Nat.pow_succ]; ring
  split <;> split <;> omega

theorem extendTo_unsigned (n v : Nat) (hn : n ≤ 64) : extendTo n false v = (BitVec.ofNat n v).zeroExtend 64 := by
  apply BitVec.eq_of_toNat_eq
  have : v % 2^n < 2^n := Nat.mod_lt _ (by positivity)
  have h2 : 2^n ≤ 2^64 := Nat.pow_le_pow_right (by omega) hn
  simp [extendTo]

/-! ## Stores -/

theorem perform_ok_of_cores {s s2 : State} (h : quiet s = true) (u : Use) (eff : State → Eff) (he : eff s = .ok s2) (h2 : s2.cores = s.cores) (h3 : s2.cur = s.cur) :
    perform s u eff = .ok s2 := perform_ok h u eff he (by intro i; simpa [boundUnit, State.co, State.core, State.myCore, h2, h3] using quiet_bound h i)

theorem storeEff_nearAt {s : State} {m : Mask} {a : Word} {k : Nat} (bs : List Byte) (h : nearAt s m a bs.length k false = true) :
    storeEff s m a bs = .ok (memWrite s k bs) := by
  obtain ⟨h1, h2, h3⟩ := nearAt_key h
  simp only [storeEff, place_localKey h1, bind, Except.bind, localWrite, h2, h3]

theorem quiet_memWrite (s : State) (k : Nat) (bs : List Byte) : quiet (memWrite s k bs) = quiet s := rfl

theorem natBytes_length (n v : Nat) : (natBytes n v).length = n := by
  induction n generalizing v with
  | zero => rfl
  | succ n ih => simp [natBytes, ih]

theorem issueD_store {s : State} (h : quiet s = true) (i : Instr) (u : Use) (eff : Mask → State → Eff) (k : Nat) (bs : List Byte) (he : eff (useMask s u) s = .ok (memWrite s k bs)) :
   issueD i u eff s = .next (afterStore s k bs) := by
  rw [issueD_quiet h, perform_ok_of_cores h u _ he rfl rfl]
  simp only [settle]
  rw [finish_quiet (by rw [quiet_memWrite]; exact h)]
  rfl

theorem useMask_store {s : State} (a b : Reg) (u : Use) (hx : u.rx = [a, b]) (hv : u.rv = []) (mu : MemUse) (hm : u.mem = some mu) (h : mu.store = true)
    (hw : mu.wide = false) : useMask s u = masksOf s a b := by
  simp only [useMask, hx, hv, List.foldl, masksOf, hm, h, hw]
  simp

end Sys2Proof.Machine
end

