-- ==== Sys2Proof/Laws/Canonical.lean ====
section
/-! SUPPORT. Laws/Canonical.lean: each definition that gives the memory of a device a new value keeps its canonical form. Every other
definition of the model changes memory only through these. -/
namespace Sys2Proof.Machine

theorem Memory.wf_foldl {α : Type} (f : List Host.Cell → α → List Host.Cell) (hf : ∀ m x, Memory.wf m → Memory.wf (f m x))
    (l : List α) (m : List Host.Cell) (h : Memory.wf m) : Memory.wf (l.foldl f m) := by
  induction l generalizing m with
  | nil => exact h
  | cons x r ih => exact ih _ (hf m x h)

theorem headerPut_wf (s : State) (c off v : Nat) (h : Memory.wf s.mem) : Memory.wf (headerPut s c off v).mem := Memory.wf_memWrite _ _ _ h

theorem moveBytes_wf (s : State) (k k' n : Nat) (h : Memory.wf s.mem) : Memory.wf (moveBytes s k k' n).mem := by
  simp only [moveBytes]
  split
  · exact Memory.wf_foldl _ (fun m x hm => Memory.wf_memPut m _ _ hm) _ _ (Memory.wf_memZero _ _ _ h)
  · exact Memory.wf_memPuts _ _ _ h

theorem zeroBank_wf (s : State) (c b : Nat) (h : Memory.wf s.mem) : Memory.wf (zeroBank s c b).mem := by
  simp only [zeroBank]
  generalize List.range 8192 = rows
  split
  · exact Memory.wf_filter _ _ h
  · exact Memory.wf_foldl _ (fun m x hm => Memory.wf_memPuts _ m _ hm) _ _ h

theorem zeroSegment_wf (s : State) (d g : Nat) (h : Memory.wf s.mem) : Memory.wf (zeroSegment s d g).mem := by
  simp only [zeroSegment]
  exact Memory.wf_memZero _ _ _ h

theorem refill_wf (s : State) (body : List Byte) (h : Memory.wf s.mem) : Memory.wf (refill s body).mem := by
  have put : ∀ (m : List Host.Cell) (k n : Nat) (bs : List Byte), Memory.wf m → Memory.wf (memPuts (memZero m k n) k bs) :=
    fun m k n bs hm => Memory.wf_memPuts _ _ _ (Memory.wf_memZero _ _ _ hm)
  unfold refill
  dsimp only
  refine Memory.wf_foldl _ (fun m d hm => put _ _ _ _ ?_) _ _ (Memory.wf_foldl _ (fun m x hm => put _ _ _ _ hm) _ _ h)
  exact Memory.wf_foldl _ (fun m x hm => put _ _ _ _ hm) _ _ (put _ _ _ _ hm)

theorem placeProgram_wf (s : State) (bs : List Byte) (h : Memory.wf s.mem) : Memory.wf (placeProgram s bs).mem := by
  simp only [placeProgram]
  exact Memory.wf_memPuts _ _ _ h

end Sys2Proof.Machine
end

