-- ==== Sys2Proof/Laws/Encoding.lean ====
section
/-! SUPPORT. Laws/Encoding.lean: fields put into a word and taken out again, and each immediate of the encoding tables put together
from the parts that its encoding splits it into. -/
namespace Sys2Proof

/-- Each field within its width. -/
def Fields.ok (f : Fields) : Prop := f.f7 < 128 ∧ f.b < 32 ∧ f.a < 32 ∧ f.f3 < 8 ∧ f.d < 32 ∧ f.op < 128

theorem unpackFields_packFields (f : Fields) (h : f.ok) : unpackFields (packFields f) = f := by
  obtain ⟨f7, b, a, f3, d, op⟩ := f
  simp only [Fields.ok, unpackFields, packFields] at *
  simp only [Fields.mk.injEq]
  omega

@[simp] theorem regOf_toNat (r : Reg) : regOf r.toNat = r := by simp [regOf]

@[simp] theorem imm12_split (i : BitVec 12) : imm12 (i.toNat / 32) (i.toNat % 32) = i := by
  apply BitVec.eq_of_toNat_eq; simp only [imm12, BitVec.toNat_ofNat]; have := i.isLt; omega

@[simp] theorem csr_split (i : BitVec 12) : BitVec.ofNat 12 (i.toNat / 32 * 32 + i.toNat % 32) = i := by
  apply BitVec.eq_of_toNat_eq; simp only [BitVec.toNat_ofNat]; have := i.isLt; omega

@[simp] theorem immB_split (i : BitVec 12) : immB (i.toNat / 2048 * 64 + i.toNat / 16 % 64) (i.toNat % 16 * 2 + i.toNat / 1024 % 2) = i := by
  apply BitVec.eq_of_toNat_eq; simp only [immB, BitVec.toNat_ofNat]; have := i.isLt
  generalize i.toNat = x at *
  have h1 : (x / 2048 * 64 + x / 16 % 64) / 64 = x / 2048 := by omega
  have h2 : (x / 2048 * 64 + x / 16 % 64) % 64 = x / 16 % 64 := by omega
  have h3 : (x % 16 * 2 + x / 1024 % 2) % 2 = x / 1024 % 2 := by omega
  have h4 : (x % 16 * 2 + x / 1024 % 2) / 2 = x % 16 := by omega
  rw [h1, h2, h3, h4]; omega

@[simp] theorem immJ_split (i : BitVec 20) : immJ (i.toNat / 524288 * 64 + i.toNat / 16 % 64) (i.toNat % 16 * 2 + i.toNat / 1024 % 2) (i.toNat / 16384 % 32) (i.toNat / 2048 % 8) = i := by
  apply BitVec.eq_of_toNat_eq; simp only [immJ, BitVec.toNat_ofNat]; have := i.isLt
  generalize i.toNat = x at *
  have h1 : (x / 524288 * 64 + x / 16 % 64) / 64 = x / 524288 := by omega
  have h2 : (x / 524288 * 64 + x / 16 % 64) % 64 = x / 16 % 64 := by omega
  have h3 : (x % 16 * 2 + x / 1024 % 2) % 2 = x / 1024 % 2 := by omega
  have h4 : (x % 16 * 2 + x / 1024 % 2) / 2 = x % 16 := by omega
  rw [h1, h2, h3, h4]; omega

@[simp] theorem immU_split (i : BitVec 20) : immU (i.toNat / 8192) (i.toNat / 256 % 32) (i.toNat / 8 % 32) (i.toNat % 8) = i := by
  apply BitVec.eq_of_toNat_eq; simp only [immU, BitVec.toNat_ofNat]; have := i.isLt; omega

theorem bit_cases (v : BitVec 1) : v = 0 ∨ v = 1 := by revert v; decide

@[simp] theorem shamt6_split (s : BitVec 6) : BitVec.ofNat 6 (s.toNat / 32 * 32 + s.toNat % 32) = s := by
  apply BitVec.eq_of_toNat_eq; simp only [BitVec.toNat_ofNat]; have := s.isLt; omega

theorem shamt6_top (s : BitVec 6) : s.toNat / 32 = 0 ∨ s.toNat / 32 = 1 := by have := s.isLt; omega

end Sys2Proof
end

