-- ==== Sys2Proof/Laws/Lanes.lean ====
section
/-! SUPPORT. Laws/Lanes.lean: the lanes of a register that is packed from lanes (R126), and what an instruction on lanes gives. -/
namespace Sys2Proof.Machine

theorem packNat_lt (w : Nat) (l : List Nat) : packNat w l < 2 ^ (w * l.length) := by
  induction l with
  | nil => simp [packNat]
  | cons a r ih =>
    simp only [packNat, List.length_cons]
    have h1 : a % 2 ^ w < 2 ^ w := Nat.mod_lt _ (by positivity)
    have h2 : 2 ^ (w * (r.length + 1)) = 2 ^ w * 2 ^ (w * r.length) := by rw [← pow_add]; congr 1; ring
    rw [h2]
    calc a % 2 ^ w + 2 ^ w * packNat w r < 2 ^ w + 2 ^ w * packNat w r := by omega
      _ = 2 ^ w * (packNat w r + 1) := by ring
      _ ≤ 2 ^ w * 2 ^ (w * r.length) := Nat.mul_le_mul_left _ ih

theorem packNat_digit (w : Nat) (l : List Nat) (j : Nat) (h : j < l.length) : packNat w l / 2 ^ (w * j) % 2 ^ w = l.getD j 0 % 2 ^ w := by
  induction l generalizing j with
  | nil => simp at h
  | cons a r ih =>
    cases j with
    | zero => simp [packNat, Nat.add_mul_mod_self_left]
    | succ j =>
      have h2 : 2 ^ (w * (j + 1)) = 2 ^ w * 2 ^ (w * j) := by rw [← pow_add]; congr 1; ring
      have h1 : a % 2 ^ w / 2 ^ w = 0 := Nat.div_eq_of_lt (Nat.mod_lt _ (by positivity))
      simp only [packNat]
      rw [h2, ← Nat.div_div_eq_div_mul, Nat.add_mul_div_left _ _ (by positivity), h1, Nat.zero_add, ih j (by simpa using h)]
      simp

theorem packV_toNat (w : Nat) (l : List Nat) (h : w * l.length ≤ 128) : (packV w l).toNat = packNat w l := by
  simp only [packV, BitVec.toNat_ofNat]
  exact Nat.mod_eq_of_lt (lt_of_lt_of_le (packNat_lt w l) (Nat.pow_le_pow_right (by decide) h))

theorem lane_packV (w : Nat) (l : List Nat) (j : Nat) (hl : w * l.length ≤ 128) (h : j < l.length) :
    lane w (packV w l) j = l.getD j 0 % 2 ^ w := by
  simp only [lane, packV_toNat w l hl, packNat_digit w l j h]

theorem lane_lt (w : Nat) (x : VWord) (j : Nat) : lane w x j < 2 ^ w := Nat.mod_lt _ (by positivity)

theorem packV_map (w : Nat) (f : Nat → Nat) (n j : Nat) (hn : w * n ≤ 128) (h : j < n) :
    lane w (packV w ((List.range n).map f)) j = f j % 2 ^ w := by
  rw [lane_packV w _ j (by simpa using hn) (by simpa using h)]
  simp [h]

theorem lanesOf_zip (w : Nat) (x y : VWord) (f : Nat → Nat → Nat) :
    (lanesOf w x).zipWith f (lanesOf w y) = (List.range (128 / w)).map (fun j => f (lane w x j) (lane w y j)) := by
  simp [lanesOf, List.zipWith_map, List.zipWith_self]

theorem mul_div_le (w : Nat) : w * (128 / w) ≤ 128 := Nat.mul_div_le 128 w

/-- A register that takes packed lanes. -/
theorem givesLanes {s : State} (h : quiet s = true) (i : Instr) (u : Use) (eff : Mask → State → Eff) (d : Reg) (m : Mask) (w : Nat)
    (g f : Nat → Nat) (hx : exec i s = issueD i u eff s) (he : eff (useMask s u) s = .ok (wrV s m d (packV w ((List.range (128 / w)).map g))))
    (hf : ∀ j, j < 128 / w → g j % 2 ^ w = f j) : GivesLanes i s d m w f := by
  refine ⟨_, hx.trans (issueD_writeV h i u eff d m _ he), fun j hj => ?_⟩
  rw [packV_map w g _ j (mul_div_le w) hj, hf j hj]

end Sys2Proof.Machine
end

