-- ==== Sys2Proof/Tests/Slice0.lean ====
section
/-! SUPPORT. Tests/Slice0.lean: for every statement a state in which its hypotheses hold (`witness_…`), words of the encoding tables worked
out by hand, an ill-formed term for each check of WellFormed, and single steps whose results are worked out from the rules cited. -/
namespace Sys2Proof.Tests
open Sys2Proof Sys2Proof.Machine
set_option Elab.async false

/-! ## States to test on

`tS` is a thread set of a resident launch on core 0 in kernel mode, at the address of a placed word; the others differ from it by what
their arguments say. -/

/-- A thread set in kernel mode with nothing outstanding, which is to execute the word at its PC. -/
def tS : State := State.reset.withFetchWord 32 0x00000013
/-- The same with an x register. -/
def tX (s : State) (r : Reg) (v : Word) : State := s.setTh (s.th.putX r v {})
/-- The same with a change of the thread set's record. -/
def tT (s : State) (f : Thread → Thread) : State := s.setTh (f s.th)
/-- The first address of the own TCM and of the own scratchpad (R147). -/
def tTcm : Word := 0x0000FFFFFFFE0000
def tSpad : Word := 0x0000FFFFFF800000
/-- Whether an outcome is a next state of which a test holds. -/
def nextAnd (o : Host.Outcome State Fault Refusal) (p : State → Bool) : Bool := match o with | .next t => p t | _ => false
/-- Whether a computation that may fail gave a value of which a test holds. -/
def okAnd {ε α : Type} (o : Except ε α) (p : α → Bool) : Bool := match o with | .ok a => p a | .error _ => false
/-- x5 at the own TCM. -/
def tM : State := tX tS 5 tTcm
/-- x5 at a page of HBM that the translation of the thread set holds. -/
def tF : State := tX tS 5 0x10040

/-! ## Hypotheses that are met: steps, registers, memory -/

/-- The state of an outcome of which a test holds. -/
theorem nextAnd_next {o : Host.Outcome State Fault Refusal} {p : State → Bool} (h : nextAnd o p = true) : ∃ t, o = .next t := by
  cases o with
  | next t => exact ⟨t, rfl⟩
  | fault _ => exact absurd h (by simp [nextAnd])
  | refused _ => exact absurd h (by simp [nextAnd])
theorem witness_StepKeepsMemoryCanonical : Memory.wf tS.mem ∧ (∃ t, step tS = .next t) :=
  ⟨by decide, nextAnd_next (p := fun _ => true) (by decide +kernel)⟩
theorem witness_DecodeOfEncode : (Instr.vadd 1 2 3 3).wf = true ∧ encode32 (.vadd 1 2 3 3) = some 0x0031308B := by decide
theorem witness_CompressedExpands : expandCompressed 0x0505 = some (.addi 10 10 1) ∧ quiet tS = true ∧
    expandCompressed 0x2000 = none ∧ tS.th.entries = [] ∧ (0x2000 : BitVec 16).toNat / 8192 = 1 ∧ (0xA002 : BitVec 16).toNat % 4 = 2 := by decide
/-- The three kinds of word of StepRunsDecoded. -/
def tRuns (w : Nat) (p : Decoded → Bool) : Bool :=
  let s := State.reset.withFetchWord 32 w
  s.turn == some 0 && s.pkg.power == .ready && readyOn s 0 == some 0 && atPlainPc (turnOf s 0) &&
    (match fetchInstr (turnOf s 0) (turnOf s 0).th.pc with | .ok _ d 4 => p d | _ => false)
theorem witness_StepRunsDecoded : tRuns 0x00000013 (fun d => d == .ok (.addi 0 0 0)) = true ∧ tRuns 0xFFFFFFFB (fun d => d == .illegal) = true ∧
    tRuns 0x000060FB (fun d => d == .reserved true) = true ∧ tRuns 0x000070FB (fun d => d == .reserved false) = true := by decide +kernel
/-- A device in a power state, with events waiting outside. -/
def tPow (p : Power) (l : List (Instr × EvIn)) : State := { State.reset with pkg := { State.reset.pkg with power := p }, pending := l }
theorem witness_StepTakesEvent : (tPow .ready [(.doorbell, {})]).turn = none ∧ autoEvents (begun (tPow .ready [(.doorbell, {})])) = [] ∧
    reaches .ready .doorbell = true ∧ reaches .off .doorbell = false ∧ reaches .off .matins = true ∧ reaches .frozen .twilightRead = true ∧
    (tPow .off [(.doorbell, {})]).pkg.power ≠ .ready ∧ (tPow .off []).pending = [] := by decide
theorem witness_IntegerRegisterForms : quiet tS = true := by decide
theorem witness_MultiplyDivide : quiet tM = true ∧ (0 : Word) = 0 ∧ BitVec.intMin 64 = (0x8000000000000000 : Word) ∧
    (7 : Word) ≠ 0 ∧ ¬((5 : Word) = BitVec.intMin 64 ∧ (7 : Word) = BitVec.allOnes 64) := by decide
theorem witness_IntegerImmediateForms : quiet (tX tS 31 0xFFFFFFFFFFFFFFFF) = true := by decide
theorem witness_IntegerWordForms : quiet (tX tS 1 0x80000000) = true := by decide
theorem witness_BranchesAndJumps : quiet (tX tS 1 3) = true ∧ rdX (tX tS 1 3) 1 ≠ rdX (tX tS 1 3) 2 ∧ rdX tS 1 = rdX tS 2 := by decide
theorem witness_FrameOfRegisterResults : (1 : Reg) ≠ 0 ∧ afterX tS 1 {} 7 ≠ afterV tS 1 {} 7 ∧ afterX tS 1 {} 7 ≠ afterJump tS 0 ∧
    afterV tS 1 {} 7 ≠ afterX tS 1 {} 7 ∧ afterJump tS 0 ≠ afterX tS 1 {} 7 ∧ (1 : Nat) ≠ tS.cur := by decide
/-- The first and the last bytes of the own TCM, and its first row read by vl.tr. -/
theorem witness_LocalLoads : quiet tM = true ∧
    nearAt tM (maskOf tM 5) (rdX tM 5 + (0 : BitVec 12).signExtend 64) 16 tcmBase true = true ∧
    nearAt (tX tM 5 (tTcm + 0x1FFFF)) (maskOf tM 5) (tTcm + 0x1FFFF) 1 (tcmBase + 0x1FFFF) true = true ∧
    nearAt tM (maskOf tM 5) tTcm 2 tcmBase true = true ∧ nearAt tM (maskOf tM 5) tTcm 4 tcmBase true = true ∧
    nearAt tM (maskOf tM 5) tTcm 8 tcmBase true = true ∧ nearAt tM (maskOf tM 5) tTcm 1 tcmBase true = true := by decide
theorem witness_LocalLoads_row : quiet tM = true ∧ [tcmBase, tcmBase + 8].length = 16 / 2 ^ (3 : BitVec 2).toNat ∧
    (∀ j (h : j < [tcmBase, tcmBase + 8].length),
      nearAt tM (maskOf tM 5) (rdX tM 5 + BitVec.ofNat 64 (j * (8 : BitVec 10).toNat)) (2 ^ (3 : BitVec 2).toNat) [tcmBase, tcmBase + 8][j] true = true ∧
      rowOf tM (rdX tM 5 + BitVec.ofNat 64 (j * (8 : BitVec 10).toNat)) = rowOf tM (rdX tM 5)) := by decide
theorem witness_LocalStores : quiet tM = true ∧ Memory.wf tM.mem ∧ (1 : Nat) ≠ tM.cur ∧
    (∀ n ∈ [1, 2, 4, 8], nearAt tM (masksOf tM 5 6) (rdX tM 5 + (0 : BitVec 12).signExtend 64) n tcmBase false = true) ∧
    nearAt tM ((maskOf tM 5).or (tM.th.maskV 6)) (rdX tM 5 + (0 : BitVec 12).signExtend 64) 16 tcmBase false = true := by decide
/-- Beyond the own TCM; an address that no row decodes; a word with an uncorrectable error; a bank that is off. -/
def tBad : State := { tX tM 5 (tTcm + 4) with poison := [tcmBase] }
/-- Whether a target is an offset of the own TCM, or of the own scratchpad. -/
def tOwn (x : Target) (spad : Bool) (n : Nat) : Bool := match x with | .ownTcm o => !spad && o == n | .ownSpad o => spad && o == n | _ => false
def tOff : State := (tX tS 5 tSpad).setCluster 0 { tS.cluster 0 with off := 1 }
theorem witness_LocalAccessTraps : quiet (tX tS 5 (tTcm + 0x1FFFF)) = true ∧ isLocalAddr tS (tTcm + 0x1FFFF) = true ∧
    localKey tS tS.cur (tTcm + 0x1FFFF) 8 = .error 0x11 ∧ decodeAddr tS (tTcm + 0x1FFFF) = .ownTcm 0x1FFFF ∧
    (launchOf tS tS.cur).bind (fun l => tcmAllot l (coreOf tS.cur)) = some (0, 0x20000) ∧
    decodeAddr tS 0xFFF300000000 = .nowhere := by decide
/-- An own TCM of 4 KiB and an own scratchpad of 64 KiB, with x5 behind the one or the other. -/
def tTight (a : Word) : State := let s := tX tS 5 a
  { s with launches := s.launches.map (fun (l : Launch) => { l with packet := l.packet.set 4 65 }) }
theorem witness_LocalAccessTraps_allotment : [(tTcm + 0x1000, false, 0x1000), (tSpad + 0x10000, true, 0x10000)].all (fun p =>
    quiet (tTight p.1) && isLocalAddr (tTight p.1) p.1 && (match localKey (tTight p.1) 0 p.1 1 with | .error c => c == 0x11 | .ok _ => false) &&
    tOwn (decodeAddr (tTight p.1) p.1) p.2.1 p.2.2 &&
    (launchOf (tTight p.1) 0).any (fun l => (if p.2.1 then spadAllot l 0 else tcmAllot l 0).any (fun q => q.2 == p.2.2))) = true := by decide +kernel
theorem witness_LocalAccessTraps_home : quiet tBad = true ∧ localKey tBad tBad.cur (rdX tBad 5) 8 = .ok (tcmBase + 4) ∧
    localFree tBad (masksOf tBad 5 6) (tcmBase + 4) 8 = true ∧ localFree tBad (maskOf tBad 5) (tcmBase + 4) 8 = true ∧
    homeFails tBad (tcmBase + 4) 8 true = some 0x61 ∧ homeFails tBad (tcmBase + 4) 8 false = some 0x61 ∧
    quiet tOff = true ∧ localKey tOff tOff.cur (rdX tOff 5) 8 = .ok spadBase ∧ homeFails tOff spadBase 8 true = some 0x14 ∧
    tOff.cur < 16384 ∧ tOwn (decodeAddr tOff (rdX tOff 5)) true 0 = true ∧ (spadKey tOff 0 0 == spadBase) = true ∧ localFree tOff (masksOf tOff 5 6) spadBase 8 = true ∧
    localFree tOff (maskOf tOff 5) spadBase 8 = true ∧ (launchOf tOff tOff.cur).any (fun l => (spadAllot l 0).any (fun p => p.1 == 0 && decide (8 ≤ p.2))) = true ∧
    (tOff.cluster 0).off.getLsbD (spadBank (tOff.cluster 0) 7) = true ∧
    (∀ w ∈ wordsOf (tcmBase + 4) 8, gateState tBad w ≠ 2) ∧ tBad.poison.contains tcmBase = true ∧ tcmBase % 8 = 0 ∧ isHbm tcmBase = false ∧ ¬(tcmBase + 4 ≤ tcmBase) := by decide +kernel
/-- A store of the whole unit that has the error. -/
theorem witness_LocalAccessTraps_whole : let s : State := { tM with poison := [tcmBase] }
    quiet s = true ∧ okAnd (localKey s s.cur (rdX s 5) 8) (fun k => k == tcmBase) = true ∧ localFree s (masksOf s 5 6) tcmBase 8 = true ∧ gateState s tcmBase ≠ 2 := by decide +kernel
/-- An access of HBM through a translation that the core holds. -/
theorem witness_FarLoads : quiet tF = true ∧ buffers tF = false ∧ inOrdered tF tF.cur = false ∧ freeSlot tF.th = some 0 ∧
    okAnd (place tF (rdX tF 5 + (0 : BitVec 12).signExtend 64) 8 [rightRD]) (fun p => match p.2 with | .far ks => ks == [(0x10040, 8)] | _ => false) = true ∧
    (rdX tF 5).toNat % 8 = 0 ∧ (Instr.ldAcq 6 5, 8, Dest.x 6 64 true, true) = (.ldAcq 6 5, 8, .x 6 64 true, true) := by decide
theorem witness_FarStores : quiet tF = true ∧ buffers tF = false ∧ inOrdered tF tF.cur = false ∧
    okAnd (place tF (rdX tF 5 + (0 : BitVec 12).signExtend 64) 8 [rightWR]) (fun p => match p.2 with | .far ks => ks == [(0x10040, 8)] | _ => false) = true ∧
    (natBytes 8 (rdX tF 6).toNat).length = 8 := by decide
/-! ## Hypotheses that are met: atomics, CSRs, traps, fences -/

theorem witness_LocalAtomics : quiet tM = true ∧ (rdX tM 5).toNat % 4 = 0 ∧ (rdX tM 5).toNat % 8 = 0 ∧
    nearAt tM (masksOf tM 5 6) (rdX tM 5) 4 tcmBase true = true ∧ nearAt tM (masksOf tM 5 6) (rdX tM 5) 8 tcmBase true = true ∧
    quiet tBad = true ∧ (rdX (tX tM 5 (tTcm + 2)) 5).toNat % 4 ≠ 0 ∧ (rdX tBad 5).toNat % 8 ≠ 0 ∧
    (0 : Nat) < tcmBase ∧ tcmBase + 8 ≤ tcmBase + 8 := by decide
/-- A thread set in task mode. -/
def tTask : State := tT tS (fun t => { t with kernel := false })
theorem witness_CsrInstructions : quiet tS = true ∧ csrKind (0x001 : BitVec 12).toNat = .rw false ∧
    csrKind (0x105 : BitVec 12).toNat = .rw true ∧ tS.th.kernel = true ∧ (5 : Reg) ≠ 0 ∧ (5 : BitVec 5) ≠ 0 ∧
    csrKind (0xCC0 : BitVec 12).toNat = .ro false ∧ csrKind (0xDC1 : BitVec 12).toNat = .ro true := by decide
theorem witness_CsrInstructions_traps : tS.th.window = [] ∧ csrKind (0xFFF : BitVec 12).toNat = .absent ∧
    tTask.th.window = [] ∧ tTask.th.kernel = false ∧ csrKind (0x105 : BitVec 12).toNat = .rw true := by decide
/-- A trap vector; a follower of this thread set; entries of the window, one of them held after a deferred trap. -/
def tVec : State := tT tS (fun t => { t with tvec := 0x12340 })
def tFollowed : State := tVec.setThread 1 { tS.thread 1 with fol := some { leader := 0 } }
def tEntry (n : Nat) : WinEntry := { instr := .add 1 2 3, pc := 0x10000, len := 4, use := {}, held := n }
theorem witness_TrapEntry : tVec.th.tvec ≠ 0 ∧ tS.th.tvec = 0 ∧ 0x7F < 128 ∧ (1 : Nat) ≠ tFollowed.cur ∧
    (tFollowed.thread 1).fol = some { leader := 0 } ∧ ({ pc := 0x10000, code := 0x30, faddr := 0 } : DefTrap).code < 128 := by decide
/-- An error in x5 on a core of whose thread sets the launch uses some. -/
def tRegBad (ts : List Nat) : State := let s := tT tS (fun t => { t with bad := 32 })
  { s with launches := s.launches.map (fun (l : Launch) => { l with cores := l.cores.map (fun (a : CoreAllot) => { a with ts := ts }) }) }
theorem witness_TrapEntry_registerError : ∀ p ∈ [([0], true), ([0, 1, 2, 3], false)], quiet ((tRegBad p.1).setTh { (tRegBad p.1).th with bad := 0 }) = true ∧ (5 : Reg) ≠ 0 ∧
    (tRegBad p.1).th.bad.getLsbD (5 : Reg).toNat = true ∧ hasCopy (tRegBad p.1) = p.2 := by decide
theorem witness_TrapEntry_result : ∀ n ∈ [1, 2], let s := tT tS (fun t => { t with misres := n }); quiet (s.setTh { s.th with misres := 0 }) = true ∧
    s.th.misres = n ∧ (5 : Reg) ≠ 0 := by decide +kernel
/-- A breakpoint at the PC. -/
def tBp : State := { tS with pkg := { tS.pkg with features := 4 }, dbg := { tS.dbg with
  en := true, bps := tS.dbg.bps.set 0 (BitVec.ofNat 64 (2 ^ 63 + 0x10000), 0) } }
theorem witness_EcallEbreakTrap : tVec.th.window = [] ∧ tVec.th.rep = none ∧ tVec.th.tvec ≠ 0 ∧ tS.th.tvec = 0 ∧
    nextAnd (exec .ecall tVec) (fun t => t == takeTrap tVec 0x04) = true ∧ nextAnd (exec .ebreak tVec) (fun t => t == takeTrap tVec 0x70) = true ∧
    tBp.th.defTrap = none ∧ tBp.th.drain = false ∧ tBp.th.begun = none ∧ xltWaits tBp tBp.cur = false ∧ tBp.th.entries.length < 16 ∧ breakpointHit tBp = true ∧ (tT tBp (fun t => { t with noMatch := true })).th.noMatch = true := by decide +kernel
/-- In kernel mode with a deferred trap that has not returned and an entry it holds back. -/
def tDef : State := tT tVec (fun t => { t with cause := BitVec.ofNat 64 (2 ^ 62 + 0x30), window := [tEntry 1], tdepth := 1 })
/-- The same once the entry has executed, and where one of an outer trap is left. -/
def tDone : State := tT tDef (fun t => { t with window := [], drain := true })
def tOuter : State := tT tDef (fun t => { t with window := [tEntry 1], tdepth := 2, drain := true })
theorem witness_TrapReturn : (∀ s ∈ [tS, tDef, tDone, tOuter], s.th.kernel = true ∧ s.th.window.any (fun e => e.held == 0) = false ∧ inRep s = false ∧ s.th.fol = none ∧
      (s.threads.all (fun p => p.2.fol.isNone)) = true) ∧
    bitOf tS.th.cause 62 = false ∧ bitOf tDef.th.cause 62 = true ∧ tDef.th.window.any tDef.th.drains = true ∧
    (∀ s ∈ [tDone, tOuter], bitOf s.th.cause 62 = true ∧ s.th.window.any s.th.drains = false ∧ mayTurn s s.ev.n = true ∧ onlyAt s s.ev.n = none ∧
      (s.thread s.ev.n).defTrap = none ∧ (s.thread s.ev.n).drain = true ∧ (s.thread s.ev.n).window.any (s.thread s.ev.n).drains = false) ∧
    tTask.th.kernel = false ∧ tTask.th.window = [] ∧ (tT tDef (fun t => { t with drain := true })).th.drain = true := by decide +kernel
/-- A far load on its way, of this device or of another. -/
def tFar (dev : Nat) : Far := {
  id := 0, tid := 0, ctx := 0, kernel := true, wid := 0, pc := 0, kind := .load, addr := 0x10040, dev := dev
  pieces := [{ key := 0x10040, pos := 0, len := 8 }], data := [], dest := .x 7 64 false, slot := some 0, taint := 0 }
def tWait (dev : Nat) : State := { tS with far := [tFar dev] }
theorem witness_PlainFences : quiet tS = true ∧ (0 : BitVec 4) = 0 ∧ (3 : BitVec 4) ≠ 0 ∧
    (∀ s ∈ [tS, tWait 0, tWait 2], s.th.rep = none ∧ s.winRun = none ∧ (s.threads.all (fun p => p.2.fol.isNone)) = true ∧ s.th.entries = []) ∧
    fenceHeld (tWait 0) 4 true true = true ∧ fenceHeld tS 4 true true = false ∧ (tT tS (fun t => { t with window := [tEntry 0] })).th.entries ≠ [] ∧
    (tFar 0).tid = (tWait 0).cur ∧ (tFar 0).over = false ∧ (∃ p ∈ (tFar 0).pieces, p.done = false) ∧ (tFar 0).kind.named true true = true ∧
    (tFar 0).dev = 0 ∧ (tFar 2).dev ≠ 0 := by decide
/-- A thread set of an ordered launch. -/
def tOrd : State := { tS with launches := tS.launches.map (fun l => { l with packet := l.packet.set 0 (BitVec.ofNat 64 (2 ^ 55)) }) }
theorem witness_FencesAndSleeps : quiet tS = true ∧ (tWait 0).th.entries = [] ∧ regsPend (tWait 0) [] [3] = false ∧
    fenceHeld (tWait 0) (4 : BitVec 3).toNat (bitOf (1 : BitVec 2) 0) (bitOf (1 : BitVec 2) 1) = true ∧
    (tT tS (fun t => { t with window := [tEntry 0] })).th.entries ≠ [] ∧
    (rdX tS 5).toNat % 2 ^ 32 = 0 ∧ (rdX (tX tS 5 9) 5).toNat % 2 ^ 32 ≠ 0 ∧ quiet (tX tS 5 9) = true ∧ tS.th.kernel = true ∧ inOrdered tS tS.cur = false ∧
    quiet tTask = true ∧ tTask.th.kernel = false ∧ quiet tOrd = true ∧ inOrdered tOrd tOrd.cur = true := by decide
/-- A follower of thread set 1. -/
def tFolS : State := tT tS (fun t => { t with fol := some { leader := 1 }, wid := 9 })
theorem witness_WidGet : quiet tS = true ∧ tFolS.winRun = none ∧ tFolS.th.entries = [] ∧ tFolS.th.rep = none ∧ tFolS.th.misres = 0 ∧ farPendX tFolS tFolS.cur 5 = false ∧
    (tFolS.threads.all (fun p => match p.2.fol with | some f => f.leader != tFolS.cur | none => true)) = true ∧
    tFolS.th.fol = some { leader := 1 } := by decide
/-! ## Hypotheses that are met: vectors, arithmetic, synchronisation -/

theorem witness_VectorIntegerLanes : quiet tS = true ∧ isIntType 0 = true ∧ isIntType 3 = true := by decide
/-- v2 holds the lanes 1 and 0. -/
def tV : State := tT tS (fun t => t.putV 2 1 {})
theorem witness_VectorMoves : quiet tV = true ∧ isIntType 3 = true ∧ (1 : BitVec 5).toNat < 128 / intWidth 3 ∧
    (15 : BitVec 5).toNat < 128 / intWidth 0 ∧ 128 / intWidth 3 ≤ (2 : BitVec 5).toNat ∧
    lane 64 (rdV tV 2) 0 = 1 ∧ lane 64 (rdV tV 2) 1 = 0 := by decide
theorem witness_VectorFloatLanes : quiet tS = true ∧ isFloatType 4 = true ∧ isFloatType 6 = true := by decide
theorem witness_VectorReductions : quiet tS = true ∧ isIntType 0 = true ∧ isFloatType 5 = true := by decide
theorem witness_VectorApproximations : quiet tS = true ∧ isFloatType 6 = true ∧
    Fmt.f32.value 0x7FC00000 = .nan false ∧ Fmt.f32.value 0x7F800001 = .nan true ∧ Fmt.f16.value 0x7C00 = .inf false ∧ Fmt.f32.value 0xFF800000 = .inf true ∧
    (∃ e, Fmt.f32.value 0x80000000 = .fin true 0 e) ∧ (∃ m e, Fmt.bf16.value 0xBF80 = .fin true m e ∧ m ≠ 0) :=
  ⟨by decide, by decide, by decide, by decide, by decide, by decide, ⟨_, rfl⟩, ⟨_, _, rfl, by decide⟩⟩
/-- A core whose decode table the launch has loaded. -/
def tTab : State := tS.setCore 0 { tS.core 0 with table := some { codes := List.replicate 256 0, launch := 0 } }
theorem witness_VectorConversions : quiet tTab = true ∧ (Instr.vcvt 1 2 6 0 4 6).wf = true ∧ (Instr.vcvt 1 2 16 1 6 0).wf = true ∧
    (myTable tTab).isSome = true ∧ (myTable tS).isNone = true ∧ 8 ≤ (10 : BitVec 5).toNat ∧ isFloatType 6 = true ∧ isMxType 0x15 = true ∧
    (24 : Reg).toNat + 8 ≤ 32 ∧ (0 : Reg).toNat + 3 ≤ 32 ∧ 32 < (25 : Reg).toNat + 8 := by decide
theorem witness_RoundingExactAndBounded : (0x3FC00000 : Nat) < 2 ^ Fmt.f32.width ∧ (∃ m e, Fmt.f32.value 0x3FC00000 = .fin false m e ∧ m ≠ 0) ∧
    (5 : Nat) < 6 ∧ (2 ^ 32 - 1 : Nat) < 2 ^ 32 ∧ Fmt.bf16 ≠ .e8m10 ∧ (3 : Nat) ≠ 0 ∧ Fmt.f32.round 1 0 false true 3 0 = (0xC0400000, 0) :=
  ⟨by decide, ⟨_, _, rfl, by decide⟩, by decide, by decide, by decide, by decide, by decide⟩
/-- An address of device 2. -/
def tPeer : State := tX tS 5 (0x0003000000010040)
theorem witness_TotalOrderAtomics : quiet tM = true ∧ (rdX tM 5).toNat % 8 = 0 ∧ (rdX tM 5).toNat % 4 = 0 ∧
    nearAt tM (masksOf tM 5 6) (rdX tM 5) 8 tcmBase true = true ∧ nearAt tM (masksOf tM 5 6) (rdX tM 5) 4 tcmBase true = true ∧
    nearAt tM (((maskOf tM 5).or (maskOf tM 6)).or (maskOf tM 7)) (rdX tM 5) 8 tcmBase true = true ∧
    nearAt tM (((maskOf tM 5).or (maskOf tM 6)).or (maskOf tM 7)) (rdX tM 5) 4 tcmBase true = true ∧
    (rdX (tX tM 5 (tTcm + 2)) 5).toNat % 4 ≠ 0 ∧ (rdX tBad 5).toNat % 8 ≠ 0 := by decide
theorem witness_TotalOrderAtomics_far : quiet tF = true ∧ (rdX tF 5).toNat % 8 = 0 ∧ inOrdered tF tF.cur = false ∧
    okAnd (place tF (rdX tF 5) 8 [rightRD, rightWR]) (fun p => (match p.2 with | .far ks => ks == [(0x10040, 8)] | _ => false) &&
      (inletAt p.1 p.1.myCtx (addr48 (rdX tF 5))).isNone && ((masksOf tF 5 6).taint &&& p.1.th.outstanding) == 0 &&
      !farTouches p.1 p.1.cur 0x10040 8 && !homeWaits p.1 0x10040 8 && (homeFails p.1 0x10040 8 true).isNone) = true ∧
    quiet tPeer = true ∧ (rdX tPeer 5).toNat % 8 = 0 ∧ inOrdered tPeer tPeer.cur = false ∧
    okAnd (place tPeer (rdX tPeer 5) 8 [rightRD, rightWR]) (fun p => (match p.2 with | .peer d a => d == 2 && a == 0x10040 && !peerLimit p.1 d a false | _ => false)) = true := by decide
theorem witness_TaintInstructions : quiet tS = true ∧ ((1 : BitVec 1) = 1 ∨ (0 : Reg) ≠ 0) ∧ ((0 : BitVec 1) ≠ 1 ∨ (3 : Reg) ≠ 3) := by decide
/-- A list of one pair whose word holds 7, and of one whose word holds the value waited for. -/
def tList (v : Nat) : State := { tX tM 6 0 with mem := memPuts tM.mem tcmBase (natBytes 8 (tTcm + 16).toNat ++ natBytes 8 v ++ natBytes 8 7) }
def tPairs (v : Nat) : List (Word × Word) := [(tTcm + 16, BitVec.ofNat 64 v)]
theorem witness_WaitsOnMemory : quiet tM = true ∧ (rdX tM 5 + ((0 : BitVec 7) ++ (0 : BitVec 3)).signExtend 64).toNat % 8 = 0 ∧
    (rdX tBad 5 + ((0 : BitVec 7) ++ (0 : BitVec 3)).signExtend 64).toNat % 8 ≠ 0 ∧ nearAt tM (maskOf tM 5) (rdX tM 5) 8 tcmBase true = true ∧
    quiet (tT tS (fun t => { t with anyOver := true })) = true ∧ (tT tS (fun t => { t with anyOver := true })).th.anyOver = true := by decide
theorem witness_WaitsOnMemory_list : ∀ v ∈ [7, 8], quiet (tList v) = true ∧ (tList v).th.anyOver = false ∧ (rdX (tList v) 5).toNat % 16 = 0 ∧ (tList v).th.anyList = none ∧
    bitsOf (rdX (tList v) 6) 31 3 = 0 ∧ nearAt (tList v) (maskOf (tList v) 5) (rdX (tList v) 5) (16 * (bitsOf (rdX (tList v) 6) 2 0 + 1)) tcmBase true = true ∧
    tPairs v = pairsOf (leWords (2 * (bitsOf (rdX (tList v) 6) 2 0 + 1)) (memGets (tList v).mem tcmBase (16 * (bitsOf (rdX (tList v) 6) 2 0 + 1)))) ∧
    (tPairs v).all (fun p => p.1.toNat % 8 == 0 && nearAt (tList v) {} p.1 8 (tcmBase + 16) true) = true ∧
    numAt (tList v) (tcmBase + 16) 8 = 7 := by decide +kernel
/-- A barrier of two held by the context, and one arrival on its way. -/
def tBarId : Word := 0
def tBar (holder : Option Nat) (cur next : Nat) : State := putBarrier tS tS.myCluster tBarId { holder := holder, count := 2, cur := cur, next := next }
def tArr (s : State) (id : Word) : State := { s with barSent := [{ cluster := 0, tid := 0, ctx := 0, wid := 0, pc := 0, id := id }] }
theorem witness_Barriers : (∀ s ∈ [tS, tBar (some 0) 0 0, tX tS 1 1, tX tS 2 (2 ^ 16)], quiet s = true) ∧ barrierOk (rdX tS 1) = true ∧ bitsOf (rdX tS 2) 63 16 = 0 ∧
    (getBarrier tS tS.myCluster (rdX tS 1)).holder = none ∧ (getBarrier (tBar (some 0) 0 0) 0 0).holder = some (tBar (some 0) 0 0).myCtx ∧
    barrierOk (BitVec.allOnes 64) = false ∧ bitsOf (rdX (tX tS 2 (2 ^ 16)) 2) 63 16 ≠ 0 ∧
    (getBarrier (tBar (some 3) 0 0) 0 0).holder ≠ some (tBar (some 3) 0 0).myCtx ∧ (getBarrier (tBar (some 3) 0 0) 0 0).holder ≠ none ∧
    (getBarrier (tBar (some 0) 0 0) 0 0).matches 0 tBarId = true ∧ (getBarrier (tBar (some 3) 0 0) 0 0).matches 0 tBarId = false ∧
    (tArr (tBar (some 0) 1 0) 0).ev.n = 0 ∧ bitOf tBarId 32 = (getBarrier (tBar (some 0) 1 0) 0 0).phase ∧
    (getBarrier (tBar (some 0) 1 0) 0 0).cur + 1 = 2 ∧ (getBarrier (tBar (some 0) 0 0) 0 0).cur + 1 < 2 ∧ bitOf (2 ^ 32 : Word) 32 = true := by decide
/-- The peer slots: slot 0 names device 5 and is sticky; all in use. -/
def tSlots : State := tS.setCtx 0 { tS.ctx 0 with slots := (tS.ctx 0).slots.set 0 { dev := 5, used := true, sticky := true } }
def tFull : State := tS.setCtx 0 { tS.ctx 0 with slots := Vector.replicate 64 { dev := 1, used := true } }
theorem witness_PeerSlotsAndMark : quiet (tX tSlots 1 5) = true ∧ bitsOf (rdX (tX tSlots 1 5) 1) 14 0 = 5 ∧ (mySlot tSlots 0).used = true ∧ (mySlot tSlots 0).dev.toNat = 5 ∧
    (mySlot tSlots 1).used = false ∧ (List.range 63).all (fun j => !((mySlot tSlots j).used && (mySlot tSlots j).dev.toNat == 0)) = true ∧
    quiet tFull = true ∧ (List.range 63).all (fun j => (mySlot tFull j).used && (mySlot tFull j).dev.toNat != 0) = true ∧
    (launchOf tS tS.cur).any (fun l => !l.ordered) = true ∧ (launchOf tOrd tOrd.cur).any (fun l => l.ordered && l.lwm == none) = true ∧
    (launchOf { tOrd with launches := tOrd.launches.map (fun l => { l with lwm := some (3, 4) }) } 0).any (fun l => l.ordered && l.lwm == some (3, 4)) = true := by decide +kernel
/-- A context whose translation is on, with a descriptor in its TCM. -/
def tDesc (w0 w1 b : Nat) : State :=
  ({ tX tM 6 (BitVec.ofNat 64 b) with mem := memPuts tM.mem tcmBase (natBytes 8 w0 ++ natBytes 8 w1) }).setCtx 0 { tM.ctx 0 with ptroot := 1 }
theorem witness_ThreePartyRequests : quiet (tDesc 0x10000 64 0x20000) = true ∧ (rdX tM 5).toNat % 16 = 0 ∧ (rdX tBad 5).toNat % 16 ≠ 0 ∧ quiet tBad = true ∧
    nearAt (tDesc 0x10000 64 0x20000) (masksOf (tDesc 0x10000 64 0x20000) 5 6) (rdX (tDesc 0x10000 64 0x20000) 5) 16 tcmBase true = true ∧
    leWord (memGets (tDesc 0x10000 64 0x20000).mem tcmBase 16) = 0x10000 ∧ leWord ((memGets (tDesc 0x10000 64 0x20000).mem tcmBase 16).drop 8) = 64 ∧
    bitOf (tM.ctx tM.myCtx).ptroot 0 = false ∧ bitOf ((tDesc 0x10000 64 0x20000).ctx 0).ptroot 0 = true ∧
    bitsOf (2 ^ 40 : Word) 63 40 ≠ 0 ∧ bitsOf (0 : Word) 25 0 = 0 ∧ bitsOf (2 ^ 32 : Word) 39 32 ≠ 0 ∧ bitsOf (2 ^ 48 : Word) 63 48 ≠ 0 ∧
    bitsOf (64 : Word) 63 40 = 0 ∧ bitsOf (64 : Word) 25 0 ≠ 0 ∧ bitsOf (64 : Word) 39 32 = 0 ∧ deviceField (0x10000 : Word) ≤ 0x8000 ∧ bitsOf (0x10000 : Word) 63 48 = 0 ∧
    deviceField (0x20000 : Word) ≤ 0x8000 ∧ belowWindows (0x20000 : Word).toNat = true ∧ belowWindows (0x10000 : Word).toNat = true ∧ buffers (tDesc 0x10000 64 0x20000) = false ∧
    (tDesc 0x10000 64 0x20000).th.slots.toList.all (fun x => x == .free) = true := by decide
theorem witness_ThreePartyRequests_limit : ∀ dv va, peerLimit (tDesc 0x10000 64 0x20000) dv va false = false := fun _ _ => rfl
/-! ## Hypotheses that are met: activations, deques, streams, suspension -/

/-- A record image at the start of the own TCM; a deque that holds records; the level at which task.steal may take. -/
def tRec (r : Record) : State := { tM with mem := memPuts tM.mem tcmBase (wordsBytes r.words) }
def tWork (lo hi : Nat) : Record := { w0 := BitVec.ofNat 64 (2 ^ 52 + 0x10000), w1 := BitVec.ofNat 64 lo, w3 := BitVec.ofNat 64 lo, w4 := BitVec.ofNat 64 hi }
theorem witness_NodeChildAndCalls : quiet tS = true ∧ (Fmt.f32.value ((rdX (tX tS 2 0x7FC00000) 2).toNat % 2 ^ 32)).isNan = true ∧
    (Fmt.f32.value ((rdX tS 2).toNat % 2 ^ 32)).isNan = false ∧ quiet (tX tS 2 0x7FC00000) = true ∧
    quiet tBad = true ∧ (rdX tBad 5).toNat % 64 ≠ 0 ∧ (∀ r ∈ [tWork 0 8, { w0 := 1 }], quiet (tRec r) = true ∧
      (rdX (tRec r) 5).toNat % 64 = 0 ∧ nearAt (tRec r) (masksOf (tRec r) 5 6) (rdX (tRec r) 5) 64 tcmBase true = true ∧ r = recordOf (memGets (tRec r).mem tcmBase 64)) ∧
    (callImage (tWork 0 8)).valid = true ∧ (callImage { w0 := 1 }).valid = false ∧ 0x8000 < deviceField (0xFFFF000000000000 : Word) ∧
    deviceField (rdX tM 6) = 0 ∧ (rdX tM 6).toNat = 0 ∧ inOrdered tM tM.cur = false ∧
    (receiver tM (some tM.mySeq) tM.myCtx false 0).any (fun l => tM.launch l.seq == some l && !createFull tM l 0) = true := by decide +kernel
/-- A mailbox of the own TCM that holds a message, and an empty one. -/
def tBox (w : Nat) : State := tX (tX { tS with mem := memPuts tS.mem (tcmBase + 32) (natBytes 8 1 ++ natBytes 8 2 ++ natBytes 8 3 ++ natBytes 8 w) } 5 32) 6 0x10000
theorem witness_NodeChildAndCalls_wait : ∀ w ∈ [4, 0], quiet (tBox w) = true ∧ (tBox w).th.act.isSome = true ∧ inOrdered (tBox w) (tBox w).cur = false ∧
    (tBox w).myLaunch.any (fun l => tcmAllot l (tBox w).myCore == some (0, 0x20000)) = true ∧ 0 ≤ (rdX (tBox w) 5).toNat ∧ (rdX (tBox w) 5).toNat + 32 ≤ 0 + 0x20000 ∧
    (rdX (tBox w) 5).toNat % 32 = 0 ∧ (rdX (tBox w) 5).toNat < 0x20000 ∧ (rdX (tBox w) 6).toNat % 4 = 0 ∧ tcmBase + 32 = tcmKey (tBox w).myCore (rdX (tBox w) 5).toNat ∧
    localFree (tBox w) {} (tcmBase + 32) 32 = true ∧ homeFails (tBox w) (tcmBase + 32) 32 true = none ∧ numAt (tBox w) (tcmBase + 32 + 24) 8 = w ∧
    waiterCount (tBox w) (tBox w).myCore < 16 := by decide +kernel
def tDeque (s : State) (l : List Record) : State := s.setCore 0 { s.core 0 with deques := tset (s.core 0).deques 0 l, onCore := tset (s.core 0).onCore 0 (min l.length 64) }
/-- A launch whose deques have no backing tiers: every byte lies outside them. -/
theorem offTiers_none {s : State} {l : Launch} {g k n : Nat} (h : l.dqtcm + l.dqsram = 0) : offTiers s l g k n := by
  intro q key hq
  unfold tierKey at hq
  rw [if_neg (by omega), if_neg (by omega)] at hq
  cases hq
def tLvl (s : State) : State := { s with launches := s.launches.map (fun l => { l with packet := l.packet.set 2 (BitVec.ofNat 64 (7 * 2 ^ 56)) }) }
theorem witness_DequeInstructions : quiet tM = true ∧ quiet tOrd = true ∧ inOrdered tOrd tOrd.cur = true ∧
    (∀ s ∈ [tRec (tWork 0 8), tRec (tWork 0 1), tRec {}, tRec { w0 := 1 }, tDeque (tRec (tWork 0 8)) [tWork 1 2]], quiet s = true ∧ inOrdered s s.cur = false ∧
      s.myLaunch.any (fun l => s.launch l.seq == some l && l.seq == s.mySeq && !createFull s l s.myCore && !launchSaved s l && l.dqtcm + l.dqsram == 0) = true ∧ (rdX s 5).toNat % 64 = 0 ∧
      nearAt s (maskOf s 5) (rdX s 5) 64 tcmBase true = true ∧ nearAt s (maskOf s 5) (rdX s 5) 64 tcmBase false = true) ∧
    (tWork 0 8).valid = true ∧ ({ w0 := 1 } : Record).valid = false ∧ dequeOf (tDeque tM [tWork 1 2]) tM.myCore 0 = [tWork 1 2] ∧ dequeOf tM tM.myCore 0 = [] ∧
    ({} : Record).kind ≠ 1 ∧ (tWork 0 8).kind = 1 ∧ (tWork 0 8).w3.toNat + 2 ≤ (tWork 0 8).w4.toNat ∧ (tWork 0 1).w4.toNat ≤ (tWork 0 1).w3.toNat + 1 ∧
    (splitAt (tWork 0 8) 4).2.valid = true := by decide +kernel
theorem witness_DequeInstructions_full : (tDeque tM (List.replicate 64 {})).myLaunch.any (fun l => createFull (tDeque tM (List.replicate 64 {})) l 0) = true := by decide +kernel
/-- Core 1 of the launch holds a record that core 0 may take. -/
def tSteal : State := setDeque (tLvl { tM with launches := tM.launches.map (fun l =>
  { l with packet := l.packet.set 3 (BitVec.ofNat 64 (8 * 2 ^ 25 + 2 ^ 22 + 2 * 2 ^ 17 + 2 ^ 8)), cores := l.cores ++ [{ core := 1, tcm := 0, tile := 0, ts := [0] }] }) }) 1 0 [tWork 0 1] 1
theorem witness_DequeInstructions_steal : quiet tSteal = true ∧ tSteal.myLaunch.any (fun l => l.crlvl == 7 && stealFrom tSteal l == some 1 && !launchSaved tSteal l && l.dqtcm + l.dqsram == 0) = true ∧
    (dequeOf tSteal 1 0).getLast? = some (tWork 0 1) ∧ ¬((tWork 0 1).kind = 1 ∧ (tWork 0 1).w3.toNat + 2 ≤ (tWork 0 1).w4.toNat) ∧
    tM.myLaunch.any (fun l => stealFrom tM l == none) = true := by decide +kernel
/-- Thread set 1 runs an activation of the same launch and may lead. -/
def tLead : State := tX (tS.setThread 1 (placedThread (tS.thread 1) 0)) 5 0x10
def tRep0 : Rep := { start := 0x10004, n := 2, stag := 7, lim := 2, passes := 2, pass := 0, pos := 0 }
theorem witness_FollowAndRepeat : quiet tLead = true ∧ leads tLead (leaderOf tLead (rdX tLead 5)) = true ∧ tFolS.th.fol = some { leader := 1 } ∧
    (rdX tS 5).toNat = 0 ∧ 4096 < (rdX (tX tS 5 4097) 5).toNat ∧ quiet (tX tS 5 4097) = true ∧ quiet (tX tS 5 4096) = true ∧ (rdX (tX tS 5 4096) 5).toNat ≤ 4096 ∧ 0 < (rdX (tX tS 5 4096) 5).toNat ∧
    tRep0.pos + 1 < tRep0.n ∧ ({ tRep0 with pos := 1 } : Rep).pos + 1 = tRep0.n ∧ tRep0.pass + 1 < tRep0.passes ∧ ({ tRep0 with pass := 1 } : Rep).pass + 1 = tRep0.passes ∧
    (30 : Reg).toNat + ({ tRep0 with pass := 1 } : Rep).pass % tRep0.lim ≤ 31 := by decide +kernel
/-- A stream descriptor in the own TCM: two elements of 16 bytes. -/
def tStr (base w2 : Nat) : State :=
  { tM with mem := memPuts tM.mem tcmBase (natBytes 8 base ++ natBytes 8 16 ++ natBytes 8 w2 ++ natBytes 8 (2 ^ 32 + 2 ^ 16 + 2)) }
def tUnit (b : Bool) : StreamUnit := { owner := 0, base := tTcm + 64, stride := [16, 0, 0], count := [2, 1, 1], write := false, bound := b }
def tBound (b : Bool) : State := setUnit tM 0 (some (tUnit b))
theorem witness_StreamUnits : (∀ s ∈ [tStr (tTcm + 64).toNat 0, tStr (tTcm + 64).toNat (2 ^ 32), tStr (tTcm + 0x1FFF0).toNat 0], quiet s = true ∧
      (s.co.streams.toList.getD 0 none).isNone = true ∧ (rdX s 5).toNat % 32 = 0 ∧ nearAt s (maskOf s 5) (rdX s 5) 32 tcmBase true = true) ∧
    (let w := leWords 4 (memGets (tStr (tTcm + 64).toNat 0).mem tcmBase 32); streamWordsOk w (streamOf 0 w) = true ∧ streamInside (tStr (tTcm + 64).toNat 0) (streamOf 0 w) = true) ∧
    (let w := leWords 4 (memGets (tStr (tTcm + 64).toNat (2 ^ 32)).mem tcmBase 32); streamWordsOk w (streamOf 0 w) = false) ∧
    (let w := leWords 4 (memGets (tStr (tTcm + 0x1FFF0).toNat 0).mem tcmBase 32); streamWordsOk w (streamOf 0 w) = true ∧ streamInside (tStr (tTcm + 0x1FFF0).toNat 0) (streamOf 0 w) = false) ∧
    quiet tBad = true ∧ (rdX tBad 5).toNat % 32 ≠ 0 ∧ quiet (tBound false) = true ∧ (tBound false).co.streams.toList.getD 0 none = some (tUnit false) ∧ (tUnit false).owner = (tBound false).cur ∧
    (tUnit false).bound = false ∧ boundUnit (tBound true) 0 = some (tUnit true) ∧ (tUnit true).write = false ∧ (tBound true).th.window = [] ∧ (tBound true).th.rep = none ∧
    (tBound true).th.fol = none ∧ (tBound true).winRun = none ∧ (tBound true).far = [] ∧ (tBound true).threads.all (fun p => p.2.fol.isNone) = true ∧
    nearAt (tBound true) {} ((tUnit true).addr (tUnit true).pos) 16 (tcmBase + 64) true = true ∧ (4 : Reg).toNat ≥ 4 := by decide +kernel
theorem witness_SuspensionPoints : quiet tS = true ∧ quiet tOrd = true ∧ tS.th.act = some { launch := 0, record := {} } ∧ tOrd.th.act.isSome = true ∧
    (tS.th.pc + BitVec.ofNat 64 tS.ilen).toNat % 4 = 0 ∧ (({ tS with ilen := 2 } : State).th.pc + BitVec.ofNat 64 2).toNat % 4 ≠ 0 ∧ quiet { tS with ilen := 2 } = true ∧
    inOrdered tS tS.cur = false ∧ inOrdered tOrd tOrd.cur = true ∧ ({} : Record).kind ≠ 3 ∧ (tS.launch 0).isSome = true := by decide +kernel
/-! ## Hypotheses that are met: engines, tiles, rank unit, descent, collectives -/

/-- v2 and v3 hold an AZERO of tile 0; queues that are full, with and without a tile that the pushing thread set holds. -/
def tTcw : BitVec 256 := BitVec.ofNat 256 (3 * 2 ^ 248 + 2 ^ 180)
def tPush : State := tT tS (fun t => (t.putV 2 0 {}).putV 3 (BitVec.ofNat 128 (3 * 2 ^ 120 + 2 ^ 52)) {})
def tEnt : Entry := { id := 0, tcw := tTcw, launch := 0, tid := 0, wid := 0, pc := 0 }
def tQ (s : State) (mq cq : EngQueue) : State := s.setCore 0 { s.core 0 with mq := mq, cq := cq }
def tFullQ (s : State) : State := tQ s { queued := [tEnt, tEnt] } { queued := [tEnt, tEnt] }
def tHold (s : State) (h : Option Nat) : State := setTile s 0 0 { tileOf s 0 0 with holder := h }
theorem witness_EngineInstructions : quiet tPush = true ∧ pushCause tPush (rdV tPush 3 ++ rdV tPush 2) (pairTcw tPush 2) = none ∧
    pushCause tS (rdV tS 3 ++ rdV tS 2) (pairTcw tS 2) = some 0x22 ∧ (masksV tPush 2 3).taint &&& tPush.th.outstanding = 0 ∧ inOrdered tPush tPush.cur = false ∧
    (queueOf tPush tPush.myCore (tcwQueue (pairTcw tPush 2))).full = false ∧ quiet (tHold (tFullQ tPush) (some 0)) = true ∧
    (queueOf (tFullQ tPush) tPush.myCore 0).full = true ∧ (queueOf (tFullQ tPush) tPush.myCore 1).full = true ∧ (queueOf tPush tPush.myCore 1).full = false ∧
    tEnt ∈ (queueOf (tFullQ tS) 0 0).all ∧ tEnt.tid = (tFullQ tS).cur := by decide +kernel
/-- An image of an empty queue in the own TCM. -/
def tImg (q : Nat) : State := { tX tM 5 (tTcm + BitVec.ofNat 64 q) with mem := memPuts tM.mem tcmBase (queueImage q 0 []) }
theorem witness_EngineInstructions_save : quiet tOrd = true ∧ inOrdered tOrd tOrd.cur = true ∧ bitsOf (rdX (tX tM 5 2) 5) 5 1 ≠ 0 ∧ quiet (tX tM 5 2) = true ∧
    (∀ q ∈ [0, 1], quiet (tImg q) = true ∧ inOrdered (tImg q) (tImg q).cur = false ∧ bitsOf (rdX (tImg q) 5) 5 1 = 0 ∧ bitsOf (rdX (tImg q) 5) 0 0 = q ∧
      nearAt (tImg q) (maskOf (tImg q) 5) (rdX (tImg q) 5 &&& ~~~(63 : Word)) 576 tcmBase false = true ∧ (queueOf (tImg q) 0 q).running = none ∧
      nearAt (tImg q) (maskOf (tImg q) 5) (rdX (tImg q) 5 &&& ~~~(63 : Word)) 576 tcmBase true = true ∧ (queueOf (tImg q) 0 q).all = [] ∧ unitBusy (tImg q) (unitTid 0 q) = false ∧
      (let w := leWord (memGets (tImg q).mem tcmBase 576); bitsOf w 7 4 = 1 ∧ bitsOf w 2 0 ≤ 4 ∧ bitsOf w 3 3 = q) ∧
      (leWord ((memGets (tImg q).mem tcmBase 576).drop 8)).toNat = (tImg q).mySeq) := by decide +kernel
/-- A shape of four f32 elements; a slot that this launch, and one that another, has loaded. -/
def tShape : Nat := (4 * 2 ^ 48 + 2 ^ 32 + 2 ^ 16 + 1) * 2 ^ 64 + (6 * 2 ^ 27 + 2 ^ 24) * 2 ^ 192
def tSh (seq : Nat) : State := setShape { tM with mem := memPuts tM.mem tcmBase (natBytes 32 tShape) } 3 (some { desc := BitVec.ofNat 256 tShape, launch := seq })
theorem witness_TilesSlotsAndTable : quiet tS = true ∧ (tilesOf tS tS.cur) = (8, 0) ∧ (8 : BitVec 5).toNat = 8 ∧ (tileOf tS 0 0).holder = none ∧ (tileOf tS 0 0).waiters = [] ∧
    olderNames tS tS.myCore 0 tS.nextId = false ∧ quiet (tHold tS (some 0)) = true ∧ (tileOf (tHold tS (some 0)) 0 0).holder = some (tHold tS (some 0)).cur ∧
    quiet (tHold tS (some 2)) = true ∧ (tileOf (tHold tS (some 2)) 0 0).holder = some 2 ∧ (2 : Nat) ≠ tS.cur ∧ headNames (tHold (tFullQ tS) (some 0)) 0 0 = true ∧
    bitsOf (rdX tS 5) 2 0 < (tilesOf tS tS.cur).1 ∧ (tilesOf tTask 5).1 ≤ bitsOf (7 : Word) 2 0 := by decide +kernel
/-- The same tile with an error in its first element. -/
def tTileBad (s : State) (t : Nat) : State := setTile s 0 t { tileOf s 0 t with bad := [0] }
theorem witness_TilesSlotsAndTable_error : ∀ b ∈ [true, false], let s := if b then tTileBad (tHold tS (some 0)) 0 else tHold tS (some 0)
    quiet s = true ∧ bitsOf (rdX s 5) 2 0 < (tilesOf s s.cur).1 ∧ (tileOf s s.myCore 0).holder = some s.cur ∧
    ((∃ j < 4, 32 * bitsOf (rdX s 5) 7 3 + 4 * bitsOf (rdX s 5) 10 8 + j ∈ (tileOf s s.myCore 0).bad) ↔ b = true) := by decide +kernel
theorem witness_TilesSlotsAndTable_slots : (∀ n ∈ [0, 1], quiet (tSh n) = true ∧ nearAt (tSh n) (maskOf (tSh n) 5) (rdX (tSh n) 5) 32 tcmBase true = true ∧
      nearAt (tSh n) (maskOf (tSh n) 5) (rdX (tSh n) 5) 32 tcmBase false = true ∧ (rdX (tSh n) 5).toNat % 32 = 0 ∧ foreignSlot (tSh n) 3 = (n == 1)) ∧
    shOk (BitVec.ofNat 256 (numAt (tSh 0) tcmBase 32)) = true ∧ shOk (BitVec.ofNat 256 (numAt tM tcmBase 32)) = false ∧ nearAt tM (maskOf tM 5) (rdX tM 5) 32 tcmBase true = true ∧
    shapeOf (tSh 0) 4 = none ∧ (shapeOf (tSh 0) 3).isSome = true := by decide +kernel
def tTbl (v : Nat) : State := { tM with mem := memPuts tM.mem (tcmBase + 1020) (natBytes 4 v) }
theorem witness_TilesSlotsAndTable_table : ∀ v ∈ [5, 2 ^ 19], quiet (tTbl v) = true ∧ (rdX (tTbl v) 5).toNat % 64 = 0 ∧ nearAt (tTbl v) (maskOf (tTbl v) 5) (rdX (tTbl v) 5) 1024 tcmBase true = true ∧
    (tTbl v).co.table = none ∧ (tTbl v).co.cq.all = [] ∧ (unitsOf 256 4 (memGets (tTbl v).mem tcmBase 1024)).all (fun x => decide (x < 2 ^ 19)) = (v == 5) ∧
    (unitsOf 256 4 (memGets (tTbl v).mem tcmBase 1024)).any (fun x => (Fmt.e8m10.value x).isFin) = true := by decide +kernel
/-- Setup blocks of the rank unit in the own TCM. -/
def tBlk (ws : List Nat) : State := { tM with mem := memPuts tM.mem tcmBase (ws.flatMap (natBytes 8)) }
def tEncW : List Nat := [2 ^ 60 + 2 ^ 51, 4, tTcm.toNat + 0x100, tTcm.toNat + 0x200]
def tRxW : List Nat := [2 * 2 ^ 60, 0x3F800000, tTcm.toNat + 0x300, tTcm.toNat + 0x400, 0x20000, 0, tTcm.toNat + 0x500, tTcm.toNat + 0x600, 0, 0, 0, 0, 0, 0, 0, 0]
theorem witness_RankInstructions_cfg : (∀ ws ∈ [tEncW, tRxW, [2 ^ 60 + 2 ^ 48], [0]], quiet (tBlk ws) = true ∧ (rdX (tBlk ws) 5).toNat % 64 = 0 ∧
      nearAt (tBlk ws) (maskOf (tBlk ws) 5) (rdX (tBlk ws) 5) 32 tcmBase true = true) ∧
    (let w := leWords 4 (memGets (tBlk tEncW).mem tcmBase 32); bitsOf (w.getD 0 0) 63 60 = 1 ∧ encoderOk (tBlk tEncW) w = true) ∧
    (let w := leWords 4 (memGets (tBlk [2 ^ 60 + 2 ^ 48]).mem tcmBase 32); bitsOf (w.getD 0 0) 63 60 = 1 ∧ encoderOk (tBlk [2 ^ 60 + 2 ^ 48]) w = false) ∧
    (let s := tBlk tRxW; let w := leWords 4 (memGets s.mem tcmBase 32); bitsOf (w.getD 0 0) 63 60 = 2 ∧ nearAt s (maskOf s 5) (rdX s 5 + 32) 96 (tcmBase + 32) true = true ∧
      okAnd (rxConfigure s (maskOf s 5) (rdX s 5) (w ++ leWords 12 (memGets s.mem (tcmBase + 32) 96))) (fun _ => true) = true) := by decide +kernel
/-- An encoder with four f32 values at its source, and its event list in the own TCM, to be sent to HBM. -/
def tEncS : EncState := { w0 := BitVec.ofNat 64 (2 ^ 60 + 2 ^ 51), w1 := 4, w2 := tTcm + 0x100, w3 := tTcm + 0x200 }
def tEncR : List Nat × Nat × Nat := tEncS.encode ((unitsOf 4 4 (natBytes 16 (0x3F800000 * 2 ^ 32))))
def tEnc : State := tX (tX (tT { tS with mem := memPuts tS.mem (tcmBase + 0x100) (natBytes 16 (0x3F800000 * 2 ^ 32)) } (fun t => { t with enc := some tEncS })) 5 (tTcm + 0x200)) 6 0x10040
def tSend : State := { tEnc with mem := memPuts tEnc.mem (tcmBase + 0x200) (tEncR.1.flatMap (natBytes 4)) }
theorem witness_RankInstructions_enc : quiet tS = true ∧ tS.th.enc = none ∧ quiet tEnc = true ∧ tEnc.th.enc = some tEncS ∧ nearAt tEnc {} tEncS.w2 16 (tcmBase + 0x100) true = true ∧
    tEncR = tEncS.encode ((unitsOf 4 4 (memGets tEnc.mem (tcmBase + 0x100) 16))) ∧ tEncR.1 ≠ [] ∧ tEncR.2.2 = 0 ∧
    nearAt tEnc {} tEncS.w3 (tEncR.1.flatMap (natBytes 4)).length (tcmBase + 0x200) false = true := by decide +kernel
theorem witness_RankInstructions_send : quiet tSend = true ∧ tSend.th.enc = some tEncS ∧ tEncS.isShort = false ∧ tEncS.sent = 0 ∧ inOrdered tSend tSend.cur = false ∧ (rdX tSend 6).toNat % 64 = 0 ∧
    okAnd (sendList tSend (masksOf tSend 5 6) tEncS (rdX tSend 5)) (fun p => p.1 == tSend && p.2 == tEncR.1.flatMap (natBytes 4)) = true ∧ decodeAddr tSend (rdX tSend 6) = .translated 0x10040 ∧
    okAnd (place tSend (rdX tSend 6) 16 [rightWR]) (fun p => (match p.2 with | .far _ => true | _ => false) && decodeAddr p.1 (rdX tSend 6) == .translated 0x10040) = true := by decide +kernel
/-- Receive stream 1 of the core: open or folding, with a trace of one entry, of this launch or of another. -/
def tRx (f : RxStream → RxStream) : State := setRx tM 0 1 (some (f { block := (tRxW.map (BitVec.ofNat 64)), seq := [0], launch := 0, ctx := 0, gen := 7, tracen := 1 }))
theorem witness_RankInstructions_streams : quiet tM = true ∧ rxOf tM 0 1 = none ∧ (rxOf (tRx (fun r => { r with launch := 3 })) 0 1).any (fun r => r.launch != 0) = true ∧ quiet (tRx id) = true ∧
    (rxOf (tRx id) 0 1).any (fun r => r.launch == 0 && r.state == .open && r.trace != 0) = true ∧ (rxOf (tRx (fun r => { r with state := .folding, closed := 1 })) 0 1).any (fun r => r.state == .folding) = true ∧
    (tT (tRx id) (fun t => { t with mark := some (1, 7, 0) })).th.mark = some (1, 7, 0) ∧ (tRx id).th.mark = none ∧ (tRx id).th.lastWave.toList.getD 1 none = none ∧
    quiet (tT (tRx id) (fun t => { t with mark := some (1, 7, 0) })) = true ∧ quiet (tT (tRx id) (fun t => { t with lastWave := t.lastWave.set 1 (some (7, 0)) })) = true ∧
    (tT (tRx id) (fun t => { t with lastWave := t.lastWave.set 1 (some (7, 0)) })).th.lastWave.toList.getD 1 none = some (7, 0) := by decide +kernel
theorem witness_RankInstructions_fold : let s := tRx (fun r => { r with closed := 1, waves := [{ closed := true }] }); quiet s = true ∧
    (rxOf s 0 1).any (fun r => r.state == .open && r.pend == [] && !r.heldByTree && r.fold < r.closed && r.word 5 == 0 && (r.wave r.fold).ranked == [] && (r.wave r.fold).closed &&
      r.mmode == 0 && 0 < r.nout && nearAt s {} (r.word 6) (4 * r.nout) (tcmBase + 0x500) false) = true := by decide +kernel
/-- x5 and x6 for the gradient instructions; x7 a wave.cfg block of period 7. -/
def tGrad : State := { tX (tX (tX (tRx (fun r => { r with closed := 1 })) 5 (tTcm + 0x700)) 6 (tTcm + 0x800)) 7 (tTcm + 0x900) with
  mem := memPuts (memPuts tM.mem (tcmBase + 0x800) (natBytes 8 (tTcm.toNat + 0xA00) ++ natBytes 8 4)) (tcmBase + 0x900) (natBytes 8 (4 * 2 ^ 60 + 7) ++ natBytes 8 0) }
theorem witness_RankInstructions_grad : let s := tGrad; quiet s = true ∧ (rdX s 5).toNat % 4 = 0 ∧ (rdX s 6).toNat % 16 = 0 ∧
    (rxOf s 0 1).any (fun r => r.state != .folding && r.closed != 0 && r.trace != 0 && 0 < r.tracen && nearAt s (masksOf s 5 6) (rdX s 5) (4 * r.nout) (tcmBase + 0x700) true &&
      nearAt s (masksOf s 5 6) r.trace (4 * r.tracen) (tcmBase + 0x600) true && nearAt s (masksOf s 5 6) (rdX s 6) (4 * r.tracen) (tcmBase + 0x800) false &&
      nearAt s (masksOf s 5 6) (rdX s 6) 16 (tcmBase + 0x800) true &&
      okAnd (gradEntries s (masksOf s 5 6) r (words32 r.nout (memGets s.mem (tcmBase + 0x700) (4 * r.nout))) (words32 r.tracen (memGets s.mem (tcmBase + 0x600) (4 * r.tracen)))) (fun p => p.1 == s)) = true := by decide +kernel
theorem witness_RankInstructions_wgrad : let s := tGrad; let w := leWords 2 (memGets s.mem (tcmBase + 0x800) 16); (w.getD 0 0).toNat % 4 = 0 ∧ bitsOf (w.getD 1 0) 31 0 % 4 = 0 ∧ bitsOf (w.getD 1 0) 63 32 = 0 ∧
    (rxOf s 0 1).any (fun r => let l := words32 r.tracen (memGets s.mem (tcmBase + 0x600) (4 * r.tracen))
      okAnd (wgradArrive s (masksOf s 5 6) r (w.getD 0 0) (bitsOf (w.getD 1 0) 31 0) l) (fun u => u == s) &&
      okAnd (wgradRows s r (words32 r.nout (memGets s.mem (tcmBase + 0x700) (4 * r.nout))) (w.getD 0 0) (bitsOf (w.getD 1 0) 31 0) 0 l) (fun _ => true)) = true := by decide +kernel
theorem witness_RankInstructions_wave : let s := tX tGrad 5 (tTcm + 0x900); let w := leWords 2 (memGets s.mem (tcmBase + 0x900) 16); quiet s = true ∧ (rdX s 5).toNat % 16 = 0 ∧
    nearAt s (maskOf s 5) (rdX s 5) 16 (tcmBase + 0x900) true = true ∧ bitsOf (w.getD 0 0) 63 12 = 4 * 2 ^ 48 ∧ w.getD 1 0 = 0 ∧ bitsOf (w.getD 0 0) 11 0 = 7 ∧ periodsInUse s 0 1 = [] ∧
    (rxOf (tRx (fun r => { r with block := r.block.set 0 (BitVec.ofNat 64 (2 * 2 ^ 60 + 2 ^ 53)) })) 0 1).any (fun r => r.spike) = true := by decide +kernel
/-- A tree block of one level and one weight in the own TCM, and its unit in a state. -/
def tTreeW : List Nat := [3 * 2 ^ 60 + 2 ^ 50, tTcm.toNat + 0x100, 16 * 2 ^ 32, 0x100, 0x40, tTcm.toNat + 0x200, 0, 0]
def tTreeU (st : TreeState) : TreeUnit := { block := tTreeW.map (BitVec.ofNat 64), launch := 0, state := st, pt := List.replicate 256 0 }
def tTree (f : TreeUnit → TreeUnit) (st : TreeState) : State := tX (setTree tM (f (tTreeU st))) 5 (tTcm + 0x300)
theorem witness_DescentAndCollectives_tree : quiet (tBlk tTreeW) = true ∧ nearAt (tBlk tTreeW) (maskOf (tBlk tTreeW) 5) (rdX (tBlk tTreeW) 5) 64 tcmBase true = true ∧
    (rdX (tBlk tTreeW) 5).toNat % 64 = 0 ∧ leWords 8 (memGets (tBlk tTreeW).mem tcmBase 64) = (tTreeU .configured).block ∧ treeBlockOk (tBlk tTreeW) (tTreeU .configured) = true ∧
    treeBlockOk (tBlk []) { tTreeU .configured with block := List.replicate 8 0 } = false ∧ quiet (tBlk []) = true ∧
    okAnd (localKey (tBlk tTreeW) 0 (tTreeU .configured).out (16 * (tTreeU .configured).batch)) (fun k => k == tcmBase + 0x200) = true ∧ (tBlk tTreeW).co.tree.state ≠ .descending := by decide +kernel
theorem witness_DescentAndCollectives_desc : treeBusy (tTree (fun u => { u with runner := some 1 }) .descending) = true ∧ quiet (tTree (fun u => { u with runner := some 1 }) .descending) = true ∧
    tM.co.tree.state = .free ∧ quiet (tTree id .done) = true ∧ (tTree id .done).co.tree.state = .done ∧ (rdX (tTree id .done) 5).toNat % (tTreeU .done).elem = 0 ∧
    (let s := tTree id .configured; let u := tTreeU .configured; quiet s = true ∧ s.co.tree = u ∧ u.launch = s.mySeq ∧ u.rankMode = false ∧ u.depth = 1 ∧ u.nbm1 = 0 ∧ u.lvl = 0 ∧
      (rdX s 5).toNat % u.elem = 0 ∧ nearAt s (maskOf s 5) (u.word 1) (u.boff + 4) (tcmBase + 0x100) true = true ∧ nearAt s (maskOf s 5) (rdX s 5) (u.dim * u.elem) (tcmBase + 0x300) true = true ∧
      nearAt s (maskOf s 5) u.out 16 (tcmBase + 0x200) false = true ∧ (Fmt.f32.value (nodeSum [0] 0 [Fmt.bf16.value 0])).isNan = false ∧
      (rdX s 6).toNat ≤ u.lvl ∧ u.pt.length = 256 ∧ (rdX s 5).toNat % 4 = 0 ∧ nearAt s (masksOf s 5 6) (rdX s 5) (4 * u.batch) (tcmBase + 0x300) false = true) := by decide +kernel
/-- A collective of one rank: block, map and tree table in the own TCM. -/
def tCollW (op : Nat) : List Nat := [7 * 2 ^ 48 + 8 * 2 ^ 19 + 8 * 2 ^ 14 + op, 1, 0x20000, 0x20000, tTcm.toNat + 0x100, tTcm.toNat + 0x140, 0, 0]
def tCollR (op : Nat) : CollRank := {
  id := 0, collid := 7, rank := 0, job := 0, ctx := 0, launch := 0, tid := 0, wid := 0, pc := 0x10000, kernel := true
  block := (tCollW op).map (BitVec.ofNat 64), map := [0], table := [0xFFFF :: List.replicate 15 0] }
def tColl (op : Nat) (l : List CollRank) : State := { tBlk (tCollW op) with mem := memPuts (tBlk (tCollW op)).mem (tcmBase + 0x140) (natBytes 2 0xFFFF), coll := l }
theorem witness_DescentAndCollectives_coll : (∀ op ∈ [1, 0], let s := tColl op []; let w := leWords 8 (memGets s.mem tcmBase 64); quiet s = true ∧ (rdX s 5).toNat % 64 = 0 ∧
      nearAt s (maskOf s 5) (rdX s 5) 64 tcmBase true = true ∧ bitsOf (w.getD 0 0) 35 24 = 0 ∧ rangesOf (w.getD 4 0) 8 = [(w.getD 4 0, 8)] ∧ rangesOf (w.getD 5 0) 32 = [(w.getD 5 0, 32)] ∧
      nearAt s (maskOf s 5) (w.getD 4 0) 8 (tcmBase + 0x100) true = true ∧ nearAt s (maskOf s 5) (w.getD 5 0) 32 (tcmBase + 0x140) true = true ∧ w = (tCollR op).block ∧
      unitsOf 1 8 (memGets s.mem (tcmBase + 0x100) 8) = (tCollR op).map ∧ unitsOf 16 2 (memGets s.mem (tcmBase + 0x140) 32) = (tCollR op).table.getD 0 [] ∧ (s.ctx 0).job = 0 ∧ s.nextId = 0) ∧
    collOk (tColl 1 []) (tCollR 1) = true ∧ collOk (tColl 0 []) (tCollR 0) = false ∧ inOrdered (tColl 1 []) 0 = false ∧ collConflict (tColl 1 []) (tCollR 1) = false ∧
    collLimit (tColl 1 []) (tCollR 1) = false ∧ collConflict (tColl 1 [tCollR 1]) (tCollR 1) = true ∧
    collLimit (tColl 1 ((List.range 16).map (fun i => { tCollR 1 with collid := BitVec.ofNat 16 (100 + i) }))) (tCollR 1) = true ∧ collConflict (tColl 1 ((List.range 16).map (fun i => { tCollR 1 with collid := BitVec.ofNat 16 (100 + i) }))) (tCollR 1) = false ∧
    (namedRank (tX (tColl 1 [tCollR 1]) 5 7) 7).isSome = true ∧ (namedRank tM 7).isNone = true := by decide +kernel
/-- Context 3 live, in a state of its save; the executing context another one. -/
def tCtx (f : Ctx → Ctx) : State := (tX tS 5 3).setCtx 3 (f { live := true })
def tOther : State := { tX tS 5 3 with launches := tS.launches.map (fun l => { l with ctx := 1 }) }
theorem witness_ContextAndDebugInstructions : quiet tTask = true ∧ tTask.th.kernel = false ∧ quiet tOther = true ∧ tOther.myCtx ≠ 0 ∧ tOther.th.kernel = true ∧
    tS.myCtx = 0 ∧ tS.th.mark = none ∧ (rdX tS 5).toNat % 64 = 0 ∧ 64 ≤ (rdX (tX tS 5 64) 5).toNat ∧
    (∀ st ∈ [SaveState.running, .saved, .stopping], let s := tCtx (fun x => { x with save := st }); quiet s = true ∧ s.th.kernel = true ∧ s.myCtx = 0 ∧ s.th.mark = none ∧ (rdX s 5).toNat < 64 ∧
      (rdX s 5).toNat % 64 = 3 ∧ (s.ctx 3).live = true ∧ s.cpl.state = .idle ∧ (s.ctx 3).saveFailed = false ∧ (s.ctx 3).save = st) ∧
    (tT (tCtx id) (fun t => { t with mark := some (8, 3, 0) })).th.mark = some (8, 3, 0) ∧ quiet (tT (tCtx id) (fun t => { t with mark := some (8, 3, 0) })) = true ∧
    ¬(((tCtx id).ctx 3).live = true ∧ (((tCtx id).ctx 3).save = .stopping ∨ ((tCtx id).ctx 3).save = .writing)) ∧
    quiet (tT (tCtx (fun x => { x with save := .saved, restoreErr := true })) (fun t => { t with mark := some (9, 3, 0) })) = true ∧
    ((tCtx (fun x => { x with save := .saved, restoreErr := true })).ctx 3).restoreErr = true ∧ ((tCtx id).ctx 3).restoreWanted = false ∧ ((tCtx id).ctx 3).save ≠ .restoring := by decide +kernel
theorem witness_ContextAndDebugInstructions_debug : quiet tS = true ∧ tS.dbg.trcBase = 0 ∧ tS.dbg.en = false ∧ quiet tBp = true ∧ tBp.dbg.en = true ∧ tBp.feature 2 = true ∧ tBp.dbg.stop = none ∧
    tBp.th.noMatch = false := by decide +kernel
/-! ## Hypotheses that are met: events of the cores -/

def tEv (s : State) (n k : Nat) : State := { s with ev := { s.ev with n := n, k := k } }
def tWin (b : Nat) (d : Option DefTrap) : State := tEv (tT tVec (fun t => { t with window := [tEntry b], defTrap := d })) 0 0
/-- A far access of one piece, performed or not. -/
def tOne (kind : FarKind) (addr : Word) (data : List Byte) (perf : Bool) : Far := { tFar 0 with
  kind := kind, addr := addr, data := data, performed := perf, slot := some 0, pieces := [{ key := addr.toNat, pos := 0, len := 8, done := perf }] }
def tFly (f : Far) : State := tEv (tT { tS with far := [f] } (fun t => { t with slots := t.slots.set 0 (.outstanding 0) })) 0 0
theorem witness_CoreEvents_window : (let s := tWin 0 none; mayTurn s 0 = true ∧ onlyAt s 0 = none ∧ (s.thread 0).defTrap = none ∧ (s.thread 0).drain = false ∧ s.ev.n = 0 ∧
      (s.thread 0).window = [tEntry 0] ∧ (tEntry 0).held = 0 ∧ (tEntry 0).instr = .add 1 2 3 ∧ blockedBy { s with cur := 0 } [] (tEntry 0).use = false) ∧
    (let s := tWin 1 (some { pc := 0x10000, code := 0x30, faddr := 0 }); mayTurn s 0 = true ∧ onlyAt s 0 = none ∧ (s.thread 0).defTrap.isSome = true ∧
      (s.thread 0).window.all (fun e => e.held != 0) = true ∧ (s.thread 0).tvec ≠ 0) := by decide +kernel
theorem witness_CoreEvents_far : (let f := tOne .load 0x10040 (natBytes 8 7) true; (tFly f).far.find? (fun g => g.id == (tFly f).ev.n) = some f ∧ f.performed = true ∧ f.gives = true ∧ f.own = false ∧
      f.dest = .x 7 64 false ∧ f.slot = some 0 ∧ (7 : Reg) ≠ 0 ∧ f.overlay = []) ∧
    (∀ k ∈ [FarKind.load, .store, .atomic .add 1 0 false], let f := tOne k 0x10040 [] false; let s := tFly f; s.far.find? (fun g => g.id == s.ev.n) = some f ∧ s.ev.k = 0 ∧
      f.pieces = [{ key := 0x10040, pos := 0, len := 8 }] ∧ f.over = false ∧ f.own = false ∧ f.dev = 0 ∧ farTainted s f = false ∧ pieceHeld s f { key := 0x10040, pos := 0, len := 8 } = false ∧
      decodeAddr s f.addr = .translated 0x10040 ∧ inletAt s f.ctx 0x10040 = none ∧ homeWaits s 0x10040 8 = false ∧ homeFails s 0x10040 8 true = none ∧ homeFails s 0x10040 8 false = none) ∧
    homeFails { tFly (tOne .store 0x10040 [] false) with poison := [0x10040] } 0x10040 8 false = some 0x61 ∧
    (({ tFly (tOne .store 0x10040 [] false) with ctxs := [] } : State).ctx 0).live = false := by decide +kernel
theorem witness_CoreEvents_inlet : (let f := tOne .store 0x20004 (natBytes 8 0) false; let s := setRx (tFly f) 0 1 ((rxOf (tRx id) 0 1)); inletAt s f.ctx 0x20004 = some (0, 1) ∧
      8 ≤ (inletStore s 0 1 (addr48 f.addr % 4096) (f.data.take 8)).2 ∧ decodeAddr s f.addr = .translated 0x20004 ∧ farTainted s f = false) := by decide +kernel
theorem witness_CoreEvents_traps : (let s := tEv ((tT tVec (fun t => { t with kernel := false })).setCtx 0 { tS.ctx 0 with faults := [{ code := 0x61, addr := 0x500 }] }) 0 0;
      (s.ctx 0).faults = [{ code := 0x61, addr := 0x500 }] ∧ (sortedTids s 0).find? (fun t => takesAsync s t) = some 0) ∧
    (let s := tT { tEv tS 0 0 with wakes := [0] } (fun t => { t with run := .sleepWait [0x10040] }); (s.thread s.ev.n).run = .sleepWait [0x10040] ∧ s.ev.n ∈ s.wakes) ∧
    (let s := tT (tEv tS 0 0) (fun t => { t with run := .sleepAny [0x10040] true }); (s.thread s.ev.n).run = .sleepAny [0x10040] true) ∧
    (let s := tT (tEv tS 0 0) (fun t => { t with run := .sleepCount }); (s.thread s.ev.n).run = .sleepCount) := by decide +kernel
/-- A stop that is held, in a mode of R301. -/
def tStop (mode : Nat) : State := { tS with dbg := { tS.dbg with stop := some { code := 0x70, tid := 0, mode := mode, launch := 0 } } }
theorem witness_CoreEvents_debug : (tStop 1).dbg.stop = some { code := 0x70, tid := 0, mode := 1, launch := 0 } ∧ tS.dbg.sampBase = 0 ∧
    (let s : State := { tS with dbg := { tS.dbg with sampBase := 0x20000, sampCtl := 5 } }; s.dbg.sampBase ≠ 0 ∧ bitsOf s.dbg.sampCtl 31 0 ≠ 0 ∧ s.threads = [(0, tS.th)] ∧
      tS.th.act.isSome = true ∧ tS.th.run ≠ .idle) ∧
    tS.dbg.stop = none ∧ (tStop 2).dbg.stop = some { code := 0x70, tid := 0, mode := 2, launch := 0 } := by decide +kernel
def tSpike : State := tEv (tRx (fun r => { r with block := r.block.set 0 (BitVec.ofNat 64 (2 * 2 ^ 60 + 2 ^ 53)), period := 7 })) 7 0
theorem witness_CoreEvents_ticks : tS.cores.all (fun p => p.2.rxSaved.isEmpty && p.2.rx.toList.all (fun r => r.isNone)) = true ∧
    tSpike.cores.length = 1 ∧ tSpike.cores.all (fun p => p.2.rxSaved.isEmpty && (p.2.rx.toList.getD 1 none).any (fun r => r.spike && r.period == tSpike.ev.n) &&
      (List.range 8).all (fun j => j == 1 || (p.2.rx.toList.getD j none).isNone)) = true := by decide +kernel
/-! ## Hypotheses that are met: the scheduler -/

/-- A table that maps the first GiB of context 0 to itself with all rights, a queue at 0x300000 and an area at 16 MiB. -/
def tMap (s : State) : State :=
  ({ s with mem := memPuts s.mem 0x200000 (natBytes 8 (2 ^ 63 + 2 ^ 62 + 0xFE)) }).setCtx 0 { s.ctx 0 with
    live := true, ptroot := 0x200001, lqBase := 0x300000, area := 0x1000000, alen := 0x4000000 }
theorem witness_SchedulerEvents_bell : (let s := tEv (tMap tS) 0 0; (s.ctx 0).live = true ∧ (5 : Word) ≠ (s.ctx 0).doorbell.zeroExtend 64 ∧
      (5 + 2 ^ 32 - (s.ctx 0).lqHead.toNat) % 2 ^ 32 ≤ (s.ctx 0).lqSize ∧ (5 + 2 ^ 32 - (s.ctx 0).doorbell.toNat) % 2 ^ 32 ≤ (s.ctx 0).lqSize ∧
      (s.ctx 0).lqSize < (0xFFFFF % 2 ^ 32 + 2 ^ 32 - (s.ctx 0).lqHead.toNat) % 2 ^ 32) ∧ (tS.ctx 1).live = false := by decide +kernel
/-- A launch packet of one item for one core, and the state in which it waits at the head of the queue. -/
def tPkt (ver : Nat) : List Nat :=
  [ver * 2 ^ 56 + 0x10000, 1, 7 * 2 ^ 56 + 7 * 2 ^ 52 + 2 ^ 48 + 64, 2 * 2 ^ 25 + 2 ^ 22 + 2 ^ 17 + 2 ^ 8 + 1, 2 ^ 6 + 8] ++ List.replicate 27 0
def tQueue (ver : Nat) : State :=
  tEv (let s := tMap tS; ({ s with mem := memPuts s.mem 0x300000 ((tPkt ver).flatMap (natBytes 8)) }).setCtx 0 { s.ctx 0 with doorbell := 1 }) 0 0
def tNew (s : State) (ver : Nat) : Launch := { seq := s.nextSeq, ctx := 0, packet := (tPkt ver).map (BitVec.ofNat 64), seed := (s.ctx 0).seed, kernel := true }
theorem witness_SchedulerEvents_accept : (∀ v ∈ [1, 2], let s := tQueue v; (s.ctx 0).live = true ∧ s.cpl.state = .idle ∧ (s.ctx 0).lqHead ≠ (s.ctx 0).doorbell ∧
      okAnd (hubRead s 0 ((s.ctx 0).lqBase + BitVec.ofNat 64 (256 * ((s.ctx 0).lqHead.toNat % (s.ctx 0).lqSize))) 256) (fun bs => tNew s v ==
        { seq := s.nextSeq, ctx := 0, packet := leWords 32 bs, seed := (s.ctx 0).seed, kernel := true }) = true) ∧
    launchOk (tQueue 1) (tNew (tQueue 1) 1) = true ∧ (placeImageAt (tQueue 1) (tNew (tQueue 1) 1)).isSome = true ∧ launchOk (tQueue 2) (tNew (tQueue 2) 2) = false ∧
    (match hubRead ((tQueue 1).setCtx 0 { (tQueue 1).ctx 0 with ptroot := 0x600000 }) 0 0x300000 256 with | .error _ => true | .ok _ => false) = true := by decide +kernel
/-- The launch accepted and not yet admitted, in a device where the cluster is free or taken. -/
def tAccepted (free : Bool) : State := { tMap tS with launches := (if free then [] else tS.launches.map (fun l => { l with cores := l.cores.map (fun a => { a with core := 16 }), clusters := [{ cluster := 1, spad := 0 }] })) ++
  [{ tNew (tQueue 1) 1 with seq := 1, packet := (tNew (tQueue 1) 1).packet.set 4 (BitVec.ofNat 64 (64 * 2 ^ 6 + 8)) }] }
theorem witness_SchedulerEvents_admit : (∀ b ∈ [true, false], (nextToAdmit (tAccepted b) (tAccepted b).launches []).any (fun l => l.seq == 1 && ctxRuns (tAccepted b) l.ctx &&
      (planLaunch (tAccepted b) l).isSome == b && l.useClusters.all (banksOn (tAccepted b)) && l.tcmu ≤ 32) = true) ∧
    (nextToAdmit (tAccepted true) (tAccepted true).launches []).any (fun l => (planLaunch (tAccepted true) l).any (fun p => p.1.all (fun a => a.core < 4096 && a.tcm + l.tcmu ≤ 32))) = true := by decide +kernel
theorem witness_SchedulerEvents_pool : (let s := tEv tS 0 0; (s.launch 0).any (fun l => schedules s l && (l.inCluster 0).isSome && (tget l.pools 0 []).length < 256 && (l.deal 0 512 (tget l.next 0 0)).getLast? == some 0 &&
      l.grain == 0 && l.crlvl != 7 && tget l.poolRecords 0 [] == []) = true) ∧ 256 ≤ (List.range 256).length ∧ (8 : Nat) ≤ (dequeOf (tDeque tS (List.replicate 8 {})) 0 0).length ∧ (dequeOf tS 0 0).length < 8 ∧
    tget (tset ([] : Tab (List Nat)) 0 [3]) 0 [] = [3] := by decide +kernel
/-- A thread set that is idle, with a record in its core's deque. -/
def tIdle : State := tEv (tDeque (tT tS (fun t => { t with run := .idle, act := none })) [{ w0 := 0x10000, w1 := 5, w3 := 7 }]) 0 0
theorem witness_SchedulerEvents_pickup : (launchOfSet tIdle 0).any (fun l => schedules tIdle l && !l.debugDrain && l.phaseState == .running &&
      (bestRecord (mayStart tIdle l) ((dequeOf tIdle 0 l.seq).take (onCoreOf tIdle 0 l.seq))).or (bestRecord (mayStart tIdle l) (dequeOf tIdle 0 l.seq)) == some 0) = true ∧
    coreFrozen tIdle 0 = false ∧ isIdle (tIdle.thread 0) = true ∧ (tIdle.thread 0).stopHeld = false ∧ (dequeOf tIdle 0 0)[0]?.isSome = true := by decide +kernel
/-- A launch that levels the deques of two cores. -/
def tLevel : State := tEv (tDeque { tS with launches := tS.launches.map (fun l => { l with
  packet := (l.packet.set 2 (BitVec.ofNat 64 (7 * 2 ^ 56))).set 3 (BitVec.ofNat 64 (8 * 2 ^ 25 + 2 ^ 22 + 2 * 2 ^ 17 + 2 ^ 8)), cores := l.cores ++ [{ core := 1, tcm := 0, tile := 0, ts := [] }] }) } (List.replicate 4 {})) 0 0
theorem witness_SchedulerEvents_level : (tS.launch 0).any (fun l => l.crlvl != 7) = true ∧ (tLevel.launch 0).any (fun l => schedules tLevel l && l.crlvl == 7 && l.clvl != 7 && l.clcount == 1 && l.ncores == 2 && l.clbase == 0 &&
      l.cores.all (fun a => a.ts.all (fun t => (tLevel.thread (4 * a.core + t)).run != .idle)) && 2 ≤ dequeRoom tLevel l 1 - l.tsets) = true ∧
    (dequeOf tLevel 0 0).length = 4 ∧ (dequeOf tLevel 1 0).length = 0 := by decide +kernel
/-- A launch with nothing left to do, with and without DONEADDR; one that still has an item. -/
def tOver (done : Nat) : State := tEv (let s := tMap (tT tS (fun t => { t with run := .idle, act := none }))
  { s with launches := s.launches.map (fun l => { l with live := 0, next := [(0, 1)], packet := l.packet.set 17 (BitVec.ofNat 64 done) }) }) 0 0
theorem witness_SchedulerEvents_complete : (tS.launch 0).any (fun l => !launchOver tS l) = true ∧ ((tOver 0).launch 0).any (fun l => launchOver (tOver 0) l && l.doneaddr == 0) = true ∧
    ((tOver 0x10080).launch 0).any (fun l => launchOver (tOver 0x10080) l && l.doneaddr == 0x10080 && !l.stopped) = true ∧ decodeAddr (tOver 0x10080) 0x10080 = .translated 0x10080 ∧
    inletAt (tOver 0x10080) 0 0x10080 = none ∧ okAnd (hubWrite (tOver 0x10080) 0 0x10080 (natBytes 8 1)) (fun _ => true) = true ∧
    (tOrd.launch 0).any (fun l => l.ordered && l.admitted) = true := by decide +kernel
/-- An activation of an ordered launch in Committing, with nothing or one store in its buffer. -/
def tBuf (b : Bool) : List BufBlock := if b then [{ addr := 0x10080, bytes := List.replicate 8 (some 1) ++ List.replicate 24 none }] else []
def tCommit (b : Bool) : State := tEv (tMap (tT { tOrd with launches := tOrd.launches.map (fun l => { l with lwm := some (0, 0) }) } (fun t => { t with
  run := .committing .exit, act := some { launch := 0, record := {}, buf := tBuf b } }))) 0 1
theorem witness_SchedulerEvents_commit : ∀ b ∈ [true, false], let s := tCommit b; let a : Activation := { launch := 0, record := {}, buf := tBuf b }
    (s.thread 0).act = some a ∧ (s.thread 0).run = .committing .exit ∧ (s.ctx 0).save = .running ∧ a.commitDone = false ∧ a.irrevocable = false ∧ a.held = [] ∧
    (launchOf s 0).any (fun l => l.ordered && l.dmode == 0 && !l.phaseOpen && l.ctx == 0 && mayCommit s l (s.thread 0) a && conflicting s l.seq 0 a.record.ts a.wsig == []) = true ∧
    storesOut s 0 = false ∧ s.launch s.ev.k = none ∧ bufStores (tBuf false) = [] ∧ bufStores (tBuf true) = [(0x10080, List.replicate 8 1)] ∧
    decodeAddr s 0x10080 = .translated 0x10080 ∧ okAnd (hubKeys s 0 0x10080 8 [rightWR]) (fun ks => ks == [(0x10080, 8)]) = true ∧ inletAt s 0 0x10080 = none ∧
    homeFails s 0x10080 8 false = none := by decide +kernel
def tReplay : State := tEv (let s := tMap tOrd; { s with launches := s.launches.map (fun l => { l with phaseState := .replayCheck, packet := l.packet.set 12 0x20000 }) }) 0 0
def tPark (loaded : Bool) : State := let s := tEv tS 0 0; { s.setCore 0 { s.core 0 with waiters := [{ launch := 0, mbox := 32, record := {}, loaded := loaded }] } with ev := { s.ev with flag := true } }
theorem witness_SchedulerEvents_park : (tReplay.launch 0).any (fun l => l.phaseState == .replayCheck && okAnd (hubRead tReplay l.ctx (tableEntry l l.phase) 16) (fun _ => true)) = true ∧
    (∀ b ∈ [true, false], ((tPark b).core 0).waiters[0]? = some { launch := 0, mbox := 32, record := {}, loaded := b } ∧ (tPark b).ev.flag = true ∧
      ((tPark b).launch 0).any (fun l => dequeRoom (tPark b) l 0 != 0 && l.onCore 0 == some { core := 0, tcm := 0, tile := 0, ts := [0] }) = true) ∧
    (let s := { tPark false with mem := memPuts tS.mem (tcmBase + 56) (natBytes 8 9) }; (s.launch 0).any (fun l => tcmByte s l 0 0 32 == tcmBase + 32 && (leWords 4 (memRead s (tcmBase + 32) 32)).getD 3 0 != 0) = true) ∧
    ((tDeque tS (List.replicate 64 {})).launch 0).any (fun l => dequeRoom (tDeque tS (List.replicate 64 {})) l 0 == 0) = true := by decide +kernel
/-- A packet that waits to be served, for a mailbox or with a record for a deque. -/
def tServe (kind addr : Nat) (data : List Byte) : State := let s := tMap tS
  { tEv s 0 0 with fabric := { s.fabric with jobs := [(0, BitVec.ofNat 64 (2 ^ 63))], serve := [newPacket s kind 0 0 (reqFields addr 64 0) data] } }
def tPkOf (s : State) : Packet := s.fabric.serve.headD (newPacket s 0 0 0 [] [])
theorem witness_SchedulerEvents_messages : (let s := tServe 0x0E (tcmBase + 32) (natBytes 32 1); nextServed s 0x0E 0 = some (tPkOf s) ∧ s.ev.flag = false ∧ (match meets s (tPkOf s) with | .ctx c => c == 0 | _ => false) = true ∧
      pAddr (tPkOf s) - tcmBase = 32 ∧ heldArrival (boxLaunch s 0 0 32) = false) ∧
    (let s := tServe 0x0D 0 (wordsBytes (tWork 0 8).words); nextServed s 0x0D 0 = some (tPkOf s) ∧ (match meets s (tPkOf s) with | .ctx c => c == 0 | _ => false) = true ∧
      heldArrival (receiver s none 0 false 0) = false ∧ okAnd (placeCall { s with launches := s.launches.map (fun l => { l with packet := l.packet.set 0 (BitVec.ofNat 64 (2 ^ 49)) }) } none 0 0 (tWork 0 8)) (fun _ => true) = true ∧
      (match placeCall s none 0 0 (tWork 0 8) with | .error k => k == 0x53 | .ok _ => false) = true ∧ (tWork 0 8).kind ≠ 3) := by decide +kernel
/-! ## Hypotheses that are met: contexts and images -/

def tBar2 (w : Bool) (off : Nat) : State := let s := tMap tS
  { s with ev := { s.ev with n := 0, k := 8, m := 8, flag := w, word := BitVec.ofNat 64 off, bytes := natBytes 8 7 } }
theorem witness_ContextEvents_bar2 : (∀ w ∈ [true, false], let s := tBar2 w 0x10080; (s.ctx 0).live = true ∧ s.ev.flag = w ∧ (s.ctx 0).apbase.toNat + s.ev.word.toNat = 0x10080 ∧ s.ev.own = false ∧ s.posted = [] ∧ s.replay = [] ∧
      s.ev.bytes.length = s.ev.k ∧ s.ev.word.toNat + s.ev.k ≤ 2 ^ (30 + min s.ev.m 8) ∧ tablesWait s 0 0x10080 8 = false ∧
      (match bar2Place s 0 0x10080 8 (if w then rightWR else rightRD) with | .keys ks => ks == [(0x10080, 8)] | _ => false) = true ∧ [(0x10080, 8)].any (fun p => homeWaits s p.1 p.2) = false ∧
      inletAt s 0 0x10080 = none ∧ okAnd (readKeys s [(0x10080, 8)]) (fun _ => true) = true ∧ okAnd (writeKeys s [(0x10080, 8)] s.ev.bytes) (fun _ => true) = true) ∧
    (∀ w ∈ [true, false], (match bar2Place (tBar2 w (2 ^ 48)) 0 (2 ^ 48) 8 (if w then rightWR else rightRD) with | .cause k => k == 0x10 | _ => false) = true ∧
      (match bar2Place (tBar2 w 0) 0 regBase 8 (if w then rightWR else rightRD) with | .reg o => o == 0 | _ => false) = true ∧
      (let s := tBar2 w 0x10080; let s := { s.setDie 0 { s.die 0 with wake := 1 } with mem := s.mem }; let s := s.setCtx 0 { s.ctx 0 with ptroot := BitVec.ofNat 64 (sramBase + 1) }; tablesWait s 0 0x10080 8 = true)) ∧
    ({ tEv tS 1 8 with ev := { tS.ev with own := true } } : State).posted = [] ∧
    ((tEv tS 1 8).ctx 1).live = false ∧ (tEv tS 1 8).ev.flag = false := by decide +kernel
/-- A context that the host has described and not created; one whose area is too small; a device whose job table is full. -/
def tFresh (alen : Nat) : State := tEv (tS.setCtx 1 { tS.ctx 1 with live := false, area := 0x2000000, alen := BitVec.ofNat 64 alen }) 1 0
theorem witness_ContextEvents_create : tS.cpl.state = .idle ∧ ((tEv (tMap tS) 0 0).ctx 0).live = true ∧ ((tFresh 0x100).ctx 1).live = false ∧ areaOk (tFresh 0x100) 1 = false ∧
    ((tFresh 0x100000).ctx 1).live = false ∧ areaOk (tFresh 0x100000) 1 = true ∧ (freeJob (tFresh 0x100000)).isSome = true ∧
    (let s := { tFresh 0x100000 with fabric := { tS.fabric with jobs := (List.range 64).map (fun j => (j, BitVec.ofNat 64 (2 ^ 63))) } }; areaOk s 1 = true ∧ freeJob s = none) ∧
    ({ tS.cpl with state := .copy } : Cpl).state ≠ .idle ∧ ({ tS.cpl with state := .copy } : Cpl).state ≠ .hold := by decide +kernel
/-- A context at rest in a state of its save. -/
def tSave (v : SaveState) : State := let s := tT (tMap tS) (fun t => { t with run := .idle, act := none })
  tEv (s.setCtx 0 { s.ctx 0 with save := v }) 0 0
def tSaved (bad : Bool) (v : SaveState) : State := let s := tSave v
  { s.setCtx 0 { s.ctx 0 with image := some { threads := [(0, tS.th)] }, restoreWanted := true } with poison := if bad then [0x1000000 + 65536 + 98304] else [] }
theorem witness_ContextEvents_save : (let s := tSave .saveFailed; (s.ctx s.ev.n).save = .saveFailed) ∧ (tSave .running).ev.n = 0 ∧ ((tSave .running).ctx 0).save ≠ .saveFailed ∧
    (let s := tSave .stopping; (s.ctx 0).save = .stopping ∧ ctxAtRest s 0 s.ev.flag = true ∧ s.threads.length = 1 ∧ s.threads.all (fun p => match p.2.run with | .committing _ => false | _ => true) = true) ∧
    (let s := { tSave .stopping with far := [{ tFar 0 with kind := .atomic .add 1 0 false }] }; ctxAtRest s 0 s.ev.flag = false) ∧
    (((tSave .writing).ctx 0).save = .writing ∧ saveError (tSave .writing) 0 = none) ∧
    (let s := { tSave .writing with poison := [0x1000000] }; (s.ctx 0).save = .writing ∧ saveError s 0 = some 0) ∧
    (∀ v ∈ [SaveState.saved], let s := tSaved false v; (s.ctx 0).save = .saved ∧ (s.ctx 0).restoreWanted = true ∧ s.cpl.state = .idle ∧ restoreFree s 0 = true) ∧
    restoreFree (tSave .saved) 0 = false ∧ ((tSave .saved).ctx 0).restoreWanted = false ∧
    (∀ b ∈ [true, false], let s := tSaved b .restoring; (s.ctx 0).save = .restoring ∧ (s.ctx 0).image = some { threads := [(0, tS.th)] } ∧
      (residents s 0).any (imageBad s) = b) := by decide +kernel
/-- Registers and tiles in a save: repaired where there is a copy, else the save fails. -/
def tSaveBad (ts : List Nat) (tile : Bool) : State := let s := tSave .writing
  let s := if tile then tTileBad s 0 else s.setThread 0 { s.thread 0 with bad := 32 }
  { s with launches := s.launches.map (fun (l : Launch) => { l with cores := l.cores.map (fun (a : CoreAllot) => { a with ts := ts }) }) }
theorem test_saveError : saveError (tSaveBad [0] false) 0 = none ∧ (saveError (tSaveBad [0, 1, 2, 3] false) 0).isSome = true ∧
    (saveError (tSaveBad [0] true) 0).isSome = true ∧ ((repairAll (tSaveBad [0] false) 0).core 0).regRep = 1 := by decide +kernel
def tBack (u : EngQueue) : State := tEv (tQ tS u {}) 0 0
theorem witness_ContextEvents_writeback : (let s := tBack { writeback := [tEnt] }; let u := queueOf s s.ev.n s.ev.k; u.writeback ≠ [] ∧ u.running = none ∧ u.paused = none ∧ u.queued = [] ∧
      unitBusy s (unitTid s.ev.n s.ev.k) = false) ∧ (queueOf (tBack {}) (tBack {}).ev.n (tBack {}).ev.k).writeback = [] := by decide +kernel
/-- A device in a state of the Compline copy, which no context waits for. -/
def tCpl (v : CplState) (hold : Bool) : State := { tSaved false .saved with cpl := { tS.cpl with state := v, hold := hold, held := [0] } }
theorem witness_ComplineAndReadOut_copy : (∀ c ∈ liveCtxs (tMap tS), ((tMap tS).ctx c).save ≠ .saveFailed) ∧ (tMap tS).cpl.state = .idle ∧ liveCtxs (tMap tS) = [0] ∧
    (∃ c ∈ liveCtxs (tSave .saveFailed), ((tSave .saveFailed).ctx c).save = .saveFailed) ∧
    (let s := tCpl .quiesce true; s.cpl.state = .quiesce ∧ (∀ c ∈ liveCtxs s, (s.ctx c).save ≠ .running) ∧ (∀ c ∈ liveCtxs s, (s.ctx c).save = .saved)) ∧
    (let s := { tSave .stopping with cpl := { tS.cpl with state := .quiesce } }; s.cpl.state = .quiesce ∧ (∀ c ∈ liveCtxs s, (s.ctx c).save ≠ .running) ∧ ∃ c ∈ liveCtxs s, (s.ctx c).save ≠ .saved) ∧
    (∀ v ∈ [CplState.copy, .sealing, .hold], ∀ b ∈ [true, false], (tCpl v b).cpl.state = v ∧ (tCpl v b).cpl.hold = b ∧ (tCpl v b).cpl.waiting = []) ∧
    (Instr.cplBoundExceeded, 6) = (Instr.cplBoundExceeded, 6) ∧ (Instr.cplCopyError, 5) = (Instr.cplCopyError, if true then 5 else 4) := by decide +kernel
theorem witness_ComplineAndReadOut_restore : liveCtxs (tCpl .hold true) = [0] ∧ (∀ v ∈ [CplState.idle, .hold], let s := { tS with ctxs := [], cpl := { tS.cpl with state := v } }; liveCtxs s = [] ∧ s.cpl.state = v) ∧
    (let s := { tS with cpl := { tS.cpl with state := .restore } }; s.cpl.state = .restore ∧ s.cpl.waiting = []) ∧
    (let s := tCpl .hold true; s.cpl.held = [0] ∧ (s.ctx 0).save = .saved ∧ (s.ctx 0).image = some { threads := [(0, tS.th)] } ∧
      (residents s 0).any (imageBad s) = false) := by decide +kernel
/-- A device with debug reads allowed. -/
def tFeat (s : State) (f : Nat) : State := { s with pkg := { s.pkg with features := BitVec.ofNat 32 f } }
theorem witness_ComplineAndReadOut_readout : (∀ v ∈ [SaveState.saved, .running], let s := tFeat (tSave v) 1; s.ev.n = 0 ∧ (s.ctx 0).dump = none ∧ s.pkg.power = .ready ∧ s.feature 0 = true ∧
      (s.ctx 0).live = true ∧ (s.ctx 0).save = v) ∧ (tFeat (tSave .running) 0).feature 0 = false ∧ (tFeat tS 2).feature 1 = true ∧ (tFeat tS 2).feature 0 = false ∧
    (tPow .frozen []).pkg.power = .frozen ∧ (tEv tS 255 0).ev.n < 256 ∧ 256 ≤ (tEv tS 256 0).ev.n := by decide +kernel
/-! ## Hypotheses that are met: engines -/

/-- A command word of an opcode for queue q with further bits, and a core whose queue holds such entries. -/
def tTw (op q rest : Nat) : BitVec 256 := BitVec.ofNat 256 (op * 2 ^ 248 + q * 2 ^ 246 + rest)
def tEn (t : BitVec 256) (progress : Nat) : Entry := { tEnt with tcw := t, progress := progress }
/-- What engineAt asks, and a test of the unit. -/
def tAtB (b : State) (q : Nat) (e : Entry) (p : State → UnitFor → Bool) : Bool :=
  let s := tEv (tMap (tQ b (if q = 0 then { running := some e } else {}) (if q = 1 then { running := some e } else {}))) 0 q
  (queueOf s s.ev.n s.ev.k).running == some e && engineMay s s.ev.n s.ev.k e && s.far.isEmpty && !e.fold && e.failing.isNone && !inOrdered s e.tid &&
    (entryUnit s s.ev.n s.ev.k e).any (fun u => p s u)
def tAtU (q : Nat) (e : Entry) (p : State → UnitFor → Bool) : Bool := tAtB tS q e p
theorem witness_EngineEntries_start : (let e := tEn tTcw 0; let s := tEv (tQ tS { queued := [e] } {}) 0 0; let u := queueOf s s.ev.n s.ev.k; u.running = none ∧ u.paused = none ∧ u.queued = [e] ∧
      engineMay s s.ev.n s.ev.k e = true ∧ e.fence = none ∧ tokensFree s s.ev.n (entryTiles s s.ev.n e) = true ∧ (entryUnit s s.ev.n s.ev.k e).isSome = true ∧ entryLocals e.tcw = [] ∧
      tokensFree (tHold s (some 0)) 0 (entryTiles (tHold s (some 0)) 0 e) = false) ∧
    (let e := tEn (tTw 0x17 0 (2 ^ 243 + 0xFFFFF * 2 ^ 188)) 0; entryLocals e.tcw = [(0xFFFFFFBFFFF8, 8)] ∧ tS.launches.all (fun l => match launchKey tS l 0 0xFFFFFFBFFFF8 8 with | .error _ => true | .ok _ => false) = true) ∧
    (let e := { tEn tTcw 0 with fence := some 3 }; e.fence = some 3 ∧ engineMay tS 0 0 e = true) := by decide +kernel
theorem witness_EngineEntries_overtake : (let p := tEn tTcw 1; let e := { tEn (tTw 3 0 (2 ^ 181)) 0 with eprio := 2, id := 1 }; let s := tEv (tQ tS { running := some p, queued := [e] } {}) 0 0; let u := (s.core s.ev.n).mq;
      u.running = some p ∧ u.paused = none ∧ tcwTileOnly p.tcw = true ∧ engineMay s s.ev.n 0 p = true ∧ overtaker s s.ev.n p u.queued = some e) := by decide +kernel
/-- MMA and MMAZ of tiles 1, 2 into tile 0; AZERO of tile 0; ALOAD and ASTORE of tile 0 and the own TCM, in both element widths. -/
theorem witness_EngineEntries_matrix : (∀ op ∈ [1, 2], let e := tEn (tTw op 0 (2 ^ 182 + 2 * 2 ^ 179)) 0; tcwOp e.tcw = op ∧ tAtU 0 e (fun s u => tileBase s u == 0 && bitsOf e.tcw 187 185 == 0 && !tileError s s.ev.n (tileBase s u) e.tcw e.progress) = true ∧
      tAtB (tTileBad tS 1) 0 e (fun s u => tileError s s.ev.n (tileBase s u) e.tcw e.progress) = true ∧ e.progress < entrySteps e) ∧
    (let e := tEn tTcw 0; tcwOp e.tcw = 3 ∧ tAtU 0 e (fun _ _ => true) = true ∧ e.progress < 8) ∧
    (∀ op ∈ [4, 5], ∀ w ∈ [0, 1], let e := tEn (tTw op 0 (w * 2 ^ 184 + 0xFFFFFFFE0000 * 2 ^ 87)) 0; tcwOp e.tcw = op ∧ bitOf e.tcw 184 = (w == 1) ∧ tAtU 0 e (fun s u =>
      unitNear s u (BitVec.ofNat 64 (bitsOf e.tcw 150 87)) (64 + 64 * w) tcmBase (op == 4) && tileBase s u == 0 && !tileError s s.ev.n (tileBase s u) e.tcw e.progress) = true) := by decide +kernel
/-- Steps and ends: a word that a step reads, a word that no row decodes, an address of a peer, a completion word. -/
theorem witness_EngineEntries_steps : (let e := tEn tTcw 0; tAtU 0 e (fun s u => match entryStep s u s.ev.n e with | .ok t _ => !unitPosted t u.tid | _ => false) = true ∧ e.progress < entrySteps e) ∧
    (let e := tEn (tTw 4 0 (0xFFF200000000 * 2 ^ 87)) 0; tAtU 0 e (fun s u => match entryStep s u s.ev.n e with | .fail t _ _ _ => !unitBusy t u.tid | _ => false) = true ∧ tcwSig e.tcw = false ∧ e.progress < entrySteps e) ∧
    (let e := tEn (tTw 4 0 (0x0002000000010000 * 2 ^ 87)) 0; tAtU 0 e (fun s u => match entryStep s u s.ev.n e with | .wait _ => true | _ => false) = true ∧ e.progress < entrySteps e) ∧
    (let e := tEn (tTcw ||| BitVec.ofNat 256 (2 ^ 243)) 8; entrySteps e ≤ e.progress ∧ tAtU 0 e (fun s u => !unitBusy s u.tid && tcwSig e.tcw && unitNear s u (localRef (tcwCword e.tcw) 20 8) 8 tcmBase false && (queueOf s s.ev.n s.ev.k).paused.isNone) = true) ∧
    (let e := tEn (tTw 0x17 0 (2 ^ 243)) 0; tcwOp e.tcw = 0x17 ∧ tAtU 0 e (fun s u => !unitBusy s u.tid) = true) := by decide +kernel
/-- COPY and FILL of 64 bytes, DECOMP and COMPR of a group of table codes, between the own TCM's start and 4096. -/
theorem witness_EngineEntries_copies : (let e := tEn (tTw 0x10 1 (64 * 2 ^ 162 + 0xFFFFFFFE0000 * 2 ^ 98 + 0xFFFFFFFE1000 * 2 ^ 34)) 0; tcwOp e.tcw = 0x10 ∧ min 4096 (tcwBytes e.tcw - 4096 * e.progress) = 64 ∧
      tAtU 1 e (fun s u => unitNear s u (tcwSrc e.tcw) 64 tcmBase true && unitNear s u (tcwDst e.tcw) 64 (tcmBase + 0x1000) false) = true) ∧
    (let e := tEn (tTw 0x15 1 (64 * 2 ^ 36 + 0xFFFFFFFE1000 * 2 ^ 60)) 0; tcwOp e.tcw = 0x15 ∧ min 4096 (tcwBytes e.tcw - 4096 * e.progress) = 64 ∧ tAtU 1 e (fun s u => unitNear s u (tcwDst e.tcw) 64 (tcmBase + 0x1000) false) = true) ∧
    (let e := tEn (tTw 0x11 1 (0x18 * 2 ^ 183 + 2 ^ 165 + 0xFFFFFFFE0000 * 2 ^ 101 + 0xFFFFFFFE1000 * 2 ^ 37)) 0; tcwOp e.tcw = 0x11 ∧ e.progress < tcwNgrp e.tcw ∧ packedBytes e.tcw = 32 ∧ tAtU 1 e (fun s u =>
      unitNear s u (tcwSrc e.tcw) 32 tcmBase true && unitNear s u (tcwDst e.tcw) 64 (tcmBase + 0x1000) false && (expandGroup e.tcw [] (memRead s tcmBase 32)).length == 64) = true) ∧
    (let e := tEn (tTw 0x12 1 (0x18 * 2 ^ 183 + 2 ^ 161 + 0xFFFFFFFE0000 * 2 ^ 97 + 0xFFFFFFFE1000 * 2 ^ 33)) 0; tcwOp e.tcw = 0x12 ∧ e.progress < tcwNgrp e.tcw ∧ tAtU 1 e (fun s u =>
      unitNear s u (tcwSrc e.tcw) 64 tcmBase true && unitNear s u (tcwDst e.tcw) 32 (tcmBase + 0x1000) false && (compressGroup e.tcw [] (List.replicate 32 0) (memRead s tcmBase 64)).length == 32) = true) := by decide +kernel
/-- GATHER and SCATTER of one element of two bytes: its index 0 stands at the start of the own TCM, the slot at 16, the array at 4096. -/
def tGa (op bound senen : Nat) : Entry := tEn (tTw op 1 (0xFFFFFFFE1000 * 2 ^ 140 + 2 * 2 ^ 116 + senen * 2 ^ 103 + bound * 2 ^ 70 + 2 ^ 32 + 1)) 0
theorem witness_EngineEntries_gather : (∀ op ∈ [0x13, 0x14], ∀ b ∈ [0, 4], let e := tGa op b 0; tcwOp e.tcw = op ∧ e.progress < tcwCount e.tcw ∧ tcwSenen e.tcw = false ∧ tcwIdxw e.tcw / 8 = 2 ∧ tcwEsize e.tcw = 2 ∧ tcwBound e.tcw = b ∧
      tAtU 1 e (fun s u => unitNear s u tTcm 2 tcmBase true && numAt s tcmBase 2 == 0 && unitNear s u (localRef (bitsOf e.tcw 50 32) 19 16) 2 (tcmBase + 16) (op == 0x14) &&
        unitNear s u (BitVec.ofNat 64 (bitsOf e.tcw 187 140)) 2 (tcmBase + 0x1000) (op == 0x13)) = true) ∧ bitsOf (tGa 0x13 4 0).tcw 187 140 + 2 ≤ 2 ^ 48 ∧
    (let e := tGa 0x13 4 1; let s := { tS with mem := memPuts tS.mem tcmBase (natBytes 2 0xFFFF) }; tcwSenen e.tcw = true ∧ numAt s tcmBase 2 = 2 ^ tcwIdxw e.tcw - 1) := by decide +kernel
/-- NZSCAN of one byte at the start of the own TCM, the list at 16, the count at 8. -/
theorem witness_EngineEntries_nzscan : (∀ p ∈ [0, 1], let e := tEn (tTw 0x16 1 (2 ^ 143 + 2 ^ 123 + 2 ^ 103)) p; tcwOp e.tcw = 0x16 ∧ bitsOf e.tcw 159 143 = 1 ∧ (typeOf (bitsOf e.tcw 164 160)).container / 8 = 1 ∧
      tAtU 1 e (fun s u => unitNear s u (localRef (bitsOf e.tcw 187 165) 23 1) 1 tcmBase true && unitNear s u (localRef (bitsOf e.tcw 122 103) 20 8) 8 (tcmBase + 8) false &&
        unitNear s u (localRef (bitsOf e.tcw 141 123) 19 16) 2 (tcmBase + 16) false && !liveElem (typeOf 0) (numAt s tcmBase 1)) = true) ∧ liveElem (typeOf 0) 7 = true := by decide +kernel
/-! ## Hypotheses that are met: ports -/

/-- Port 40 with a change, named by the event. -/
def tPort (f : Port → Port) : State := tEv (tS.setPort 40 (f { tS.port 40 with state := .up, active := 0xFFFF })) 40 0
def tPt (f : Port → Port) : Port := (tPort f).port 40
def tCh (v : Port) (n : Nat) (pks : List Packet) : Port := v.setChan 0 { v.chan 0 with allowance := n, egress := pks.map (fun p => (0, p)) }
def tPk (kind : Nat) (n : Nat) : Packet := newPacket tS kind 0x0102 0 [] (natBytes n 0)
theorem witness_LinkTransport_flits : isPort (tEv tS 31 0).ev.n = false ∧ isPort (tEv tS 80 0).ev.n = false ∧ isPort 0 = true ∧ isPort 79 = true ∧ isPort (tPort id).ev.n = true ∧
    (∀ v ∈ [tPt (fun v => { v with control := [.stripe 0xF .fallback, .ack 1] }), tPt (fun v => { v with control := [.ack 1] }), tPt (fun v => { v with resend := [(1, 0, .header (tPk 3 0))] }),
        tPt (fun v => tCh v 4 [tPk 1 0])], v.state = .up ∧ ∀ c ∈ List.range 4, v.ready c = true → (v.chan c).allowance ≠ 0) ∧
    (let v := tPt (fun v => tCh v 4 [tPk 1 0]); v.control = [] ∧ v.resend = [] ∧ v.replay.length < replaySlots 40 ∧ v.ready 0 = true ∧ (∀ d ∈ List.range 4, d ≠ 0 → v.ready d = false) ∧
      (v.chan 0).egress = [(0, tPk 1 0)] ∧ (v.chan 0).sentOfHead = 0 ∧ (tPk 1 0).len = 0) ∧
    (let v := tPt (fun v => { v with replay := List.replicate 4096 (0, 0, Flit.header (tPk 1 0)) }); v.control = [] ∧ v.resend = [] ∧ replaySlots 40 ≤ v.replay.length) ∧
    (let v := tPt (fun v => tCh v 0 [tPk 1 0]); v.ready 0 = true ∧ (v.chan 0).allowance = 0 ∧ v.control = [] ∧ v.resend = [] ∧ (∀ d ∈ List.range 4, d ≠ 0 → v.ready d = false)) := by decide +kernel
theorem witness_LinkTransport_receive : (tPt (fun v => { v with state := .down })).state = .down ∧ (tPt (fun v => { v with rxBad := true })).rxBad = true ∧ (tPort id).ev.flag = false ∧ (tPt id).state ≠ .down ∧ (tPt id).rxBad = false ∧
    (∀ n ∈ [0, 16], kindDefined (tPk 3 n).kind.toNat = true ∧ (tPk 3 n).len ≤ 64) ∧ kindDefined (tPk 0xFF 0).kind.toNat = false ∧ (64 : Nat) < ({ tPk 3 0 with len := 65 } : Packet).len ∧
    (let v := tPt (fun v => { v with replay := [(1, 0, .header (tPk 1 0)), (2, 0, .header (tPk 3 0))] }); v.replay = [(1, 0, .header (tPk 1 0))] ++ (2, 0, .header (tPk 3 0)) :: [] ∧
      (∀ g ∈ [((1 : BitVec 16), 0, Flit.header (tPk 1 0))], g.1 ≠ 2)) ∧ (∀ f ∈ (tPt id).replay, f.1 ≠ BitVec.ofNat 16 (bitsOf (tPort id).ev.word 15 0)) ∧
    (tPt (fun v => { v with state := .relock, peer := some (identityOf 0) })).peer = some (identityOf 0) ∧ (tPt id).peer ≠ some (identityOf 0) := by decide +kernel
theorem witness_LinkStates_events : (∀ st ∈ [PortState.training, .up, .retrain, .dark, .relock, .down], ∀ b ∈ [true, false], (tPt (fun v => { v with state := st, nrz := b })).state = st ∧ (tPt (fun v => { v with state := st, nrz := b })).nrz = b ∧
      (tPt (fun v => { v with state := st, sigLost := b })).sigLost = b ∧ (tPt (fun v => { v with state := st, newPeer := b })).newPeer = b) ∧
    (∀ w ∈ [0xFFFF, 1, 0x8000], BitVec.ofNat 16 (bitsOf (BitVec.ofNat 64 w : Word) 15 0) &&& membersOf 40 ≠ 0) ∧ BitVec.ofNat 16 (bitsOf (0 : Word) 15 0) &&& membersOf 40 = 0 ∧
    lowestPower (membersOf 40 &&& ~~~(0xFFFF : BitVec 16) &&& ~~~(0 : BitVec 16)) = 0 ∧ lowestPower (membersOf 40 &&& ~~~(1 : BitVec 16) &&& ~~~(0 : BitVec 16)) ≠ 0 ∧
    (let v := tPt (fun v => { v with announce := true }); v.state = .up ∧ v.announce = true ∧ v.replay = [] ∧ ∀ c ∈ v.chans.toList, c.sentOfHead = 0) ∧ (tPt id).announce = false := by decide +kernel
theorem witness_LinkStates_commands : isLocalPort 5 = true ∧ isPort 5 = true ∧ isLocalPort 40 = false ∧ (tPt (fun v => { v with waking := true })).waking = true ∧ (tPt id).waking = false ∧
    (tPt (fun v => { v with keep := 0 })).keepOk = false ∧ (tPt (fun v => { v with keep := 0xF })).keepOk = true ∧
    (let v := tPt (fun v => { v with keep := 0xF, idlepark := true }); v.state = .up ∧ v.idlepark = true ∧ v.depth = 0 ∧ v.waking = false ∧ v.parkWait = false ∧ v.keepOk = true) ∧ (tPt id).idlepark = false ∧
    (let v := tPt (fun v => { tCh v 4 [tPk 1 0] with wakeen := true, wakedepth := 1 }); v.wakeen = true ∧ max 1 v.wakedepth.toNat ≤ v.depth) ∧ (tPt id).depth < max 1 (tPt id).wakedepth.toNat ∧
    tS.grid.int = 0 ∧ (∀ b ∈ [true, false], let s : State := { tS with grid := { tS.grid with int := 7, base := 0xFFF000000000 }, ev := { tS.ev with flag := b } }; s.grid.int ≠ 0 ∧ inWindows s.grid.base 10304 = true ∧ s.ev.flag = b) := by decide +kernel
/-! ## Hypotheses that are met: the fabric -/

def tFab (s : State) (f : Fabric → Fabric) : State := { s with fabric := f s.fabric }
def tFlag (s : State) : State := { s with ev := { s.ev with flag := true } }
/-- A packet for this device (0) or for device 1, which the routing tables reach by port 0, or for device 64. -/
def tTo (d : Nat) : Packet := newPacket tS 3 d 0 (reqFields 0x10080 8 5) (natBytes 8 7)
theorem witness_FabricEvents_route : (∀ d ∈ [0, 1], let s := tFlag (tFab tS (fun f => { f with inject := [tTo d], adapt := false })); s.ev.flag = true ∧ s.fabric.inject = [tTo d] ∧ (decide ((tTo d).dest.toNat = ownId s) = (d == 0)) ∧ s.fabric.adapt = false) ∧
    (let s := tEv { tS with far := [tFar 2] } 0 0; s.ev.flag = false ∧ s.far.find? (fun g => g.id == s.ev.n) = some (tFar 2) ∧ mayLeave s (tFar 2) = true) ∧
    (let s := tEv { tS with far := [tFar 0] } 0 0; s.far.find? (fun g => g.id == s.ev.n) = some (tFar 0) ∧ mayLeave s (tFar 0) = false) ∧
    (∀ d ∈ [0, 1, 64], let s := tEv (tFab tS (fun f => { f with router := [(0, tTo d)] })) 0 0; s.ev.n = 0 ∧ s.fabric.router = [(0, tTo d)] ∧ pViaV (tTo d) = false) ∧
    routeOf (tFab tS (fun f => { f with router := [] })) (tTo 64) 0 = none ∧
    (let s := tS.setPort 0 { tS.port 0 with state := .up, active := 0xF }; (routeOf s (tTo 1) 0).any (fun r => !r.2) = true) ∧ (tTo 1).hops ≠ 63 ∧ ({ tTo 1 with hops := 63 } : Packet).hops = 63 ∧
    (let s := tEv (tS.setPort 40 ((tS.port 40).setChan 0 { (tS.port 40).chan 0 with ingress := [tTo 1] })) 40 0; isPort s.ev.n = true ∧ s.ev.k < 3 ∧ (takeInput s (s.ev.n + 1) s.ev.k).isSome = true) ∧ 3 ≤ (tEv tS 40 3).ev.k := by decide +kernel
/-- A sequenced packet, the first of its stream or not, with a number. -/
def tNum (first : Bool) (n : Nat) : Packet := { tTo 0 with seq := BitVec.ofNat 16 n, body := bodyOf (reqFields 0x10080 8 5 ++ [(334, 334, if first then 1 else 0)]) }
def tArrive (first : Bool) (n : Nat) (o : Option InStream) : State := tFab tS (fun f => { f with deliver := [tNum first n], order := match o with | some e => [((0, 0, 0), e)] | none => [] })
theorem witness_FabricEvents_order : (∀ b ∈ [true, false], let s := tArrive b 5 none; s.fabric.deliver.find? (fun p => sequenced p.kind.toNat) = some (tNum b 5) ∧ pFirst (tNum b 5) = b ∧
      s.fabric.order.find? (fun p => p.1 == ((tNum b 5).origin, (tNum b 5).job, BitVec.ofNat 4 ((tNum b 5).seq.toNat / 4096))) = none ∧ s.fabric.order.length < 4096) ∧
    (∀ n ∈ [5, 6, 4, 5 + 2048, 5 + 2049], let e : InStream := { expected := 5 }; let s := tArrive false n (some e); s.fabric.deliver.find? (fun p => sequenced p.kind.toNat) = some (tNum false n) ∧ e.held = [] ∧
      s.fabric.order.find? (fun p => p.1 == ((tNum false n).origin, (tNum false n).job, BitVec.ofNat 4 ((tNum false n).seq.toNat / 4096))) = some ((0, 0, 0), e)) ∧
    (seqNumber (tNum false 5) = 5 ∧ (seqNumber (tNum false 6) - 5).toNat ≤ 2048 ∧ (seqNumber (tNum false 2053) - 5).toNat ≤ 2048 ∧ 2048 < (seqNumber (tNum false 2054) - 5).toNat ∧ 2048 < (seqNumber (tNum false 4) - 5).toNat) := by decide +kernel
theorem witness_FabricEvents_resend : (∀ b ∈ [true, false], let r : Request := { pkt := tTo 1, access := none, ctx := 0, retry := b, again := b }; let s := tEv (tFab tS (fun f => { f with requests := [r], adapt := false })) 5 0; requestOf s s.ev.n = some r ∧ r.retry = b ∧ r.again = b ∧
      s.fabric.adapt = false ∧ r.pkt.dest.toNat ≠ ownId s) := by decide +kernel
/-- Requests that wait to be served: a Read, a Write, an Atomic (code 0), for the mapped word 0x10080. -/
def tReq (kind addr size : Nat) (more : List (Nat × Nat × Nat)) : State := let s := tMap tS
  tEv (tFab s (fun f => { f with jobs := [(0, BitVec.ofNat 64 (2 ^ 63))], serve := [newPacket s kind 0 0 (reqFields addr size 5 ++ more) (natBytes 8 7)] })) 0 0
theorem witness_FabricEvents_serve : (∀ k ∈ [1, 3, 5], let s := tReq k 0x10080 8 []; let pk := tPkOf s; nextServed s k s.ev.n = some pk ∧ (match meets s pk with | .ctx c => c == 0 | _ => false) = true ∧
      okAnd (requestKeys s 0 pk (if k == 1 then [rightPRD] else if k == 3 then [rightPWR] else [rightPRD, rightPWR])) (fun ks => ks == [(0x10080, 8)] && !ks.any (fun k => homeWaits s k.1 k.2)) = true ∧ inletAt s 0 (pAddr pk) = none ∧
      okAnd (readKeys s [(0x10080, 8)]) (fun _ => true) = true ∧ okAnd (writeKeys s [(0x10080, 8)] (pk.data.take (pSize pk))) (fun _ => true) = true) ∧
    (∀ k ∈ [1, 3, 5], nextServed tS k 0 = none) ∧ (∀ k ∈ [1, 3], (match requestKeys (tReq k 0x10080 0 []) 0 (tPkOf (tReq k 0x10080 0 [])) [rightPRD] with | .error e => e == 1 | .ok _ => false) = true) ∧
    amoOfCode 0 = some .swap ∧ (amoOfCode 15).isNone = true ∧ (AmoOp.swap ≠ AmoOp.cas) ∧
    (let s := tFab (tReq 1 0x10080 8 []) (fun f => { f with jobs := [] }); (match meets s (tPkOf s) with | .status e => e == 0x11 | _ => false) = true) ∧
    (let s := (tReq 1 0x10080 8 []).setCtx 0 { (tReq 1 0x10080 8 []).ctx 0 with save := .stopping }; (match meets s (tPkOf s) with | .waits => true | _ => false) = true) := by decide +kernel
theorem witness_FabricEvents_read_inlet : (let s := setRx (tMap (tRx id)) 0 1 (rxOf (tRx id) 0 1); let s := tFab s (fun f => { f with jobs := [(0, BitVec.ofNat 64 (2 ^ 63))], serve := [newPacket s 1 0 0 (reqFields 0x20000 8 5) []] });
      nextServed s 1 0 = some (tPkOf s) ∧ (match meets s (tPkOf s) with | .ctx c => c == 0 | _ => false) = true ∧ okAnd (requestKeys s 0 (tPkOf s) [rightPRD]) (fun _ => true) = true ∧ (inletAt s 0 (pAddr (tPkOf s))).isSome = true) := by decide +kernel
/-- A response of a kind and status, and the request and far access that it answers. -/
def tAns (kind status : Nat) (f : Far) (rk : Nat) : State :=
  tEv (tFab { tS with far := [f] } (fun b => { b with deliver := [{ newPacket tS kind 0 0 (respFields 5 status ++ [(303, 288, 1)]) (natBytes 8 9) with origin := 1 }], requests := [{ pkt := newPacket tS rk 1 0 (reqFields 0x10040 8 5) [], access := some 0, ctx := 0 }] })) 5 0
theorem witness_FabricEvents_answer : (∀ k ∈ [2, 4, 6, 9], ∀ st ∈ [0, 0x3F, 0x30], let f := { tFar 2 with kind := if k == 2 then .load else if k == 4 then .store else if k == 6 then .atomic .add 1 0 false else .forward true }; let s := tAns k st f (if k == 9 then 7 else 1);
      (takeDelivered s k).any (fun p => pStatus p.2 == st && p.2.origin == 1 && (requestOf p.1 (pTag p.2)).any (fun r => r.access == some f.id && r.pkt.dest == 1 && (k != 9 || r.pkt.kind == 7)) && p.1.far.find? (fun g => g.id == f.id) == some f) = true ∧
      f.pieces = [{ key := 0x10040, pos := 0, len := 8 }] ∧ f.own = false ∧ inOrdered s f.tid = false ∧ s.ev.flag = false ∧ (requestOf s s.ev.n).any (fun r => r.access == some f.id) = true) ∧
    (let c := { tCollR 2 with phase := 3 }; let s := tFlag (tEv (tColl 1 [c]) 0 0); s.coll.find? (fun c => c.id == s.ev.n && c.awaits) = some c) ∧ (tFlag (tEv (tColl 1 []) 0 0)).coll.find? (fun c => c.awaits) = none := by decide +kernel
/-- A three-party read: its request at the owner, a delivery under way, a unit that arrives. -/
def tDel : Delivery := { adev := 1, atag := 5, job := 0, ctx := 0, src := 0x10080, dst := 0x20000, cdev := 2, ring := 0, bytes := 64 }
theorem witness_FabricEvents_forward : (let s := tFlag (tEv (tFab (tMap tS) (fun f => { f with deliveries := [tDel] })) 0 0); s.fabric.deliveries[s.ev.n]? = some tDel ∧
      (s.fabric.deliveries.take s.ev.n).any (fun e => e.adev == tDel.adev && e.atag == tDel.atag && e.done < e.bytes && e.unit ≤ tDel.unit) = false ∧ okAnd (hubKeys s 0 (tDel.src + tDel.done) tDel.unitBytes [rightFSRC]) (fun ks => !tablesWait s 0 (tDel.src + tDel.done) tDel.unitBytes && s.replay.isEmpty && tDel.done < tDel.bytes &&
        !ks.any (fun k => homeWaits s k.1 k.2) && okAnd (readKeys s ks) (fun _ => true)) = true) ∧
    (let s := tReq 7 0x10080 8 [(329, 304, 64), (303, 288, 2)]; let pk := tPkOf s; s.ev.flag = false ∧ s.ev.k ≠ 1 ∧ nextServed s 7 s.ev.n = some pk ∧ (match meets s pk with | .ctx c => c == 0 | _ => false) = true ∧ pbits pk 225 225 = 0 ∧
      okAnd (hubKeys s 0 (pAddr pk) (pbits pk 329 304) [rightFSRC]) (fun _ => true) = true) ∧
    (∀ last ∈ [0, 1], let s := tMap tS; let pk := newPacket s 8 0 0 (reqFields 0x20000 8 5 ++ [(257, 257, last)]) (natBytes 8 7); let s := tFab s (fun f => { f with jobs := [(0, BitVec.ofNat 64 (2 ^ 63))], deliver := [pk] });
      (takeDelivered s 8).any (fun p => p.2 == pk && okAnd (hubKeys s 0 (pAddr pk) (pSize pk) [rightFDST]) (fun ks => !ks.any (fun k => homeWaits s k.1 k.2) && okAnd (writeKeys p.1 ks (pk.data.take (pSize pk))) (fun _ => true))) = true ∧
      jobCtx s pk.job = some 0 ∧ (s.ctx 0).save = .running ∧ tablesWait s 0 (pAddr pk) (pSize pk) = false ∧ s.replay = [] ∧ pbits pk 257 257 = last ∧ pbits pk 271 258 = 0 ∧
      (let a := arrivalOf s 0 0; a.told = false ∧ a.fail = none ∧ ({ a with got := tset a.got 0 8 } : Arrival).upTo 1 = true) ∧
      (let s := setArrival s { adev := 0, atag := 0, member := some 0 } true; (arrivalOf s 0 0).member = some 0)) ∧
    (let m := newPacket tS 0x0B 0 0 [] []; ∀ k ∈ [0, 0xE], let s := tEv (tS.setPort 40 { (tS.port 40).setChan 0 { (tS.port 40).chan 0 with ingress := [m] } with markers := BitVec.ofNat 4 k }) 40 0; let v := s.port s.ev.n;
      isPort s.ev.n = true ∧ (v.chan (s.ev.k % 4)).ingress = [m] ∧ m.kind = 0x0B ∧ decide (v.markers ||| BitVec.ofNat 4 (2 ^ (s.ev.k % 4)) = 15) = (k == 0xE)) := by decide +kernel
/-- A Collective packet for a rank that is here or not; a rank in each of its phases. -/
theorem witness_FabricEvents_collective : (∀ l ∈ [[tCollR 1], []], let pk := newPacket tS 0x0C 0 0 [(423, 408, 1)] []; let s := tFlag (tFab (tColl 1 l) (fun f => { f with deliver := [pk] })); s.ev.flag = true ∧
      (takeDelivered s 0x0C).any (fun p => p.2 == pk && (collDeliver p.1 pk).isSome) = true ∧ heldArrival ((collTarget s pk).bind (fun c => s.launch c.launch)) = false) ∧
    (∀ c ∈ [{ tCollR 1 with phase := 4 }, { tCollR 1 with phase := 4, code := 0x30 }, { tCollR 2 with phase := 1 }, { tCollR 1 with phase := 3 }], let s := tEv (tColl 1 [c]) 0 0; s.ev.flag = false ∧ s.coll.find? (fun c => c.id == s.ev.n) = some c ∧
      (collUnit s c).isSome = true ∧ c.log = 0 ∧ s.replay = [] ∧ collDiffers s c (s.ev.k == 1) = false ∧ c.out = none) ∧ (tCollR 2).op = 2 ∧ parentOf (tCollR 2).table (tCollR 2).rank = 0xFFFF ∧
    (let b := (tCollR 1).block.set 6 tTcm; let c := { tCollR 1 with phase := 4, block := b }; let s := tColl 1 [c]; (collUnit s c).any (fun u => okAnd (launchKey s u.launch u.core (c.word 6) 8) (fun k => k == tcmBase && !homeWaits s k 8 && (homeFails s k 8 false).isNone)) = true) ∧
    (let c := { tCollR 2 with phase := 1, rank := 1, table := [[0xFFFF, 0, 0, 0, 0, 0, 0, 0, 0, 0, 0, 0, 0, 0, 0, 0], [0, 0, 0, 0, 0, 0, 0, 0, 0, 0, 0, 0, 0, 0, 0, 0]] }; parentOf c.table c.rank = 0 ∧ collDiffers (tColl 1 [c, { tCollR 1 with id := 1, rank := 0 }]) c false = true) := by decide +kernel
/-! ## Hypotheses that are met: the package and the memories -/

theorem witness_PackageAndMemoryEvents_package : (∀ p ∈ [Power.waitImage, .ready, .off], (tPow p []).pkg.power = p) ∧ (∀ b ∈ [true, false], let s := { tPow .waitImage [] with ev := { tS.ev with flag := b } }; s.ev.flag = b ∧ s.ev.image.sideband = false) ∧
    tS.pkg.power = .ready ∧ tS.pkg.signing = none ∧ (let s := { tS with pkg := { tS.pkg with signing := some 1, queue := [2] } }; s.pkg.signing = some 1 ∧ s.pkg.queue = [2]) ∧ tS.pkg.queue = [] ∧
    (tEv tS 0x1000 0).ev.k = 0 ∧ (∀ b ∈ [true, false], let s := { tS with ev := { tS.ev with n := 0x1000, m := 8, flag := b } }; s.ev.n < 0x10000000 ∧ s.ev.m = 8 ∧ s.ev.n % 8 = 0 ∧ s.ev.k = 0) ∧
    (let s := { tS with ev := { tS.ev with n := 0x0FFFFFFC, m := 8 } }; s.ev.n < 0x10000000 ∧ ¬(s.ev.m = 8 ∧ s.ev.n % 8 = 0) ∧ s.ev.flag = false ∧ s.ev.k = 0) ∧ 0x10000000 ≤ (tEv tS 0x10000000 0).ev.n ∧
    (let s := tEv tS 0 63; 0 < s.ev.k ∧ s.ev.k < 64 ∧ s.ev.n = 0 ∧ s.ev.flag = false) := by decide +kernel
/-- A page walk of context 0 for a mapped page and for one that no table maps; an invalidation of it. -/
def tWalk (v : Nat) : State := let s := tMap tS; tEv { s with xlt := { s.xlt with walks := [{ ctx := 0, vpage := v, die := 0, cores := [0], tids := [0] }] } } 0 0
def tInv (n : Nat) : Inv := { all := false, ctx := 0, vpage := 1, walks := n, mark := 1 }
theorem witness_PackageAndMemoryEvents_translation : (∀ v ∈ [1, 0x4000], (tWalk v).xlt.walks[(tWalk v).ev.n]? = some { ctx := 0, vpage := v, die := 0, cores := [0], tids := [0] }) ∧
    okAnd (walkTables (tWalk 1) 0 (1 * 0x10000)) (fun e => e.vpage == 0 && e.pages == 0x4000) = true ∧ (match walkTables (tWalk 0x4000) 0 (0x4000 * 0x10000) with | .error _ => true | .ok _ => false) = true ∧
    (∀ n ∈ [0, 1], let s := { tS with xlt := { tS.xlt with invs := [tInv n] } }; s.xlt.invs = [tInv n] ∧ (tInv n).walks = n ∧ s.far.any (fun f => f.under (tInv n)) = false) := by decide +kernel
/-- A launch that holds cluster 0, one that holds nothing; banks that go off and come back. -/
def tFree : State := { tS with launches := [] }
def tGate (s : State) (w : Nat) : State := { tEv s 0 0 with ev := { (tEv s 0 0).ev with word := BitVec.ofNat 64 w } }
theorem witness_PackageAndMemoryEvents_gates : 256 ≤ (tEv tS 256 0).ev.n ∧ (tEv tS 0 0).ev.n < 256 ∧ clusterUsed tS 0 = true ∧ clusterUsed tFree 0 = false ∧
    (∀ b ∈ [true, false], let s := tGate (if b then tS else tFree) 1; s.ev.word &&& ~~~(s.cluster 0).gate ≠ 0 ∧ s.launches.any (fun l => l.holds s && (l.inCluster 0).isSome && l.spu != 0) = b) ∧
    (let s := tGate (tS.setCluster 0 { tS.cluster 0 with gate := 1, off := 1 }) 0; (s.cluster 0).epoch = 0 ∧ bitOf ((s.cluster 0).gate &&& ~~~s.ev.word &&& (s.cluster 0).off) (spadBank (s.cluster 0) 0) = true ∧ s.ev.word &&& ~~~(s.cluster 0).gate = 0) ∧
    (let s := tGate (tFree.setDie 0 { tFree.die 0 with gate := 1, off := 1 }) 2; s.ev.n < 4 ∧ (setBitsOf 10 2).any (fun g => segmentUsed s (sramBase + g * 0x4000000)) = false ∧
      bitOf ((s.die 0).gate &&& ~~~(2 : BitVec 10) &&& (s.die 0).off) 0 = true) ∧
    (let s := tGate (tMap { tS with launches := tS.launches.map (fun l => { l with packet := l.packet.set 6 1 }) }) 1;
      let s := { s with mem := memPuts (memPuts s.mem 0x200000 (natBytes 8 (2 ^ 63 + 0x400000))) 0x400000 (natBytes 8 (2 ^ 63 + 2 ^ 62 + sramBase + 0xFE)) };
      (setBitsOf 10 1).any (fun g => segmentUsed s (sramBase + g * 0x4000000)) = true ∧ (s.die 0).gate = 0) ∧
    (tEv tS 0 0).ev.flag = false ∧ (tFlag (tEv tS 0 0)).ev.flag = true := by decide +kernel
/-! ## Hypotheses that are met: the clauses beside the plain case -/

/-- A turn in which something was issued, and one in which nothing was. -/
theorem witness_StepRunsDecoded_turn : progressed (tS.thread 0) ((afterNone tS).thread 0) = true ∧ progressed (tS.thread 0) (tS.thread 0) = false := by decide +kernel
/-- The own TCM in an ordered activation that buffers. -/
theorem witness_TotalOrderAtomics_ordered : (let s := tX tOrd 5 tTcm; quiet s = true ∧ buffers s = true ∧ (rdX s 5).toNat % 8 = 0 ∧ localKey s s.cur (rdX s 5) 8 = .ok tcmBase) ∧
    buffers tM = false ∧ okAnd (place tF (rdX tF 5) 8 [rightRD, rightWR]) (fun p => localFree p.1 (masksOf tF 5 6) 0x10040 8 &&
      localFree p.1 (((maskOf tF 5).or (maskOf tF 6)).or (maskOf tF 7)) 0x10040 8) = true := by decide +kernel
/-- A repetition whose body is executing. -/
def tRepOn (s : State) : State := tT s (fun t => { t with rep := some tRep0 })
theorem witness_CsrInstructions_rep : (tRepOn tS).th.window = [] ∧ inRep (tRepOn tS) = true ∧ csrKind (0xFFF : BitVec 12).toNat = .absent ∧ inRep tTask = false ∧
    (tRepOn tTask).th.kernel = false ∧ (tRepOn tTask).th.window = [] ∧ inRep (tRepOn tTask) = true ∧ tBp.th.entries.length < 16 := by decide +kernel
theorem witness_NodeChildAndCalls_target : (receiver tM (some tM.mySeq) (tM.ctx tM.myCtx).job false 0).any (fun l => tM.launch l.seq == some l && !launchSaved tM l && !createFull tM l 0) = true ∧
    (Record.valid (callImage (tWork 0 8))) = true ∧ quiet (tRec (tWork 0 8)) = true := by decide +kernel
/-- A read stream that has fetched its next element. -/
theorem witness_StreamUnits_ahead : (let u := { tUnit true with ahead := [7] }; let s := setUnit tM 0 (some u); boundUnit s 0 = some u ∧ u.write = false ∧ u.ahead ≠ [] ∧ s.th.window = [] ∧ s.th.rep = none ∧
      s.th.fol = none ∧ s.winRun = none ∧ s.far = []) ∧ ((tBound false).co.streams.toList.getD 0 none).all (fun x => x.owner == (tBound false).cur) = true := by decide +kernel
/-- An irrevocable activation is not meant; the window's thread set has no register error. -/
theorem witness_CoreEvents_plain : ((tWin 0 none).thread 0).bad = 0 ∧ (let s := tFly (tOne (.atomic .add 1 0 false) 0x10040 [] false); s.replay = [] ∧ (s.thread 0).act.all (fun y => !y.irrevocable) = true) ∧
    breakpointHit tS = false ∧ breakpointHit tBp = true := by decide +kernel
/-- The hub waits for a segment that wakes: the one that holds the tables, or the queue. -/
def tAsleep (s : State) : State := (s.setDie 0 { s.die 0 with wake := 1 }).setCtx 0 { s.ctx 0 with ptroot := BitVec.ofNat 64 (sramBase + 1) }
theorem witness_SchedulerEvents_waits : (∀ v ∈ [1, 2], let s := tQueue v; hubWaits s 0 ((s.ctx 0).lqBase + BitVec.ofNat 64 (256 * ((s.ctx 0).lqHead.toNat % (s.ctx 0).lqSize))) 256 = false) ∧
    (∀ b ∈ [true, false], commitWaits (tCommit b) 0 (bufStores (tBuf b)) = false) ∧ (tReplay.launch 0).any (fun l => !tableWaits tReplay l) = true ∧
    tablesWait (tOver 0x10080) 0 0x10080 8 = false ∧ tablesWait (tAsleep (tOver 0x10080)) 0 0x10080 8 = true ∧ ((tAsleep (tOver 0x10080)).launch 0).any (fun l => launchOver (tAsleep (tOver 0x10080)) l) = true ∧
    (let s : State := { tS with launches := tS.launches.map (fun (l : Launch) => { l with pools := tset l.pools 0 [5] }) }; (s.launch 0).any (fun l => schedules s l && (l.inCluster 0).isSome && tget l.poolRecords 0 [] == [] &&
      tget l.pools 0 [] == [5] && l.grain == 0 && l.crlvl != 7) = true) ∧ (tLevel.launch 0).any (fun l => !launchSaved tLevel l) = true ∧ (tIdle.launch 0).any (fun l => tIdle.launch l.seq == some l && !launchSaved tIdle l) = true := by decide +kernel
/-- A saved thread set with queue entries that have come back, or still wait. -/
def tSavedQ (w : List Entry) (img : Option SavedCtx) : State := let s := tSave .restoring
  let s := s.setCore 0 { s.core 0 with mq := { writeback := w } }
  s.setCtx 0 { s.ctx 0 with image := img }
theorem witness_ContextEvents_restore : (let s := tSaved false .restoring; s.cpl.state = .idle ∧ (residents s 0).length = 1 ∧ (residents s 0).all (fun l => l.tids.contains 0 && (l.onCore (coreOf 0)).isSome) = true ∧
      entriesWait (writeBack s 0 { threads := [(0, tS.th)] }) 0 = false) ∧
    (∀ w ∈ [[tEnt], []], (tSavedQ w none).cpl.state = .idle ∧ ((tSavedQ w none).ctx 0).image = none ∧ ((tSavedQ w none).ctx 0).save = .restoring ∧ entriesWait (tSavedQ w none) 0 = (w != [])) ∧
    (tPow .ready []).posted = [] := by decide +kernel
/-- Compline under TIER 1: a copy to the buddy, which has room or has none. -/
def tTier (full : Bool) : State := let s := tCpl .copy false
  { s with cpl := { s.cpl with tier := true, dest := 0x0002000000000000, pos := 0 },
           fabric := { s.fabric with requests := if full then List.replicate 32 { pkt := { newPacket s 3 1 0 (reqFields 0 8 5) [] with job := s.cpl.cpjob }, access := none, ctx := 0 } else [] } }
theorem witness_ComplineAndReadOut_tier : (∀ b ∈ [true, false], let s := tTier b; s.cpl.state = .copy ∧ s.cpl.tier = true ∧ s.cpl.pos = 0 ∧ s.far = [] ∧
      peerLimitOf s none s.cpl.cpjob (cplBuddy s) (addr48 s.cpl.dest + 4096 * 0) true = b) ∧
    (∀ v ∈ [CplState.copy, .sealing], ∀ b ∈ [true, false], (tCpl v b).cpl.tier = false ∧ (tCpl v b).ev.own = false) ∧
    (∀ l ∈ [[], [tEnt]], let s := tCpl .hold true; let img : SavedCtx := { threads := [(0, tS.th)], cores := [({ core := 0, mq := l } : SavedCore)] }
      let s := s.setCtx 0 { s.ctx 0 with image := some img }; s.cpl.waiting = [] ∧ s.cpl.held = [0] ∧ (s.ctx 0).save = .saved ∧ (residents s 0).any (imageBad s) = false ∧
      entriesWait (writeBack { s with cpl := { s.cpl with hold := false, state := .resume } } 0 img) 0 = (l != [])) := by decide +kernel
theorem witness_ComplineAndReadOut_readings : (∀ m ∈ [0, 1, 3], ({ tS with ev := { tS.ev with m := m } } : State).ev.m = m) ∧ tS.ev.n < 256 ∧ (tCpl .hold true).cpl.hold = true ∧
    (let s := tFeat (tSave .running) 1; (s.ctx 0).dump = none) := by decide +kernel
/-- Input buffers with room and without; a replay asked for once, sixteen times, or for another flit; a changed mask after its error. -/
theorem witness_LinkTransport_more : (∀ h ∈ [0, 2048], let v := (tPt id).setChan 0 { (tPt id).chan 0 with held := h }; decide (portSlots 40 < (v.chan 0).held + flitsOf (tPk 3 16)) = (h == 2048)) ∧
    (tFlag (tPort (fun v => { v with rxBad := true }))).ev.flag = true ∧ (∀ b ∈ [true, false], (tPt (fun v => { v with nrz := b })).nrz = b) ∧
    (∀ n ∈ [0, 1, 16], let v := tPt (fun v => { v with replayRuns := n }); v.replayRuns = n ∧ v.replayOf = BitVec.ofNat 16 (bitsOf (tPort id).ev.word 15 0)) ∧
    (tPt (fun v => { v with replayOf := 5 })).replayOf ≠ BitVec.ofNat 16 (bitsOf (tPort id).ev.word 15 0) ∧
    (∀ c < 4, (tPt id).ready c = false) ∧ kindDefined (tPk 3 0).kind.toNat = true ∧ (tPt id).replayRuns = 0 := by decide +kernel
/-- A port dark for a while; a park that waits for its flit; a wake whose stripe change waits, and one that may go. -/
theorem witness_LinkStates_more : (∀ st ∈ [PortState.dark, .relock], (tPt (fun v => { v with state := st, darkSince := some 0 })).darkSince = some 0) ∧
    (let v := tPt (fun v => { v with parkWait := true }); v.parkWait = true ∧ v.state = .up) ∧
    (let v := tPt (fun v => { v with waking := true }); v.waking = true ∧ v.wakeWait = false ∧ v.state = .up) ∧ (tPt (fun v => { v with wakeWait := true })).wakeWait = true ∧
    (tPt (fun v => { v with keep := 0xF })).keepOk = true ∧ (tPt (fun v => { v with active := 0xF, keep := 0xF })).active = 0xF := by decide +kernel
/-- The escape: to this device, where a port is named, and where none is. -/
theorem witness_FabricEvents_escape : (∀ d ∈ [0, 1], let s := tEv (tS.setPort 40 ((tS.port 40).setChan 0 { (tS.port 40).chan 0 with ingress := [tTo d] })) 40 0; let r := takeInput s (s.ev.n + 1) s.ev.k; r.isSome = true ∧
      isPort s.ev.n = true ∧ s.ev.k < 3) ∧ escapePort tS (tTo 1).gen 1 = none ∧
    escapePort (tFab tS (fun f => { f with members := [(1, BitVec.ofNat 64 (2 ^ 63 + 40 * 2 ^ 32))] })) false 1 = some 40 ∧ (tTo 1).gen = false := by decide +kernel
theorem witness_FabricEvents_status : (∀ st ∈ [0, 0x30], let f := { tFar 2 with kind := .forward false, data := natBytes 8 (0x0003000000000000) ++ natBytes 8 64 }; let s := tAns 9 st f 7;
      (takeDelivered s 9).any (fun p => (requestOf p.1 (pTag p.2)).any (fun r => r.pkt.kind.toNat == 7 && r.pkt.dest.toNat == p.2.origin.toNat && r.access == some f.id) &&
        p.1.far.find? (fun g => g.id == f.id) == some f && p.1.fabric.deliveries.isEmpty && pbits p.2 303 288 == p.2.origin.toNat && pbits p.2 271 258 == 0 && (jobCtx p.1 p.2.job).isNone && !(destsOf p.1 f none).contains (ownId p.1) && !(destsOf p.1 f (some 0)).contains (ownId p.1)) = true) := by decide +kernel
theorem witness_PackageAndMemoryEvents_more : (let w : Walk := { ctx := 0, vpage := 1, die := 0, cores := [0], tids := [0] }; walkRuns (tWalk 1) 0 w = true ∧ (tWalk 1).xlt.wait = [] ∧ (tWalk 0x4000).xlt.wait = [] ∧
      walkRuns (tAsleep (tWalk 1)) 0 w = false ∧ walkRuns (tWalk 0x4000) 0 { w with vpage := 0x4000 } = true) ∧
    tS.posted = [] ∧ tS.replay = [] ∧ (tPow .waitImage []).pkg.power = .waitImage ∧ (tPow .waitImage []).ev.n + 8 ≤ 0x4000000 ∧ tS.pkg.power ≠ .waitImage ∧
    (∀ b ∈ [true, false], let s := { tPow .waitImage [] with ev := { tS.ev with flag := b, m := 8, n := 0x3FFFFF8 } }; s.ev.n + s.ev.m ≤ 0x4000000 ∧ s.ev.flag = b ∧ s.ev.k = 0) := by decide +kernel
/-- Barriers: one of another context, and the two phases of one that matches. -/
theorem witness_Barriers_phases : (let s := tBar (some 3) 0 0; quiet s = true ∧ barrierOk (rdX s 1) = true ∧ (getBarrier s s.myCluster (rdX s 1)).matches s.myCtx (rdX s 1) = false ∧
      (tArr s 0).barSent.length = 1 ∧ (tArr s 0).ev.n = 0) ∧
    (∀ w ∈ [0, 2 ^ 32], let s := tX (tBar (some 0) 0 0) 1 (BitVec.ofNat 64 w); quiet s = true ∧ barrierOk (rdX s 1) = true ∧
      (getBarrier s s.myCluster (rdX s 1)).matches s.myCtx (rdX s 1) = true ∧ ((getBarrier s s.myCluster (rdX s 1)).phase == bitOf (rdX s 1) 32) = (w == 0)) := by decide +kernel
/-- A target of call.at with a reserved bit, one of each kind. -/
theorem witness_NodeChildAndCalls_reserved : [0x10000, 0x1000, 0x8100].all (fun v => let s := tX (tRec (tWork 0 8)) 6 (BitVec.ofNat 64 v)
    quiet s && decide (deviceField (rdX s 6) ≤ 0x8000) && (bitsOf (rdX s 6) 47 16 != 0 || bitsOf (rdX s 6) 14 12 != 0 || (bitOf (rdX s 6) 15 && bitsOf (rdX s 6) 11 8 != 0)) &&
    nearAt s (masksOf s 5 6) (rdX s 5) 64 tcmBase true) = true := by decide +kernel
/-- A launch whose deques have no tier in die SRAM: no table places one. -/
theorem tablesOff_none {s : State} {l : Launch} {g k n : Nat} (h : l.dqsram = 0) : tablesOff s l g k n := by
  intro q hq; omega
theorem tablesApart_none {s : State} {l : Launch} (h : l.dqsram = 0) : tablesApart s l := fun _ _ _ _ _ => tablesOff_none h
/-- A bound write stream, with a far load into its register and without. -/
def tWrStream (b : Bool) : State := let s := setUnit tM 1 (some { tUnit true with write := true })
  { s with far := if b then [{ tFar 0 with dest := .v 1 }] else [] }
theorem witness_StreamUnits_end : (∀ b ∈ [true, false], (tWrStream b).th.window = [] ∧ (tWrStream b).th.rep = none ∧ (tWrStream b).th.fol = none ∧
      (boundUnit (tWrStream b) 1).any (fun x => x.write) = true ∧ farPendV (tWrStream b) (tWrStream b).cur ((1 : BitVec 2).zeroExtend 5) = b) ∧ (tBound true).th.bad = 0 := by decide +kernel
/-- A descent unit of another launch. -/
theorem witness_DescentAndCollectives_foreign : (let s := tTree (fun u => { u with launch := 3 }) .done; quiet s = true ∧ treeForeign s = true ∧ s.co.tree.state ≠ .descending) ∧
    treeForeign (tBlk tTreeW) = false ∧ treeForeign (tTree (fun u => { u with runner := some 1 }) .descending) = false := by decide +kernel
/-- A ctx.load whose restore is not asked for yet. -/
theorem witness_ContextAndDebugInstructions_load : (let s := tT (tCtx (fun x => { x with save := .saved })) (fun t => { t with mark := some (9, 3, 0) }); quiet s = true ∧ s.th.kernel = true ∧
    s.myCtx = 0 ∧ s.th.mark = some (9, 3, 0) ∧ (s.ctx 3).live = true ∧ (s.ctx 3).save = .saved ∧ (s.ctx 3).restoreErr = false ∧ (s.ctx 3).restoreWanted = false) := by decide +kernel
/-- The window's thread set has had no mismatch; a replay that waits for rows of a peer, and one that does not. -/
theorem witness_CoreEvents_results : ((tWin 0 none).thread 0).misres = 0 ∧ (tEntry 0).begun = false ∧ (tOne .load 0x10040 [] false).pieces.all (fun p => p.off.isNone) = true ∧
    (∀ f ∈ [0, 2], (tFar f).pieces.length = 1) := by decide +kernel
def tLog (a : Nat) : State := let s := tStop 2
  { s with dbg := { s.dbg with rplCount := 1, log := [(tTw 4 0 (a * 2 ^ 87), 0, 0, 0)] } }
theorem witness_CoreEvents_replay : [(0x0002000000010000, true), (0xFFFFFFFE0000, false)].all (fun p => let s := tLog p.1
    (replayAsk s (bitsOf s.dbg.elogCtl 27 16) ((s.dbg.log.drop s.dbg.rplFirst.toNat).take s.dbg.rplCount.toNat)).2 == p.2) = true := by decide +kernel
/-- A doorbell behind an access of its function, and of another. -/
theorem witness_SchedulerEvents_posted : [(0, true), (1, false)].all (fun p => let s : State := { tEv (tMap tS) 0 0 with posted := [(.registerWrite, { k := p.1 })] }
    s.posted.any (fun q => hostFn q == s.ev.n) == p.2) = true := by decide +kernel
/-- A launch whose die-SRAM tier lies behind a waking table; no launch of the tests has such a tier otherwise; no stop of every thread
set. -/
theorem witness_SchedulerEvents_tiers : (let s := tAsleep (tQueue 1); let l := { tNew s 1 with packet := (tNew s 1).packet.set 6 1 }; l.dqsram ≠ 0 ∧ tablesWait s 0 l.dqbase (4096 * l.dqsram * 64) = true) ∧
    (∀ v ∈ [1, 2], (tNew (tQueue v) v).dqsram = 0) ∧ tIdle.allStopped = false ∧ (tLevel.launch 0).any (fun l => l.dqsram == 0) = true ∧
    (∀ b ∈ [true, false], (bufStores (tBuf b)).all (fun p => (match decodeAddr (tCommit b) p.1 with | .translated va => (inletAt (tCommit b) 0 va).isNone | _ => false)) = true) := by decide +kernel
/-- A save that fails at the header, with nothing that has an error on a core; an image that can be read, and one that cannot. -/
theorem witness_ContextEvents_errors : (let s := { tSave .writing with poison := [0x1000000] }; saveError s 0 = some 0 ∧ (residents s 0).all (fun l => l.cores.all (fun a => (coreErrors s l a).isEmpty)) = true) ∧
    (∀ b ∈ [true, false], restoreBad (tSaved b .restoring) 0 = b) ∧ restoreBad (tCpl .hold true) 0 = false ∧ Memory.wf (tSave .writing).mem := by decide +kernel
theorem witness_ComplineAndReadOut_regs : ∀ m ∈ [0, 3], let s : State := { tPow .frozen [] with ev := { tS.ev with m := m } }; s.pkg.power = .frozen ∧ s.ev.m = m := by decide
/-- An entry that has been overtaken, whose step is the overtaking; an entry that is not. -/
theorem witness_EngineEntries_overtaken : (let p := tEn tTcw 1; let e := { tEn (tTw 3 0 (2 ^ 181)) 0 with eprio := 2, id := 1 }; let s := tEv (tMap (tQ tS { running := some p, queued := [e] } {})) 0 0;
      s.ev.k = 0 ∧ (s.core s.ev.n).mq.running = some p ∧ tcwOp p.tcw = 3 ∧ engineMay s s.ev.n 0 p = true ∧ (entryUnit s s.ev.n 0 p).isSome = true ∧ s.far = [] ∧ p.failing = none ∧ p.progress ≠ 0 ∧
      p.progress < entrySteps p ∧ overtakes s s.ev.n = some e) ∧
    (let e := tEn tTcw 0; let s := tEv (tQ tS { running := some e } {}) 0 0; e.part = 0 ∧ overtakes s s.ev.n = none) := by decide +kernel
/-- A far access to a peer whose piece is to leave; the piece of an answer; a forward at the owner whose tables and ring do not wait. -/
theorem witness_FabricEvents_pieces : (tFar 2).pieces.length ≤ 1 ∧ (tFar 2).gives = true ∧ ({ tFar 2 with kind := .store } : Far).gives = false ∧
    (∀ k ∈ [2, 4, 6], let s := tAns k 0 (tFar 2) 1; (takeDelivered s k).any (fun p => (requestOf p.1 (pTag p.2)).any (fun r => r.piece == 0)) = true) ∧
    (let s := tReq 7 0x10080 8 [(329, 304, 64), (303, 288, 2)]; tablesWait s 0 (pAddr (tPkOf s)) (pbits (tPkOf s) 329 304) = false) ∧
    ringsWait (tMap tS) 0 (List.range 64) = false ∧ jobCtx tS 0 = none ∧
    (match requestKeys (tReq 5 0x10080 0 []) 0 (tPkOf (tReq 5 0x10080 0 [])) [rightPRD, rightPWR] with | .error e => e == 1 | .ok _ => false) = true := by decide +kernel
/-- The grid's base in the scratchpad window, and the image from a recovery path. -/
theorem witness_LinkStates_grid : (let s : State := { tS with grid := { tS.grid with int := 7, base := 0xFFF000000000 } }; s.grid.int ≠ 0 ∧ inWindows s.grid.base 10304 = true ∧ s.ev.flag = false) ∧
    (∀ b ∈ [true, false], ({ tS.ev.image with sideband := b } : FirmwareImage).sideband = b) := by decide +kernel
/-! ## A word of every row that has an encoding, put together from the fields of the row -/

/-- LUI, AUIPC, JAL, JALR, branches (R329 to R331). -/
theorem test_words_upper_jumps : [
    (0x2D2D2337, .lui 6 0x2D2D2), (0x96969397, .auipc 7 0x96969), (0xDA62A2EF, .jal 5 0x952D3), (0xA5AB0367, .jalr 6 22 0xA5A),
    (0xA5A906E3, .beq 18 26 0xD26), (0xA59995E3, .bne 19 25 0xD25), (0xA58A44E3, .blt 20 24 0xD24), (0xA5BAD3E3, .bge 21 27 0xD23),
    (0xA5AB62E3, .bltu 22 26 0xD22), (0xA59971E3, .bgeu 18 25 0xD21)].all (fun p => decodeTableWord 32 p.1 == some p.2) = true := by decide +kernel
/-- Loads and stores, LOAD-FP and STORE-FP, FENCE (R332, R348, R366). -/
theorem test_words_loads_stores : [
    (0x2D298383, .lb 7 19 722), (0x969A1283, .lh 5 20 0x969), (0x4B4AA303, .lw 6 21 0x4B4), (0xA5AB3383, .ld 7 22 0xA5A), (0x5A594283, .lbu 5 18 0x5A5),
    (0x2D29D303, .lhu 6 19 722), (0x969A6383, .lwu 7 20 0x969), (0xAB9A8723, .sb 25 21 0xAAE), (0xAB8B17A3, .sh 24 22 0xAAF),
    (0xABB92823, .sw 27 18 0xAB0), (0xABA9B8A3, .sd 26 19 0xAB1), (0x0A5A030F, .fence 6 20 0 10 5), (0x833A838F, .fenceTso 7 21),
    (0x4B4AC287, .vl 5 21 0x4B4), (0x406B5307, .vlTr 6 22 1 6), (0xB1A94CA7, .vs 26 18 0xB19)].all (fun p => decodeTableWord 32 p.1 == some p.2) = true := by decide +kernel
/-- OP-IMM and OP-IMM-32 (R330). -/
theorem test_words_immediate : [
    (0xA5AB0293, .addi 5 22 0xA5A), (0x5A592313, .slti 6 18 0x5A5), (0x2D29B393, .sltiu 7 19 722), (0x969A4293, .xori 5 20 0x969),
    (0x4B4AE313, .ori 6 21 0x4B4), (0xA5AB7393, .andi 7 22 0xA5A), (0x02591293, .slli 5 18 37), (0x0129D313, .srli 6 19 18), (0x429A5393, .srai 7 20 41),
    (0x600A9293, .clz 5 21), (0x601B1313, .ctz 6 22), (0x60291393, .cpop 7 18), (0x60499293, .sextB 5 19), (0x605A1313, .sextH 6 20),
    (0x634AD393, .rori 7 21 52), (0x287B5293, .orcB 5 22), (0x6B895313, .rev8 6 18), (0x2D29839B, .addiw 7 19 722), (0x009A129B, .slliw 5 20 9),
    (0x0B4A931B, .slliUw 6 21 52), (0x01AB539B, .srliw 7 22 26), (0x4059529B, .sraiw 5 18 5), (0x6129D31B, .roriw 6 19 18), (0x600A139B, .clzw 7 20),
    (0x601A929B, .ctzw 5 21), (0x602B131B, .cpopw 6 22)].all (fun p => decodeTableWord 32 p.1 == some p.2) = true := by decide +kernel
/-- OP and OP-32 (R330). -/
theorem test_words_register_1 : [
    (0x019903B3, .add 7 18 25), (0x018992B3, .sll 5 19 24), (0x01BA2333, .slt 6 20 27), (0x01AAB3B3, .sltu 7 21 26), (0x019B42B3, .xor 5 22 25),
    (0x01895333, .srl 6 18 24), (0x01B9E3B3, .or 7 19 27), (0x01AA72B3, .and 5 20 26), (0x419A8333, .sub 6 21 25), (0x418B53B3, .sra 7 22 24),
    (0x41B972B3, .andn 5 18 27), (0x41A9E333, .orn 6 19 26), (0x419A43B3, .xnor 7 20 25), (0x038A82B3, .mul 5 21 24), (0x03BB1333, .mulh 6 22 27),
    (0x03A923B3, .mulhsu 7 18 26), (0x0399B2B3, .mulhu 5 19 25), (0x038A4333, .div 6 20 24), (0x03BAD3B3, .divu 7 21 27), (0x03AB62B3, .rem 5 22 26),
    (0x03997333, .remu 6 18 25), (0x2189A3B3, .sh1add 7 19 24), (0x21BA42B3, .sh2add 5 20 27), (0x21AAE333, .sh3add 6 21 26), (0x0B9B43B3, .min 7 22 25),
    (0x0B8952B3, .minu 5 18 24), (0x0BB9E333, .max 6 19 27), (0x0BAA73B3, .maxu 7 20 26), (0x619A92B3, .rol 5 21 25), (0x618B5333, .ror 6 22 24),
    (0x01B903BB, .addw 7 18 27), (0x01A992BB, .sllw 5 19 26), (0x019A533B, .srlw 6 20 25), (0x418A83BB, .subw 7 21 24), (0x41BB52BB, .sraw 5 22 27),
    (0x03A9033B, .mulw 6 18 26), (0x0399C3BB, .divw 7 19 25), (0x038A52BB, .divuw 5 20 24), (0x03BAE33B, .remw 6 21 27), (0x03AB73BB, .remuw 7 22 26)].all (fun p => decodeTableWord 32 p.1 == some p.2) = true := by decide +kernel
/-- OP and OP-32 (R330). -/
theorem test_words_register_2 : [
    (0x099902BB, .addUw 5 18 25), (0x0809C33B, .zextH 6 19), (0x21BA23BB, .sh1addUw 7 20 27), (0x21AAC2BB, .sh2addUw 5 21 26),
    (0x219B633B, .sh3addUw 6 22 25), (0x618913BB, .rolw 7 18 24), (0x61B9D2BB, .rorw 5 19 27)].all (fun p => decodeTableWord 32 p.1 == some p.2) = true := by decide +kernel
/-- AMO and SYSTEM (R349, R332, R334). -/
theorem test_words_amo_csr : [
    (0x01AA232F, .amoaddW 6 20 26 0 0), (0x079AB3AF, .amoaddD 7 21 25 1 1), (0x098B22AF, .amoswapW 5 22 24 0 0), (0x0FB9332F, .amoswapD 6 18 27 1 1),
    (0x21A9A3AF, .amoxorW 7 19 26 0 0), (0x279A32AF, .amoxorD 5 20 25 1 1), (0x418AA32F, .amoorW 6 21 24 0 0), (0x47BB33AF, .amoorD 7 22 27 1 1),
    (0x61A922AF, .amoandW 5 18 26 0 0), (0x6799B32F, .amoandD 6 19 25 1 1), (0x818A23AF, .amominW 7 20 24 0 0), (0x87BAB2AF, .amominD 5 21 27 1 1),
    (0xA1AB232F, .amomaxW 6 22 26 0 0), (0xA79933AF, .amomaxD 7 18 25 1 1), (0xC189A2AF, .amominuW 5 19 24 0 0), (0xC7BA332F, .amominuD 6 20 27 1 1),
    (0xE1AAA3AF, .amomaxuW 7 21 26 0 0), (0xE79B32AF, .amomaxuD 5 22 25 1 1), (0x00000073, .ecall), (0x00100073, .ebreak),
    (0x969A12F3, .csrrw 5 20 0x969), (0x4B4AA373, .csrrs 6 21 0x4B4), (0xA5AB33F3, .csrrc 7 22 0xA5A), (0x5A52D2F3, .csrrwi 5 0x5A5 5),
    (0x2D296373, .csrrsi 6 722 18), (0x9694F3F3, .csrrci 7 0x969 9)].all (fun p => decodeTableWord 32 p.1 == some p.2) = true := by decide +kernel
/-- custom-0 (R315). -/
theorem test_words_custom0_1 : [
    (0x0199A28B, .vadd 5 19 25 2), (0x058A330B, .vsub 6 20 24 3), (0x09BA838B, .vmul 7 21 27 0), (0x0DAB128B, .vmulh 5 22 26 0 1),
    (0x1399230B, .vmac 6 18 25 1 2), (0x1589B38B, .vmin 7 19 24 0 3), (0x1BBA028B, .vmax 5 20 27 1 0), (0x1C0A930B, .vabs 6 21 1),
    (0x219B738B, .vand 7 22 25), (0x2589728B, .vor 5 18 24), (0x29B9F30B, .vxor 6 19 27), (0x2DAA138B, .vsll 7 20 26 1), (0x319AA28B, .vsrl 5 21 25 2),
    (0x358B330B, .vsra 6 22 24 3), (0x39B9038B, .vcmpEq 7 18 27 0), (0x3DA9928B, .vcmpNe 5 19 26 1), (0x439A230B, .vcmpLt 6 20 25 1 2),
    (0x478AB38B, .vcmpLe 7 21 24 1 3), (0x49BB428B, .vfadd 5 22 27 4), (0x4DA9530B, .vfsub 6 18 26 5), (0x5199E38B, .vfmul 7 19 25 6),
    (0x558A428B, .vfma 5 20 24 4), (0x59BAD30B, .vfmin 6 21 27 5), (0x5DAB638B, .vfmax 7 22 26 6), (0x6399228B, .vdot 5 18 25 1 2),
    (0x6609B30B, .vredsum 6 19 1 3), (0x6A0A038B, .vredmax 7 20 1 0), (0x6E0A928B, .vredmin 5 21 1 1), (0x700B530B, .vrcp 6 22 5),
    (0x7409638B, .vrsqrt 7 18 6), (0x7809C28B, .vexp2 5 19 4), (0x7C0A530B, .vlog2 6 20 5), (0x800AE38B, .vtanh 7 21 6), (0x840B428B, .verf 5 22 4),
    (0x89B9030B, .vperm 6 18 27 0), (0x8DA9938B, .vzip 7 19 26 1), (0x919A228B, .vunzip 5 20 25 2), (0x940AB30B, .vbcast 6 21 3),
    (0x981B038B, .vext 7 22 1 0), (0x9C19128B, .vins 5 18 1 1)].all (fun p => decodeTableWord 32 p.1 == some p.2) = true := by decide +kernel
/-- custom-0 (R315). -/
theorem test_words_custom0_2 : [
    (0xA009F30B, .vmv 6 19), (0xA53A638B, .vmxEnc 7 20 0 19 6), (0xA95AC28B, .vmxDec 5 21 21 4), (0xF5AB130B, .vsel 6 22 26 26 1)].all (fun p => decodeTableWord 32 p.1 == some p.2) = true := by decide +kernel
/-- custom-1 (R316, R317). -/
theorem test_words_custom1 : [
    (0x8C9953AB, .vcvt 7 18 17 1 9 5), (0xC0A982AB, .vtabEnc 5 19 0 10), (0x418A032B, .vtabDec 6 20 8)].all (fun p => decodeTableWord 32 p.1 == some p.2) = true := by decide +kernel
/-- custom-2 (R318). -/
theorem test_words_custom2 : [
    (0x000A83DB, .ldAcq 7 21), (0x039B005B, .sdRel 22 25), (0x0189135B, .amoScSwap 6 18 24 0), (0x0BB993DB, .amoScAdd 7 19 27 1),
    (0x11AA12DB, .amoScMin 5 20 26 0 0), (0x1F9A935B, .amoScMax 6 21 25 1 1), (0x218B13DB, .amoScCas 7 22 24 0), (0x000B22DB, .fenceS 5 5 2),
    (0x0809A35B, .depJoin 6 19 0 0), (0x140A23DB, .depClr 7 20 1), (0x180AA05B, .depWait 21 0), (0xB5BB335B, .waitAddr 6 22 27 90),
    (0x01A9405B, .barInit 18 26), (0x0209C05B, .barArrive 19), (0x040A405B, .barWait 20), (0x07BAC3DB, .waitAny 7 21 27), (0x01AB52DB, .rdFwd 5 22 26),
    (0x0399535B, .rdCast 6 18 25), (0x0009E3DB, .peerErr 7 19), (0x020A62DB, .peerId 5 20), (0x040AE05B, .peerClr 21), (0x060063DB, .tsGet 7)].all (fun p => decodeTableWord 32 p.1 == some p.2) = true := by decide +kernel
/-- custom-3 (R319 to R321, R351, R387). -/
theorem test_words_custom3_1 : [
    (0x000002FB, .widGet 5), (0x03B9837B, .nodeCh 6 19 27), (0x05AA007B, .callAt 20 26), (0x079A807B, .msgWait 21 25), (0x0800007B, .suspend),
    (0x0A00007B, .yield), (0x0C00007B, .exit), (0x0E0A007B, .taskPush 20), (0x100003FB, .taskPop 7), (0x120B02FB, .taskSplit 5 22),
    (0x1409037B, .taskSteal 6 18), (0x160003FB, .taskCnt 7), (0x180A007B, .follow 20), (0x1A00007B, .followEnd), (0x0009107B, .engPush 18),
    (0x0250107B, .engQfence 5), (0x0410107B, .engWait 1), (0x061013FB, .engStat 7 1), (0x080A907B, .engSave 21), (0x0A0B107B, .engResume 22),
    (0x0C70107B, .accTake 7), (0x0E60107B, .accGive 6), (0x109A107B, .shpLd 20 9), (0x134A907B, .shpSt 21 20), (0x15A0107B, .shpEvict 26),
    (0x1609107B, .tblLd 18), (0x180993FB, .vaccLd 7 19), (0x1B9A107B, .vaccSt 20 25), (0x000AA07B, .rkCfg 21), (0x1000207B, .rkEnc),
    (0x21A9207B, .rkSend 18 26), (0x3600207B, .rkFold 3), (0x480023FB, .rkStat 7 4), (0x5A00207B, .rkDrain 5), (0x6DAB207B, .rkGrad 22 26 6),
    (0x7F99207B, .rkWgrad 18 25 7), (0x8009A07B, .waveCfg 19 0), (0x9200207B, .waveCloseInstr 1), (0xA400207B, .waveWait 2), (0x000B307B, .trCfg 22)].all (fun p => decodeTableWord 32 p.1 == some p.2) = true := by decide +kernel
/-- custom-3 (R319 to R321, R351, R387). -/
theorem test_words_custom3_2 : [
    (0x0209307B, .trDesc 18), (0x0409B3FB, .trPath 7 19), (0x07AA32FB, .trBwd 5 20 26), (0x000AC07B, .collGo 21), (0x020B407B, .collWait 22),
    (0x040942FB, .collStat 5 18), (0x0029D07B, .strmCfg 19 2), (0x999A50FB, .frep 20 9 9 9), (0x0000517B, .strmBind 0), (0x001051FB, .strmEnd 1),
    (0x0000607B, .trapRet), (0x0209E07B, .ctxSave 19), (0x040A637B, .ctxLoad 6 20), (0x060AE07B, .sleep 21), (0x0800607B, .icacheInv),
    (0x0009707B, .dbgMark 18), (0x0200707B, .dbgStop)].all (fun p => decodeTableWord 32 p.1 == some p.2) = true := by decide +kernel
/-! ## Compressed instructions (R312), words of no instruction (R309, R310), ill-formed terms -/

/-- c.addi x5, -3; c.lw x9, 4(x10); c.sd x9, 8(x10); c.j -2; c.beqz x8, 8; c.slli x5, 33; c.jr x1; c.ebreak; c.add x5, x6; c.ldsp x5, 16. -/
theorem test_compressed_expansions : [(0x12F5, .addi 5 5 0xFFD), (0x4144, .lw 9 10 4), (0xE504, .sd 9 10 8), (0xBFFD, .jal 0 0xFFFFF), (0xC401, .beq 8 0 4),
    (0x1286, .slli 5 5 33), (0x8082, .jalr 0 1 0), (0x9002, .ebreak), (0x929A, .add 5 5 6), (0x62C2, .ld 5 2 16)].all (fun p =>
    expandCompressed (BitVec.ofNat 16 p.1) == some p.2) = true := by decide +kernel
/-- All zeros, all ones, an unassigned funct3 of BRANCH, of STORE and of OP, operation 0x2B of custom-0. -/
theorem test_words_of_nothing : [0x00000000, 0xFFFFFFFF, 0x00002063, 0x00004023, 0x04000033, 0x0000000B + 0x2B * 2 ^ 25].all (fun w => decodeTableWord 32 w == none) = true := by decide +kernel
theorem test_illFormed_fields : (Instr.fence 0 0 8 3 3).wf = false ∧ (Instr.vlTr 1 2 2 3).wf = false ∧ (Instr.vlTr 1 2 2 4).wf = true ∧ (Instr.fenceS 0 6 1).wf = false ∧ (Instr.fenceS 0 5 0).wf = false ∧
    (Instr.engPush 3).wf = false ∧ (Instr.engQfence 4).wf = false ∧ (Instr.engQfence 9).wf = false ∧ (Instr.engWait 2).wf = false ∧ (Instr.engStat 5 2).wf = false ∧ (Instr.accTake 8).wf = false ∧ (Instr.accGive 8).wf = false := by decide
theorem test_illFormed_integer_types : ∀ i ∈ [Instr.vadd 1 2 3 4, .vsub 1 2 3 4, .vmul 1 2 3 4, .vabs 1 2 4, .vsll 1 2 3 4, .vsrl 1 2 3 4, .vsra 1 2 3 7, .vmulh 1 2 3 0 4, .vmac 1 2 3 0 4, .vmin 1 2 3 1 5, .vmax 1 2 3 0 4,
    .vperm 1 2 3 4, .vzip 1 2 3 4, .vunzip 1 2 3 4, .vbcast 1 2 4, .vsel 1 2 3 0 4, .vext 1 2 0 4, .vext 1 2 16 0, .vext 1 2 2 3, .vins 1 2 0 4, .vins 1 2 8 1, .vins 1 2 4 2], i.wf = false := by decide
theorem test_illFormed_float_types : ∀ i ∈ [Instr.vcmpEq 1 2 3 7, .vcmpNe 1 2 3 7, .vcmpLt 1 2 3 1 4, .vcmpLe 1 2 3 0 7, .vdot 1 2 3 1 6, .vredsum 1 2 1 5, .vredmax 1 2 0 7, .vredmin 1 2 1 4, .vfadd 1 2 3 3, .vfsub 1 2 3 7, .vfmul 1 2 3 0,
    .vfma 1 2 3 3, .vfmin 1 2 3 1, .vfmax 1 2 3 2, .vrcp 1 2 3, .vrsqrt 1 2 7, .vexp2 1 2 0, .vlog2 1 2 1, .vtanh 1 2 2, .verf 1 2 3, .vmxEnc 1 2 0 0x13 3, .vmxEnc 1 2 0 0x16 6, .vmxDec 1 2 0x0F 6, .vmxDec 1 2 0x15 7], i.wf = false := by decide
theorem test_illFormed_conversions : ∀ i ∈ [Instr.vcvt 1 2 7 0 3 0, .vcvt 1 2 3 0 0x15 0, .vcvt 1 2 11 0 3 0, .vcvt 1 2 3 0 3 0, .vcvt 1 2 3 0 4 7, .vtabEnc 1 2 0 7, .vtabEnc 1 2 0 11, .vtabDec 1 2 9, .vtabDec 1 2 6], i.wf = false := by decide
/-- A term that is not well formed has no word that decodes to it. -/
theorem test_illFormed_has_no_word : (match encode32 (.accTake 8) with | some w => decodeTableWord 32 w != some (.accTake 8) | none => true) = true := by decide +kernel
/-! ## Words and results that the chapters work out -/

/-- The words of R319, R329, R336, R387, R409, R428 and of the table after R321. -/
theorem test_worked_words : [(0x54C5440B, .vfma 8 10 12 4), (0xA4A4D1AB, .vcvt 3 9 0x14 1 10 5), (0x0604B35B, .waitAddr 6 9 0 3), (0x0002107B, .engPush 4),
    (0x3000207B, .rkFold 0), (0x3102D0FB, .frep 5 3 1 0), (0x60131E13, .ctz 28 6), (0x080343BB, .zextH 7 6), (0x0059302F, .amoaddD 0 18 5 0 0), (0x000002FB, .widGet 5),
    (0x02C5857B, .nodeCh 10 11 12), (0x04B5007B, .callAt 10 11), (0x06B5007B, .msgWait 10 11), (0x0800007B, .suspend), (0x0A00007B, .yield), (0x0C00007B, .exit), (0x0E05007B, .taskPush 10), (0x1000057B, .taskPop 10),
    (0x1205067B, .taskSplit 12 10), (0x1405067B, .taskSteal 12 10), (0x1600057B, .taskCnt 10), (0x1805007B, .follow 10), (0x1A00007B, .followEnd), (0x940E950B, .vbcast 10 29 1), (0x9822230B, .vext 6 4 2 2),
    (0xC831208B, .vsel 1 2 3 4 2), (0x0220107B, .engQfence 2), (0x0410107B, .engWait 1), (0x0610157B, .engStat 10 1), (0x0805107B, .engSave 10), (0x0A05107B, .engResume 10), (0x0C20107B, .accTake 2), (0x0E20107B, .accGive 2),
    (0x1025107B, .shpLd 10 2), (0x1225107B, .shpSt 10 2), (0x1420107B, .shpEvict 2), (0x1605107B, .tblLd 10), (0x0005207B, .rkCfg 10), (0x1000207B, .rkEnc), (0x20C5A07B, .rkSend 11 12), (0x3600207B, .rkFold 3),
    (0x4000257B, .rkStat 10 0), (0x5000207B, .rkDrain 0), (0x60B5207B, .rkGrad 10 11 0), (0x70B5207B, .rkWgrad 10 11 0), (0x8005207B, .waveCfg 10 0), (0x9000207B, .waveCloseInstr 0), (0xA000207B, .waveWait 0),
    (0x0005307B, .trCfg 10), (0x0202B07B, .trDesc 5), (0x04033FFB, .trPath 31 6), (0x06C5B57B, .trBwd 10 11 12), (0x0005407B, .collGo 10), (0x0205407B, .collWait 10), (0x0405C57B, .collStat 10 11),
    (0x00000073, .ecall), (0x00100073, .ebreak), (0xCD102373, .csrrs 6 0 0xCD1), (0x0000607B, .trapRet), (0x0205607B, .ctxSave 10), (0x0405E57B, .ctxLoad 10 11), (0x0605607B, .sleep 10), (0x0800607B, .icacheInv),
    (0x0005707B, .dbgMark 10), (0x0200707B, .dbgStop)].all (fun p => decodeTableWord 32 p.1 == some p.2) = true := by decide +kernel
/-- The fates of words of the table after R324. -/
theorem test_worked_fates : decode16 0 = .illegal ∧ [0x00200053, 0x1000302F, 0xA4A4F1AB + 0x2000000, 0xACA4D1AB, 0x0000000B + 0x2B * 2 ^ 25, 0x0602000B, 0x0002907B].all (fun w => decode32 w == .illegal) = true ∧
    decode32 0xA6A4D1AB = .reserved false ∧ decode32 (0x0005207B + 3 * 2 ^ 25) = .reserved false ∧ decode32 0x0205607B = .ok (.ctxSave 10) := by decide +kernel
/-- The draws worked out after R232: 1 + 2⁻⁹ in four lanes, LSEED 0, WID 0, SRCTR 0. -/
theorem test_sr_draws : nextAnd (exec (.vcvt 1 2 8 0 10 5) (tT tS (fun t => t.putV 2 0x3F8040003F8040003F8040003F804000 {}))) (fun t =>
    rdV t 1 == 0x3F803F803F813F80 && t.th.srctr == 4 && t.th.fflags == 1) = true := by decide +kernel
/-- The block worked out after R235 and R382: 3.0, −0.7, 10.0, 0.1 and zeros to e2m1, rounded to nearest and toward zero, and back to
bf16. -/
theorem test_mx_block : (∀ p ∈ [(0, 0x693), (1, 0x683)], nextAnd (exec (.vmxEnc 2 8 0 0x14 6) (tT tS (fun t => { t.putV 8 0x3DCCCCCD41200000BF33333340400000 {} with frm := BitVec.ofNat 3 p.1 }))) (fun t =>
      rdV t 2 == BitVec.ofNat 128 p.2 && rdV t 3 == 0x80 && t.th.fflags == 3) = true) ∧
    nextAnd (exec (.vmxDec 16 2 0x14 4) (tT tS (fun t => (t.putV 2 0x693 {}).putV 3 0x80 {}))) (fun t => rdV t 16 == 0x00004100BF804040 && rdV t 17 == 0) = true := by decide +kernel
/-- The children worked out after R335. -/
theorem test_node_children : (∀ p ∈ [(0, 0xBF800000, 1), (1, 0x80000000, 4), (4, 0x7F800000, 10)], nextAnd (exec (.nodeCh 10 10 11) (tX (tX tS 10 (BitVec.ofNat 64 p.1)) 11 (BitVec.ofNat 64 p.2.1))) (fun t =>
      rdX t 10 == BitVec.ofNat 64 p.2.2) = true) ∧
    nextAnd (exec (.nodeCh 10 10 11) (tX (tX tVec 10 4) 11 0x7FC00000)) (fun t => rdX t 10 == 4 && bitsOf t.th.cause 6 0 == 0x43) = true := by decide +kernel
/-- The event list worked out after R247: six BF16 channels, EREF 2. -/
theorem test_event_list : nextAnd (exec .rkEnc (tT { tS with mem := memPuts tS.mem (tcmBase + 0x100) ([0x3F00, 0xC040, 0, 0x4040, 0x7FC0, 0x3D80].flatMap (natBytes 2)) } (fun t => { t with
      enc := some { w0 := BitVec.ofNat 64 (2 ^ 60 + 2 ^ 53), w1 := 6, w2 := tTcm + 0x100, w3 := tTcm + 0x200 } }))) (fun t =>
    (List.range 5).map (fun i => numAt t (tcmBase + 0x200 + 4 * i) 4) == [0x30001, 0x20003, 0x60000, 0xC0005, 0x400004]) = true := by decide +kernel
/-! ## The descents worked out after R273 and in the program of chapter 17 -/

/-- A tree block and the halfwords at an offset of the own TCM. -/
def tDesc4 (ws : List Nat) (at_ : Nat) (data : List Nat) : State := tX
  (setTree { tS with mem := memPuts tS.mem (tcmBase + at_) (data.flatMap (natBytes 2)) } { block := ws.map (BitVec.ofNat 64), launch := 0, state := .configured, pt := List.replicate 256 0 }) 5 (tTcm + 0x40)
def tProgram : List Nat := [0x3F00, 0x3F80, 0, 0xBF80, 0, 0, 0, 0x3E80, 0xBF80, 0x3F00, 0x3E80, 0, 0, 0, 0x3F40, 0, 0x3F80, 0, 0, 0xC000, 0, 0, 0, 0x4000, 0, 0xBF00, 0x3F00, 0, 0x3F80, 0xBF80, 0, 0,
  0x3F80, 0, 0, 0, 0, 0, 0, 0, 0, 0xBE80, 0, 0, 0, 0, 0, 0, 0, 0x3F80, 0xBF80, 0, 0, 0, 0, 0, 0, 0, 0, 0, 0, 0, 0, 0, 0, 0, 0, 0x3F80, 0, 0, 0, 0x3F00, 0, 0x3F00, 0, 0, 0, 0, 0, 0, 0, 0, 0, 0, 0x3F80, 0x3F80, 0, 0, 0, 0, 0, 0, 0, 0, 0, 0, 0, 0, 0, 0, 0, 0, 0x4000, 0, 0, 0xBF80, 0, 0, 0, 0, 0, 0, 0x3F80, 0, 0, 0, 0, 0, 0, 0xBF80, 0, 0, 0, 0, 0, 0, 0, 0, 0x3F00, 0x3F00, 0x3F00, 0x3F00, 0x3F00, 0x3F00, 0x3F00, 0x3F00, 0, 0, 0, 0, 0, 0, 0, 0]
theorem test_descent_program : nextAnd (exec (.trDesc 5) (tDesc4 [0x300C070300000000, tTcm.toNat + 0x80, 32 * 2 ^ 32 + 16, tTcm.toNat + 0x160, 8, tTcm.toNat + 0x1A0, 0, 0] 0x40 tProgram)) (fun t =>
    t.co.tree.pt.take 4 == [0x00300001, 0x00100003, 0x00200004, 0x00000005] && t.co.tree.lvl == 3 && t.co.tree.fetch == 6 && t.co.tree.groups == 3 && t.co.tree.state == .done &&
    (List.range 8).map (fun i => numAt t (tcmBase + 0x1A0 + 8 * i) 8) == [0xFFFFFFFE0168, 0x300001, 0xFFFFFFFE0178, 0x100003, 0xFFFFFFFE0180, 0x200004, 0xFFFFFFFE0188, 5]) = true := by decide +kernel
/-- D = 2, d = 2, NB = 4: inputs four bytes apart at 0x40, nodes 16 apart at 0x50, the leaf list at 0x100. -/
def tSmall : State := tDesc4 [0x3008010300000000, tTcm.toNat + 0x50, 16 * 2 ^ 32 + 4, tTcm.toNat + 0xC0, 8, tTcm.toNat + 0x100, 0, 0] 0x40
  [0x4000, 0xC040, 0x8000, 0x8000, 0x3F80, 0x3F80, 0xBF80, 0x3F00, 0x3F80, 0x3F80, 0, 0x8000, 0, 0, 0, 0, 0x3F80, 0xBF80, 0, 0, 0, 0, 0, 0, 0xBF80, 0, 0, 0x3F00, 0, 0, 0, 0]
theorem test_descent_small : nextAnd (exec (.trDesc 5) tSmall) (fun t =>
    t.co.tree.pt.take 4 == [0x00300000, 0x00000001, 0x00200002, 0x00100003] && t.co.tree.lvl == 2 && t.co.tree.groups == 2 && t.co.tree.fetch == 3) = true := by decide +kernel
/-- tr.bwd at level 1 after it. -/
theorem test_descent_backward : nextAnd (exec (.trBwd 10 6 7) (let s := tX (tX tSmall 6 (tTcm + 0x200)) 7 1; setTree s { s.co.tree with state := .done, lvl := 2, pt := [0x00300000, 0x00000001, 0x00200002, 0x00100003] ++ List.replicate 252 0 })) (fun t =>
    rdX t 10 == 2 && (List.range 4).map (fun i => numAt t (tcmBase + 0x200 + 4 * i) 4) == [0x00600001, 1, 0x00400002, 0x00200002]) = true := by decide +kernel
/-! ## The rank-order program of chapter 15 -/

/-- The encoder's list (R245, R246): eight BF16 channels, EREF 1. -/
theorem test_encoder_list : nextAnd (exec .rkEnc (tT { tS with mem := memPuts tS.mem (tcmBase + 0x20) ([0x3f00, 0xbfa0, 0x0, 0x4000, 0x3fa0, 0xbe80, 0x3f40, 0x3dcc].flatMap (natBytes 2)) } (fun t => { t with
      enc := some { w0 := 0x1010000000000000, w1 := 8, w2 := tTcm + 0x20, w3 := tTcm + 0x40 } }))) (fun t =>
    t.th.rk.emit == 7 && (List.range 8).map (fun i => numAt t (tcmBase + 0x40 + 4 * i) 4) == [0x3, 0x30001, 0x20004, 0x40006, 0x40000, 0x70005, 0xA0007, 0x400007]) = true := by decide +kernel
/-- A receiver of the program, configured by rk.cfg, that has taken the two stores: its block's words 0, 1, 2, 4 and 10, its trace and its
rows. -/
def tRecv (w0 w1 w w10 trace : Nat) (rows : List Int) : State :=
  let s := tX { tS with launches := tS.launches.map (fun l => { l with packet := l.packet.set 4 (l.word 4 ||| 0x8000000) }), mem := memPuts (memPuts (memPuts tS.mem (tcmBase + 0x80) ([w0, w1, tTcm.toNat + w, tTcm.toNat + 0x200, 0x10000, 0, tTcm.toNat + 0x280, trace, 0, 0, w10, 0, 0, 0, 0, 0].flatMap (natBytes 8)))
    (tcmBase + 0x200) ([0x3f80, 0x3f40, 0x3f00, 0x3ec0, 0x3e80, 0x3e00, 0x3d80, 0x3d00].flatMap (natBytes 2))) (tcmBase + w) (rows.map (fun x => BitVec.ofInt 8 x)) } 5 (tTcm + 0x80)
  match exec (.rkCfg 5) s with
  | .next s => (inletStore (inletStore s 0 0 0 ([3, 0x30001, 0x20004, 0x40006].flatMap (natBytes 4))).1 0 0 0 ([0x40000, 0x70005, 0xA0007, 0x400007].flatMap (natBytes 4))).1
  | _ => s
/-- Receiver 1: a full fold. -/
theorem test_fold_receiver_1 : nextAnd (exec (.rkFold 0) (tRecv 0x20000001C0C00007 0x440800000 0x210 0x0 0x0 [1, 2, -1, 0, 2, -1, 0, 3, 0, 0, 0, 0, 3, 1, -2, -1, -1, 2, 2, 1, 4, 0, 1, -2, 0, -3, 1, 2, -2, 1, 4, 1])) (fun t =>
    (List.range 4).map (fun j => numAt t (tcmBase + 0x280 + 4 * j) 4) == [0x3F200000, 0x400C0000, 0xBF400000, 0xBFD80000] && (rxOf t 0 0).any (fun r => r.stopn == 7)) = true := by decide +kernel
/-- Receiver 2: a top-1 stop after rank 2, the trace of what was folded. -/
theorem test_fold_receiver_2 : nextAnd (exec (.rkFold 0) (tRecv 0x20000201C0C00007 0x440800000 0x230 0xF 0xFFFFFFFE02C0 [1, 1, 1, 1, -4, 2, 3, 0, 0, 0, 0, 0, 4, 0, -2, 1, 4, -2, 0, 1, -1, 2, 0, 3, 2, -3, 1, 0, 0, 4, -4, 2])) (fun t =>
    (List.range 4).map (fun j => numAt t (tcmBase + 0x280 + 4 * j) 4) == [0x41100000, 0xC0200000, 0xC0880000, 0x3FC00000] && (rxOf t 0 0).any (fun r => r.stopn == 3)) = true := by decide +kernel
/-- Receiver 3: sign mode without a stop. -/
theorem test_fold_receiver_3 : nextAnd (exec (.rkFold 0) (tRecv 0x20000101C0400007 0x240400000 0x250 0x3 0x0 [1, 2, -3, 1, 0, 0, 2, 1, 1, -2, 0, 2, 2, 1, 1, 1])) (fun t =>
    (List.range 2).map (fun j => numAt t (tcmBase + 0x280 + 4 * j) 4) == [0x40BA0000, 0xBD800000] && (rxOf t 0 0).any (fun r => r.stopn == 7)) = true := by decide +kernel
/-- Its rank trace: folded to rank 2, drained from rank 3 on. -/
theorem test_fold_trace : nextAnd (exec (.rkFold 0) (tRecv 0x20000201C0C00007 0x440800000 0x230 0xF 0xFFFFFFFE02C0 [1, 1, 1, 1, -4, 2, 3, 0, 0, 0, 0, 0, 4, 0, -2, 1, 4, -2, 0, 1, -1, 2, 0, 3, 2, -3, 1, 0, 0, 4, -4, 2])) (fun t =>
    (List.range 7).map (fun i => numAt t (tcmBase + 0x2C0 + 4 * i) 4) == [0x3, 0x10001, 0x4, 0x40006, 0x40000, 0x50005, 0x40007]) = true := by decide +kernel
/-! ## The codes worked out after R237 and the sums worked out after R240 -/

def tCodes : List (BitVec 19) := [0, 0x1FC00, 0x1FE00, 0x1FE00, 0x20000, 0x3FC00, 0x5FC00] ++ List.replicate 249 0
theorem test_table_codes : [(0x3FA00000, true, 1, 1), (0x3FC00000, false, 2, 0), (0x40400000, true, 4, 5), (0x40400000, false, 5, 5), (0xC0A00000, false, 6, 5), (0xBF000000, true, 0, 1), (0x7FC00000, false, 0, 16)].all (fun p =>
    tableEncode tCodes p.2.1 (Fmt.f32.value p.1) == (p.2.2.1, p.2.2.2)) = true := by decide +kernel
/-- 500 and 460 in an e4m3 block whose scale is 0x7F: 448 or NaN as SAT says, and 448. -/
theorem test_e4m3_overflow : [(true, 0x7E), (false, 0x7F)].all (fun p => (mxEncode 0x10 0 p.1 [] ([0x43FA0000, 0x43E60000].map Fmt.f32.value ++ List.replicate 30 (Fmt.f32.value 0))).1.take 2 == [p.2, 0x7E]) = true := by decide +kernel
/-- Four f32 lanes 2²⁴, 1, 1, −2²⁴ sum to 1. -/
theorem test_reduction_tree : nextAnd (exec (.vredsum 1 2 0 6) (tT tS (fun t => t.putV 2 0xCB8000003F8000003F8000004B800000 {}))) (fun t => (rdV t 1).toNat % 2 ^ 32 == 0x3F800000) = true := by decide +kernel

end Sys2Proof.Tests
end

section
/-! SUPPORT. Proofs of the control family: fence and fence.tso (R332) and wid.get (R334). -/
namespace Sys2Proof.Machine

/-! ## A thread set that leads no other -/

/-- No thread set follows the executing one (R122). -/
def Unled (s : State) : Prop := ∀ p ∈ s.threads, ∀ f, p.2.fol = some f → f.leader ≠ s.cur

theorem tget_default_or_mem {α : Type} (t : Tab α) (k : Nat) (d : α) : tget t k d = d ∨ (k, tget t k d) ∈ t := by
  induction t with
  | nil => exact .inl rfl
  | cons p r ih =>
    obtain ⟨k', v⟩ := p
    by_cases hk : k' = k
    · exact .inr (by simp [tget, hk])
    · simpa [tget, hk, Ne.symm hk] using ih

/-- A thread set that leads no other does not follow itself. -/
theorem Unled.th {s : State} (h : Unled s) (f : Following) (hf : s.th.fol = some f) : f.leader ≠ s.cur := by
  rcases tget_default_or_mem s.threads s.cur {} with hd | hm
  · have hth : s.th = {} := hd
    simp [hth] at hf
  · exact h _ hm f hf

theorem Unled.setTh {s : State} (h : Unled s) (t : Thread) (ht : t.fol = s.th.fol) : Unled (s.setTh t) := by
  intro p hp f hf
  rcases mem_tset _ _ _ _ hp with rfl | hp
  · exact h.th f (ht ▸ hf)
  · exact h p hp f hf

/-! ## The end of an instruction outside a repetition -/

/-- What an instruction writes to its own thread set's record is all that it changes, the PC and the count apart: nobody is told. -/
theorem finish_setTh_unled {s : State} (h : Unled s) (t : Thread) (hf : t.fol = s.th.fol) (hr : t.rep = none) (i : Instr) :
    finish (s.setTh t) i = s.setTh (t.past s.ilen) := by
  simp only [finish, counted, issued, State.th_setTh, State.setTh_setTh, hr, State.setTh_ilen]
  rw [tellFollowers_alone _ _ (h.setTh _ (by simpa using hf))]
  simp [Thread.past, Thread.wentTo, hr]

theorem finish_setTh_th (s : State) (i : Instr) : finish (s.setTh s.th) i = finish s i := by simp [finish, counted]

theorem finish_unled {s : State} (h : Unled s) (hr : s.th.rep = none) (i : Instr) : finish s i = afterNone s := by
  rw [← finish_setTh_th, finish_setTh_unled h _ rfl hr]
  rfl

/-! ## fence and fence.tso (R332) -/

theorem issueN_of_entries {s : State} (h : s.th.entries ≠ []) (i : Instr) (ban : Bool) (eff : State → Eff) : issueN i ban eff s = .next s := by
  simp [issueN, h]
/-- An instruction that a repetition body may hold, with the window empty. -/
theorem issueN_of_noEntries {s : State} (h : s.th.entries = []) (i : Instr) (eff : State → Eff) : issueN i false eff s = settle i (eff s) := by
  simp [issueN, h]
theorem settle_wait (i : Instr) (h : holdsThread i = false) (s : State) : settle i (waitE s) = .next s := by simp [settle, waitE, h]

/-- What fence.s x0, device, rw does: it holds the thread set, or goes past (R187, R332). -/
def deviceFence (s : State) : Host.Outcome State Fault Refusal :=
  if s.th.entries ≠ [] ∨ fenceHeld s 4 true true = true then .next s else .next (afterNone s)

theorem deviceFence_held {s : State} (h : s.th.entries ≠ [] ∨ fenceHeld s 4 true true = true) : deviceFence s = .next s := if_pos h
theorem deviceFence_past {s : State} (he : s.th.entries = []) (hf : fenceHeld s 4 true true = false) : deviceFence s = .next (afterNone s) :=
  if_neg (by simp [he, hf])

/-- An instruction whose effect waits while the fence is held, and else changes nothing before its end, is that fence. -/
theorem issueN_eq_deviceFence {s : State} (i : Instr) (hi : holdsThread i = false) (eff : State → Eff)
    (hw : fenceHeld s 4 true true = true → eff s = waitE s)
    (hp : fenceHeld s 4 true true = false → settle i (eff s) = .next (afterNone s)) : issueN i false eff s = deviceFence s := by
  by_cases he : s.th.entries = []
  · rw [issueN_of_noEntries he]
    cases hf : fenceHeld s 4 true true with
    | true => rw [hw hf, settle_wait i hi, deviceFence_held (.inr hf)]
    | false => rw [hp hf, deviceFence_past he hf]
  · rw [issueN_of_entries he, deviceFence_held (.inl he)]

theorem plainFence_active {s : State} (h : Unled s) (hr : s.th.rep = none) (i : Instr) (hi : holdsThread i = false) :
    plainFence i true s = deviceFence s :=
  issueN_eq_deviceFence i hi _ (fun hf => by simp [hf]) (fun hf => by simp [hf, settle, finish_unled h hr])

theorem exec_fence_active {s : State} (h : Unled s) (hr : s.th.rep = none) (d a : Reg) (m p k : BitVec 4) (hp : p ≠ 0) (hk : k ≠ 0) :
    exec (.fence d a m p k) s = deviceFence s := by
  have hactive : (p != 0 && k != 0) = true := by rw [bne_iff_ne.mpr hp, bne_iff_ne.mpr hk]; rfl
  rw [exec_fence, execFence, hactive]
  exact plainFence_active h hr _ rfl

theorem exec_fenceTso_unled {s : State} (h : Unled s) (hr : s.th.rep = none) (d a : Reg) : exec (.fenceTso d a) s = deviceFence s :=
  plainFence_active h hr _ rfl

/-- R356 with rd = x0: no register is read or pending, and the bitmap is discarded. -/
theorem exec_fenceS_device_x0 {s : State} (h : Unled s) (hr : s.th.rep = none) : exec (.fenceS 0 4 3) s = deviceFence s := by
  have hpend : regsPend s [] [0] = false := by simp [regsPend]
  have hregs : checkRegs s [] [] = .ok s := by simp [checkRegs, readErrors]
  have hscope : (4 : BitVec 3).toNat = 4 := rfl
  have hread : bitOf (3 : BitVec 2) 0 = true := rfl
  have hwrite : bitOf (3 : BitVec 2) 1 = true := rfl
  have hx0 : wrX s {} 0 (stickyMap s s.myCtx) = s.setTh s.th := by simp [wrX, Thread.putX]
  rw [exec_fenceS, execFenceS, issueNR, hpend, if_neg Bool.false_ne_true]
  refine issueN_eq_deviceFence _ rfl _ (fun hf => ?_) (fun hf => ?_)
  · simp only [hregs, bind, Except.bind, hscope, hread, hwrite, hf, if_true]
  · simp only [hregs, bind, Except.bind, hscope, hread, hwrite, hf, Bool.false_eq_true, if_false, settle, hx0, finish_setTh_th, finish_unled h hr]

/-- With pred or succ 0000 a fence has no effect. -/
theorem exec_fence_inert {s : State} (h : quiet s = true) (d a : Reg) (m p k : BitVec 4) (hpk : p = 0 ∨ k = 0) :
    exec (.fence d a m p k) s = .next (afterNone s) := by
  have hinert : (p != 0 && k != 0) = false := by rcases hpk with rfl | rfl <;> simp
  rw [exec_fence, execFence, plainFence, issueN_quiet h, hinert]
  simp [settle, finish_quiet h, afterNone]

/-- A pending access of the thread set that the fence names holds it where its home is in the scope. -/
theorem fenceHeld_of_pending {s : State} {f : Far} {scope : Nat} {r w : Bool} (hf : f ∈ s.far) (ht : f.tid = s.cur) (ho : f.over = false)
    (hn : f.kind.named r w = true) (hp : ∃ p ∈ f.pieces, p.done = false ∧ inScope s.myCore scope f.dev p.key = true) :
    fenceHeld s scope r w = true := by
  obtain ⟨p, hp, hd, hs⟩ := hp
  refine List.any_eq_true.mpr ⟨f, hf, ?_⟩
  have hpiece : (f.pieces.any fun p => !p.done && inScope s.myCore scope f.dev p.key) = true :=
    List.any_eq_true.mpr ⟨p, hp, by simp [hd, hs]⟩
  simp [ht, ho, hn, hpiece]

@[simp] theorem inScope_job (g dev k : Nat) : inScope g 5 dev k = true := rfl
theorem inScope_device (g dev k : Nat) : inScope g 4 dev k = (dev == 0) := by
  by_cases h : dev = 0 <;> simp [inScope, h]

/-- Accesses with a home on another device do not hold a fence with scope device. -/
theorem fenceHeld_device_of_elsewhere {s : State} {r w : Bool}
    (h : ∀ f ∈ s.far, f.tid = s.cur → f.over = false → f.kind.named r w = true → f.dev ≠ 0) : fenceHeld s 4 r w = false := by
  refine List.any_eq_false.mpr fun f hf hheld => ?_
  simp only [Bool.and_eq_true, beq_iff_eq, Bool.not_eq_true', inScope_device, List.any_eq_true] at hheld
  obtain ⟨⟨⟨ht, ho⟩, hn⟩, p, -, -, hdev⟩ := hheld
  exact h f hf ht ho hn hdev

/-- Settles O26: fence and fence.tso are both what fence.s x0, device, rw is, `deviceFence`, where pred and succ name something. -/
theorem plainFences : Obligations.PlainFences := by
  refine ⟨fun s d a m p k hq hpk => exec_fence_inert hq d a m p k hpk, ?_, ?_, fun s => fenceHeld_device_of_elsewhere⟩
  · intro s d a m m' p k hp hk hr _ halone
    have hunled : Unled s := halone
    rw [exec_fence_active hunled hr d a m p k hp hk, exec_fence_active hunled hr d a m' p k hp hk, exec_fenceTso_unled hunled hr,
      exec_fenceS_device_x0 hunled hr]
    exact ⟨rfl, rfl, rfl, deviceFence_held, deviceFence_past⟩
  · intro s f hf ht ho ⟨p, hp, hd⟩ hn
    exact ⟨fun hdev => fenceHeld_of_pending hf ht ho hn ⟨p, hp, hd, by simp [inScope_device, hdev]⟩,
      fenceHeld_of_pending hf ht ho hn ⟨p, hp, hd, inScope_job _ _ _⟩⟩

/-! ## wid.get (R334) -/

/-- An instruction that names no v register performs its effect and nothing besides. -/
theorem perform_of_noV (s : State) (u : Use) (hr : u.rv = []) (hw : u.wv = []) (eff : State → Eff) : perform s u eff = eff s := by
  have hreads : streamReads s u.rv = .ok s := by rw [hr]; rfl
  have hwrites (t : State) : streamWrites t u.wv = .ok t := by rw [hw]; rfl
  simp only [perform, hreads, bind, Except.bind]
  cases he : eff s with
  | ok t => simp [hwrites]
  | error x => cases x <;> simp [hr]

/-- wid.get writes an x register and reads none. -/
def widGetUse (d : Reg) : Use := { wx := [d], noMask := true }

theorem blockedBy_widGetUse {s : State} {d : Reg} (h : farPendX s s.cur d = false) : blockedBy s [] (streamUse s (widGetUse d)) = false := by
  simp [blockedBy, streamUse, widGetUse, streamStores, Use.accesses, h]

theorem checkUse_widGetUse {s : State} (h : s.th.misres = 0) (d : Reg) : checkUse s (widGetUse d) = .ok s := by
  simp [checkUse, checkRegs, readErrors, checkResult, widGetUse, h, bind, Except.bind]

/-- A leaderless or a following thread set alike: wid.get gives its own WID. -/
theorem exec_widGet_unled {s : State} (h : Unled s) (d : Reg) (hw : s.winRun = none) (he : s.th.entries = []) (hr : s.th.rep = none)
    (hm : s.th.misres = 0) (hf : farPendX s s.cur d = false) : exec (.widGet d) s = .next (afterX s d {} s.th.wid) := by
  have hblocked := blockedBy_widGetUse hf
  have hcheck := checkUse_widGetUse hm d
  rw [exec_widGet, execWidGet, ← widGetUse]
  simp only [issueD, hw, he, hblocked, hcheck, perform_of_noV _ (widGetUse d) rfl rfl, bind, Except.bind, settle, wrX]
  rw [finish_setTh_unled h _ (by simp) (by simpa using hr)]
  rfl

theorem encode32_widGet (d : Reg) : encode32 (.widGet d) = some (0x7B + 0x80 * d.toNat) := by
  simp [encode32, encodeFields, packFields]

/-- Settles O28: with nothing outstanding, and as a follower, wid.get is `exec_widGet_unled`; its word has no operand but rd. -/
theorem widGet : Obligations.WidGet := by
  refine ⟨fun s d hq => ?_, fun s d hw he hr hm hf halone _ _ => exec_widGet_unled halone d hw he hr hm hf, encode32_widGet, by decide +kernel,
    fun _ => rfl⟩
  exact exec_widGet_unled (quiet_alone hq) d (quiet_turn hq) (quiet_entries hq) (quiet_rep hq) (quiet_misres hq) (quiet_farX hq d)

end Sys2Proof.Machine
end

section
/-! SUPPORT. Proofs of the system family: ecall and ebreak (R430), with what trap entry leaves of the record of its thread set (R284, R286). -/
namespace Sys2Proof.Machine

/-! ## What leaves every thread set's record as it was -/

/-- Every thread set's record is the same, and the same one executes. -/
def SameThreads (s s' : State) : Prop := s'.threads = s.threads ∧ s'.cur = s.cur

theorem SameThreads.refl (s : State) : SameThreads s s := ⟨rfl, rfl⟩
theorem SameThreads.trans {s s' s'' : State} (h : SameThreads s s') (h' : SameThreads s' s'') : SameThreads s s'' :=
  ⟨h'.1.trans h.1, h'.2.trans h.2⟩
theorem SameThreads.th {s s' : State} (h : SameThreads s s') : s'.th = s.th := by
  simp only [State.th, State.thread, h.1, h.2]

theorem SameThreads.setCore (s : State) (g : Nat) (c : Core) : SameThreads s (s.setCore g c) := ⟨rfl, rfl⟩
theorem SameThreads.setCtx (s : State) (c : Nat) (x : Ctx) : SameThreads s (s.setCtx c x) := ⟨rfl, rfl⟩
theorem SameThreads.raiseVector (s : State) (fn vec : Nat) : SameThreads s (raiseVector s fn vec) := ⟨rfl, rfl⟩
theorem SameThreads.forgetMisses (s : State) (tid : Nat) : SameThreads s (forgetMisses s tid) := ⟨rfl, rfl⟩

/-! ### The units of a core (R133, R277, R415) -/

theorem abandonTree_sameThreads (s : State) (tid : Nat) : SameThreads s (abandonTree s tid) := by
  simp only [abandonTree]
  split
  · exact .setCore ..
  · exact .refl _
theorem abandonFold_sameThreads (s : State) (tid : Nat) : SameThreads s (abandonFold s tid) := by
  simp only [abandonFold]
  split
  · exact .setCore ..
  · exact .refl _
theorem leaveUnits_sameThreads (s : State) (tid : Nat) : SameThreads s (leaveUnits s tid) := by
  have hunits := (abandonTree_sameThreads s tid).trans (abandonFold_sameThreads _ tid)
  simp only [leaveUnits]
  split
  · exact hunits.trans (.setCore ..)
  · exact hunits

/-! ### The hub's stores and the fault ring (R287 to R289) -/

theorem putKeys_sameThreads (s : State) (ks : List (Nat × Nat)) (bs : List Byte) : SameThreads s (putKeys s ks bs) := by
  induction ks generalizing s bs with
  | nil => exact .refl _
  | cons k r ih => exact SameThreads.trans (s' := memWrite s k.1 (bs.take k.2)) ⟨rfl, rfl⟩ (ih _ _)
theorem hubStore_sameThreads (s : State) (ks : List (Nat × Nat)) (bs : List Byte) : SameThreads s (hubStore s ks bs) := by
  simp only [hubStore]
  split
  · exact ⟨rfl, rfl⟩
  · exact putKeys_sameThreads s ks bs
theorem hubWrite_sameThreads {s s' : State} {c : Nat} {a : Word} {bs : List Byte} (h : hubWrite s c a bs = .ok s') : SameThreads s s' := by
  -- The translation is named, so that the kernel does not evaluate it at each split.
  obtain ⟨keysOf, hkeys⟩ : ∃ f, f = hubKeys s c := ⟨_, rfl⟩
  rw [hubWrite, ← hkeys] at h
  split at h
  · split at h
    · cases h
    · split at h
      · cases h
      · split at h
        · cases h
        · exact Except.ok.inj h ▸ hubStore_sameThreads ..
  · cases h
theorem countUe_sameThreads (s : State) (ks : List (Nat × Nat)) (code : Nat) : SameThreads s (countUe s ks code) := by
  unfold countUe
  split
  · exact ⟨rfl, rfl⟩
  · exact .refl _
theorem hubUe_sameThreads (s : State) (c : Nat) (a : Word) (n code : Nat) : SameThreads s (hubUe s c a n code) :=
  countUe_sameThreads ..

theorem writeFault_sameThreads (s : State) (c : Nat) (f : FaultInfo) : SameThreads s (writeFault s c f) := by
  unfold writeFault
  extract_lets x need used lost parts put
  have hput : ∀ r, put = .ok r → SameThreads s r.1 := by
    refine List.foldlRecOn (motive := fun acc : Except Nat (State × Nat) => ∀ r, acc = .ok r → SameThreads s r.1) _ _ ?_ ?_
    · intro r hr
      cases hr
      exact .refl _
    · intro acc hacc b _ r hr
      split at hr
      · cases hr
      · split at hr <;> cases hr
        next hw => exact (hacc _ rfl).trans (hubWrite_sameThreads hw)
  clear_value put
  split
  · exact .refl _
  split
  · exact (SameThreads.setCtx ..).trans (.raiseVector ..)
  rcases put with k | ⟨s', n⟩
  · exact ((hubUe_sameThreads ..).trans (.setCtx ..)).trans (.raiseVector ..)
  · have hwritten (x' : Ctx) : SameThreads s (s'.setCtx c x') := (hput _ rfl).trans (.setCtx ..)
    dsimp only
    split
    · exact (hwritten _).trans (.raiseVector ..)
    · exact hwritten _

@[simp] theorem writeFault_th (s : State) (c : Nat) (f : FaultInfo) : (writeFault s c f).th = s.th := (writeFault_sameThreads s c f).th
@[simp] theorem raiseVector_th (s : State) (fn vec : Nat) : (raiseVector s fn vec).th = s.th := (SameThreads.raiseVector s fn vec).th

/-! ## Detaching followers (R123) -/

/-- An update of a table's entries that leaves the default as it is, read back. -/
theorem tget_tmap {α : Type} (t : Tab α) (f : Nat → α → α) (k : Nat) (d : α) (hd : f k d = d) : tget (tmap t f) k d = f k (tget t k d) := by
  induction t with
  | nil => exact hd.symm
  | cons p r ih =>
    obtain ⟨k', v⟩ := p
    by_cases hk : k' = k
    · simp [tmap, tget, hk]
    · simpa [tmap, tget, hk] using ih

@[simp] theorem detachFollowers_cur (s : State) (l : Nat) : (detachFollowers s l).cur = s.cur := by
  simp only [detachFollowers]
  split <;> rfl
/-- A thread set that follows none does not detach. -/
theorem detachFollowers_th {s : State} (h : s.th.fol = none) (l : Nat) : (detachFollowers s l).th = s.th := by
  have hfol : (tget s.threads s.cur {}).fol = none := h
  rw [State.th, detachFollowers_cur, State.thread, detachFollowers]
  split
  · dsimp only
    rw [tget_tmap _ _ _ _ (by rfl), hfol]
    rfl
  · rfl

theorem detachFollowers_setTh_th (s : State) (t : Thread) (ht : t.fol = none) (l : Nat) : (detachFollowers (s.setTh t) l).th = t :=
  (detachFollowers_th (by simpa using ht) l).trans (s.th_setTh t)

/-! ## Trap entry (R284, R286) -/

/-- What a precise trap records, at a handler or frozen alike, and what it ends: a deferral, a following, a held or waiting instruction. -/
def Thread.trapRecorded (t : Thread) (code : Nat) (faddr : Word) : Thread :=
  { t with
    epc := t.pc, cause := causeWord false false code, faddr := faddr
    drain := false, hold := false, defTrap := none, fol := none, anyList := none, anyOver := false, mark := none, noMatch := false }

theorem leaveUnits_forgetMisses_th (s : State) : (leaveUnits (forgetMisses s s.cur) s.cur).th = s.th :=
  ((SameThreads.forgetMisses s s.cur).trans (leaveUnits_sameThreads _ _)).th

/-- R284: with TVEC not 0 the mode becomes kernel and the PC goes to TVEC; a repetition is suspended (R141). -/
theorem takeTrap_th_handled {s : State} (h : s.th.tvec ≠ 0) (code : Nat) (faddr : Word) :
    (takeTrap s code faddr).th = { s.th.trapRecorded code faddr with
      pmode := s.th.kernel, kernel := true, pc := s.th.tvec, run := .running, tdepth := s.th.tdepth + 1
      rep := s.th.rep.map (fun r => { r with depth := r.depth + 1, buf := [] }) } := by
  simp only [takeTrap, takeTrapAs, leaveUnits_forgetMisses_th, if_neg h]
  exact detachFollowers_setTh_th _ _ rfl _

/-- R286: with TVEC 0 the thread set is frozen in place, whatever becomes of its fault record. -/
theorem takeTrap_th_frozen {s : State} (h : s.th.tvec = 0) (code : Nat) (faddr : Word) :
    (takeTrap s code faddr).th = { s.th.trapRecorded code faddr with run := .frozen } := by
  simp only [takeTrap, takeTrapAs, leaveUnits_forgetMisses_th, if_pos h, apply_ite State.th, raiseVector_th, writeFault_th, ite_self]
  exact detachFollowers_setTh_th _ _ rfl _

/-- What the handler finds of a precise trap, or the host of a frozen thread set. -/
theorem takeTrap_recorded (s : State) (code : Nat) (faddr : Word) :
    (takeTrap s code faddr).th.epc = s.th.pc ∧ (takeTrap s code faddr).th.faddr = faddr ∧
    (takeTrap s code faddr).th.cause = causeWord false false code := by
  by_cases h : s.th.tvec = 0
  · rw [takeTrap_th_frozen h]
    exact ⟨rfl, rfl, rfl⟩
  · rw [takeTrap_th_handled h]
    exact ⟨rfl, rfl, rfl⟩

/-! ## ecall and ebreak (R430) -/

/-- A never-deferred instruction outside a repetition, with nothing in the window that it waits for: its effect is tried at once. -/
theorem issueN_unrepeated {s : State} (he : s.th.entries = []) (hr : s.th.rep = none) (i : Instr) (ban : Bool) (eff : State → Eff) :
    issueN i ban eff s = settle i (eff s) := by
  simp [issueN, inRep, he, hr]

theorem settle_trapE (i : Instr) (s : State) (code : Nat) (faddr : Word) : settle i (trapE s code faddr) = .next (takeTrap s code faddr) := rfl

theorem entries_of_window {t : Thread} (h : t.window = []) : t.entries = [] := by simp [Thread.entries, h]

theorem exec_ecall_unrepeated {s : State} (hw : s.th.window = []) (hr : s.th.rep = none) : exec .ecall s = .next (takeTrap s 0x04) := by
  rw [exec_ecall, execEcall, issueN_unrepeated (entries_of_window hw) hr, settle_trapE]
theorem exec_ebreak_unrepeated {s : State} (hw : s.th.window = []) (hr : s.th.rep = none) : exec .ebreak s = .next (takeTrap s 0x70) := by
  rw [exec_ebreak, execEbreak, issueN_unrepeated (entries_of_window hw) hr, settle_trapE]

theorem eq_takeTrap_of_ecall {s t : State} (hw : s.th.window = []) (hr : s.th.rep = none) (h : exec .ecall s = .next t) :
    t = takeTrap s 0x04 := Host.Outcome.next.inj (h.symm.trans (exec_ecall_unrepeated hw hr))
theorem eq_takeTrap_of_ebreak {s t : State} (hw : s.th.window = []) (hr : s.th.rep = none) (h : exec .ebreak s = .next t) :
    t = takeTrap s 0x70 := Host.Outcome.next.inj (h.symm.trans (exec_ebreak_unrepeated hw hr))

/-- R301: a breakpoint entry that matches the PC stops the thread set before its next instruction is fetched. -/
theorem issueNew_breakpoint {s : State} (hdef : s.th.defTrap = none) (hdrain : s.th.drain = false) (hbegun : s.th.begun = none)
    (hwalk : xltWaits s s.cur = false) (hroom : s.th.entries.length < 16) (hhit : breakpointHit s = true) :
    issueNew s = exec .breakpointMatch s := by
  have hfull : ¬ 16 ≤ s.th.entries.length := Nat.not_le.mpr hroom
  simp [issueNew, hdef, hdrain, hbegun, hwalk, hfull, hhit]

/-- R301: the instruction at which a stop has resumed is not matched again. -/
theorem breakpointHit_of_noMatch {s : State} (h : s.th.noMatch = true) : breakpointHit s = false := by simp [breakpointHit, h]

/-- Settles O24: either instruction is the trap with its cause, and `takeTrap_th_handled` and `takeTrap_th_frozen` say what that leaves. -/
theorem ecallEbreakTrap : Obligations.EcallEbreakTrap := by
  refine ⟨fun s hw hr => ⟨exec_ecall_unrepeated hw hr, exec_ebreak_unrepeated hw hr⟩, fun s t hw hr hexec => ?_, fun s hw hr t hexec => ?_,
    fun s => issueNew_breakpoint, fun s => breakpointHit_of_noMatch⟩
  · obtain ⟨code, htrap⟩ : ∃ code, t = takeTrap s code := by
      rcases hexec with hecall | hebreak
      · exact ⟨0x04, eq_takeTrap_of_ecall hw hr hecall⟩
      · exact ⟨0x70, eq_takeTrap_of_ebreak hw hr hebreak⟩
    obtain ⟨hepc, hfaddr, -⟩ := takeTrap_recorded s code 0
    refine ⟨htrap ▸ hepc, htrap ▸ hfaddr, fun hecall => ?_, fun htvec => ?_, fun htvec => ?_⟩
    · rw [eq_takeTrap_of_ecall hw hr hecall]
      obtain ⟨-, -, hcause⟩ := takeTrap_recorded s 0x04 0
      exact hcause
    · rw [htrap, takeTrap_th_handled htvec]
      exact ⟨rfl, rfl, rfl⟩
    · rw [htrap, takeTrap_th_frozen htvec]
      exact ⟨rfl, rfl, rfl, rfl⟩
  · rw [eq_takeTrap_of_ebreak hw hr hexec]
    obtain ⟨-, -, hcause⟩ := takeTrap_recorded s 0x70 0
    exact hcause

end Sys2Proof.Machine
end
